-- ==== Sys2Proof/Word.lean ====
section
/-!
DEFINITION. The words of the SQ4 and sparse tables. Registers, packet fields, record fields and encoded numbers
are bit vectors (spec 00 R12); counts, addresses as keys and identifiers of units are natural numbers.
-/
namespace Sys2Proof

abbrev Byte := BitVec 8
abbrev W16 := BitVec 16
abbrev W32 := BitVec 32
abbrev W64 := BitVec 64

/-- A table keyed by number; a key that is not listed has the reader's default. Keys rise. -/
abbrev Tab (α : Type) := List (Nat × α)

/-- The entry of key `k`, or `d`. -/
def Tab.get {α : Type} (t : Tab α) (k : Nat) (d : α) : α :=
  match t with
  | [] => d
  | (a, v) :: r => if a = k then v else Tab.get r k d

/-- The table with key `k` holding `v`. -/
def Tab.set {α : Type} (t : Tab α) (k : Nat) (v : α) : Tab α :=
  match t with
  | [] => [(k, v)]
  | (a, w) :: r =>
    if k < a then (k, v) :: (a, w) :: r
    else if a = k then (k, v) :: r
    else (a, w) :: Tab.set r k v

/-- The table with key `k` changed by `f` (from `d` when unlisted). -/
def Tab.mod {α : Type} (t : Tab α) (k : Nat) (d : α) (f : α → α) : Tab α :=
  Tab.set t k (f (Tab.get t k d))

end Sys2Proof
end

