-- ==== Sys2Proof/Syntax.lean ====
section
/-!
DEFINITION. The commands of the SQ4: one constructor of `Instr` per row of spec/opcode_table.json.
A row that is an opcode of Table 11-6 names the fetched packet it runs (its parameters are the packet's words,
spec 11 R472); every other row carries what arrives from outside or the unit the event concerns.
-/
namespace Sys2Proof

/-- A fetched command: interface, submission queue, and the ordinal of its packet in that queue (0 is the first
packet of the interface's queue of that number; the destruction of a queue passes over 8,192 ordinals). -/
structure CmdId where
  iface : Nat
  queue : Nat
  ord : Nat
deriving DecidableEq, Repr, Inhabited

/-- A block shipped by a prefill (spec 07 R191). -/
structure KvBlock where
  request : W32
  index : Nat
  positions : Nat
  fmt : Byte
  epoch : W32
  srcModule : Nat
  srcPart : Nat
  data : List Byte
deriving DecidableEq, Repr, Inhabited

/-- The final message of a prefill (spec 07 R192). -/
structure KvFinal where
  request : W32
  srcModule : Nat
  srcPart : Nat
  fmt : Byte
  promptLen : Nat
  blocks : Nat
  epoch : W32
deriving DecidableEq, Repr, Inhabited

/-- A request for rows of an epoch, as a source receives it (spec 10 R259, R264). -/
structure PieceReq where
  fromModule : Nat
  fromPart : Nat
  epoch : W32
  tensorId : W32
  rowLo : Nat
  rowCnt : Nat
  colLo : Nat
  colCnt : Nat
  fmt : Byte
  dscale : W32
deriving DecidableEq, Repr, Inhabited

/-- How a source answers a piece request (spec 10 R259, R260, R265; 13 R348). -/
inductive PieceAnswer where
  | data (bytes : List Byte)   -- the rows in the destination format, laid out under R474
  | object (header : List W32) (elems scales : List Byte)   -- read of a storage object: its header, the bytes of the rows
                                                            -- at its full width, the scales of the groups they touch
  | stale
  | notHeld
  | refused
  | unreadable
deriving DecidableEq, Repr, Inhabited

/-- An answer that arrives at the distributor of a partition (spec 10 R264). Rows count within the map entry. -/
structure Piece where
  epoch : W32
  entry : Nat
  row : Nat
  rows : Nat
  answer : PieceAnswer
deriving DecidableEq, Repr, Inhabited

/-- A Benzel packet as it leaves the link (spec 14 R371): the eight header words, the payload, the CRC-32C received,
whether the UDP checksum was zero or right, and whether the packet was marked Congestion Experienced. -/
structure BzPacket where
  hdr : List W32
  payload : List Byte
  crc : W32
  udpOk : Bool
  ce : Bool
deriving DecidableEq, Repr, Inhabited

/-- One block of a collective partial or gather (spec 14 R381, R383): plan entry, block, N, and the 64 element values
(SUM: FP32 patterns, VOTE: counts, gather: forward-copy patterns). -/
structure CollBlock where
  entry : Nat
  block : Nat
  n : Nat
  vals : List W32
deriving DecidableEq, Repr, Inhabited

/-- A collective partial or gather (spec 14 R379-R383). -/
structure CollMsg where
  groupId : W32
  q : W32
  rank : Nat
  owner : Nat
  kind : Nat
  digest : W32
  err : W32
  blocks : List CollBlock
deriving DecidableEq, Repr, Inhabited

/-- A sending Benzel flow of a partition of this module (spec 14 R373). -/
structure FlowId where
  part : Nat
  dstModule : Nat
  dstPart : Nat
  flow : Nat
deriving DecidableEq, Repr, Inhabited

/-- A flow as its receiver names it (spec 14 R373). -/
structure RecvId where
  srcModule : Nat
  srcPart : Nat
  flow : Nat
deriving DecidableEq, Repr, Inhabited

/-- A rate of Table 14-2: a host queue pair, or a source fabric link with a destination module. -/
inductive RateKey where
  | qp (port qpn : Nat)
  | path (link dstModule : Nat)
deriving DecidableEq, Repr, Inhabited

/-- A port of the module. -/
inductive Port where
  | host (p : Nat)
  | link (k : Nat)
  | mgmt
deriving DecidableEq, Repr, Inhabited

/-- An RDMA request that arrives on a host port (spec 14 R363). `offset` counts from the start of the region the key
names. `ce`: marked Congestion Experienced. -/
structure RdmaWrite where
  qpn : Nat
  rkey : W32
  offset : Nat
  data : List Byte
  ce : Bool
deriving DecidableEq, Repr, Inhabited

structure RdmaRead where
  qpn : Nat
  rkey : W32
  offset : Nat
  len : Nat
  ce : Bool
deriving DecidableEq, Repr, Inhabited

/-- A response to the module's own RDMA request (spec 14 R363): the bytes of a READ, empty otherwise. -/
structure RdmaResponse where
  data : List Byte
  ce : Bool
deriving DecidableEq, Repr, Inhabited

/-- A register space: an interface's control window, or the management space (spec 11 R303, 17 R453). -/
inductive RegSpace where
  | window (iface : Nat)
  | mgmt
deriving DecidableEq, Repr, Inhabited

/-- A detection of a fault source (spec 15 R392, R395). `part`: the partition the unit or command belongs to;
`cmd`: the command in whose work it was detected. -/
structure Detection where
  source : Nat
  inst : Nat
  part : Option Nat
  info : Nat
  cmd : Option CmdId
deriving DecidableEq, Repr, Inhabited

/-- Where a management request arrives (spec 17 R444, R446). -/
inductive MgmtPath where
  | port
  | proxy
  | i3c
deriving DecidableEq, Repr, Inhabited

/-- A management request (spec 17 R444, Table 17-3): `src` is the source address and UDP port of its datagram, empty on the other
paths; the body is the words from offset 0x20 to the MAC. -/
structure MgmtReq where
  path : MgmtPath
  src : List Byte
  tag : W32
  counter : W64
  mac : List Byte
  body : List W32
deriving DecidableEq, Repr, Inhabited

/-- What Milpeost reads of the sensors in one run of the thermal loop (spec 16 R424). Temperatures in 0.01 degree. -/
structure ThermalReading where
  hottest : Nat
  sensor : Nat
  fraction : Nat
deriving DecidableEq, Repr, Inhabited

inductive Instr where
  -- 0x01 query and control
  | ctlNop (c : CmdId)
  | queCreate (c : CmdId)
  | queDestroy (c : CmdId)
  | ctlKill (c : CmdId)
  -- 0x02 memory
  | memAlloc (c : CmdId)
  | memFree (c : CmdId)
  | memPlace (c : CmdId)
  | layerPlan (c : CmdId)
  | memStats (c : CmdId)
  | memExpose (c : CmdId)
  | memUnexpose (c : CmdId)
  -- 0x03 compute
  | matmul (c : CmdId)
  | vecEwise (c : CmdId)
  | sfuEval (c : CmdId)
  | rowSoftmax (c : CmdId)
  | rowNorm (c : CmdId)
  | lossGather (c : CmdId)
  | lossClip (c : CmdId)
  | lossReduce (c : CmdId)
  | scaleLoad (c : CmdId)
  | tableLoad (c : CmdId)
  -- 0x04 generation
  | genConfig (c : CmdId)
  | genAdmit (c : CmdId)
  | genStep (c : CmdId)
  | genCancel (c : CmdId)
  | genPrefill (c : CmdId)
  | genComplRing (c : CmdId)
  | kvBlockReceive (part : Nat) (b : KvBlock)
  | prefillFinalMessage (part : Nat) (m : KvFinal)
  | kvDeadlineExpiry (part slot : Nat)
  | pinDrop (part : Nat)
  | budgetRefill
  | completionEntryWrite (iface : Nat)
  -- 0x05 learning
  | learnPlan (c : CmdId)
  | learnStep (c : CmdId)
  | gradReduce (c : CmdId)
  | ruleLoad (c : CmdId)
  | ruleApply (c : CmdId)
  | paramGather (c : CmdId)
  | maskSet (c : CmdId)
  -- 0x06 weights and epochs
  | epoMap (c : CmdId)
  | epoGrant (c : CmdId)
  | budLoad (c : CmdId)
  | budAreaAcquire (part : Nat)
  | budDeadlineExpiry (part : Nat)
  | budPublish (c : CmdId)
  | prefillSwitch (part : Nat)
  | budDiscard (c : CmdId)
  | pieceRequestReceive (part : Nat) (r : PieceReq)
  | pieceArrival (part : Nat) (p : Piece)
  | pieceRetry (part : Nat)
  | pieceRequestTimeout (part : Nat)
  | transposeBlock (part : Nat) (handle : W32) (block : Nat)
  | stagingFetchComplete (ctx : Nat)
  | weightDeadline (c : CmdId) (index : Nat)
  -- 0x07 experience
  | expRingCreate (c : CmdId)
  | expClassSet (c : CmdId)
  | expScore (c : CmdId)
  | expGather (c : CmdId)
  | expRingDestroy (c : CmdId)
  -- 0x08 synchronisation
  | evtSet (c : CmdId)
  | evtWait (c : CmdId)
  | semInit (c : CmdId)
  | semAcquire (c : CmdId)
  | semRelease (c : CmdId)
  -- 0x09 checkpoint
  | ckpConfig (c : CmdId)
  | ckpStep (c : CmdId)
  | ckpTimerExpiry (part : Nat)
  | drainWriteAck (part : Nat)
  | ckpRestore (c : CmdId)
  | ckpStatus (c : CmdId)
  -- 0x0A random
  | rngSet (c : CmdId)
  | rngFill (c : CmdId)
  | rngStateGet (c : CmdId)
  | rngStatePut (c : CmdId)
  | tableRefill (ctx tile : Nat)
  -- 0x0B contexts
  | ctxCreate (c : CmdId)
  | ctxDestroy (c : CmdId)
  | ctxPriority (c : CmdId)
  | ctxState (c : CmdId)
  -- the packet path and the control window
  | doorbellWrite (iface queue : Nat) (tail : W32)
  | packetFetch (iface queue : Nat)
  | commandDispatch (c : CmdId)
  | commandCompletion (part : Nat)
  | commandTimeout (c : CmdId)
  | replyHeadWrite (iface queue : Nat) (value : W32)
  | replyRingConfig (iface queue : Nat) (value : W32)
  | cringRdWrite (iface : Nat) (value : W32)
  | ctxSelWrite (iface : Nat) (value : W32)
  | rcCounterRead (space : RegSpace) (offset width : Nat)
  | viewPendClear (iface : Nat) (value : W32)
  | registerWrite (space : RegSpace) (offset width : Nat) (value : W64)
  -- the scheduler
  | contextSwitch (part : Nat)
  | switchComplete (part : Nat)
  | rotation (part : Nat)
  | donationBegin (part : Nat)
  | donationEnd (part : Nat)
  | donationQuantumExpiry (part : Nat)
  -- the fabric
  | collPacketReceive (part : Nat) (m : CollMsg)
  | benzelDataReceive (link : Nat) (p : BzPacket)
  | benzelAckReceive (link : Nat) (p : BzPacket)
  | benzelNakReceive (link : Nat) (p : BzPacket)
  | benzelCreditReceive (link : Nat) (p : BzPacket)
  | benzelCnpReceive (link : Nat) (p : BzPacket)
  | benzelAbortReceive (link : Nat) (p : BzPacket)
  | ackTimerExpiry (f : RecvId)
  | rtoExpiry (f : FlowId)
  | pathRetry (f : FlowId)
  | creditReturnTimer (f : FlowId)
  | ratePeriod (k : RateKey)
  -- the host ports
  | roceRdmaWrite (port : Nat) (r : RdmaWrite)
  | roceRdmaRead (port : Nat) (r : RdmaRead)
  | roceCnpReceive (port qpn : Nat)
  | roceResponseReceive (port qpn : Nat) (r : RdmaResponse)
  | qpError (port qpn : Nat)
  | pfcFrameReceive (port : Port) (prio : Nat) (pause : Bool)
  | pfcWatchdog (port : Nat)
  | arpRequest (port : Port) (target : W32)
  | neighbourSolicitation (port : Port) (target : BitVec 128)
  | echoRequest (port : Port) (target : BitVec 128) (v6 : Bool) (ident : W32)
  | nextHopRefresh (link : Nat)
  | frameDiscard (port : Port) (badFcs : Bool)
  | linkUp (port : Port)
  | linkDown (port : Port)
  | trainingRestart (port : Port)
  | lpiEntry (link : Nat)
  | seedLaneSwap (lane link : Nat)
  -- faults and maintenance
  | faultDetect (d : Detection)
  | collectorSelfFault
  | recordClear (source : Nat) (value : W32)
  | severityWrite (source : Nat) (value : W32)
  | injectionArm (value : W32)
  | tokenGrant (cls : Nat)
  | scrubYield (cls : Nat)
  | hbmScrub (handle : W32) (granule : Nat)
  | ddr5PatrolScrub (handle : W32) (granule : Nat)
  | hbmRowRepair (stack : Nat)
  | serdesRetune (port : Port)
  | seedTileSwap (tile : Nat)
  | seedRowSwap (tile row : Nat)
  | vectorLaneReplace (tile lane : Nat)
  | sensorRecalibration
  | randomTableRekey (die : Nat)
  -- power, clocks, temperature
  | dozeEntry
  | powerWindow (milliwatts : Nat)
  | pwrbrkAssert
  | pwrbrkDeassert
  | thermalLoop (r : ThermalReading)
  | thermalGuard (hottest : Nat)
  | thermtrip
  | coolantRead (inlet flow : Nat)
  | rdimmTempRead (channel temp : Nat)
  | wearSample (hottest : Nat)
  | wearUpdate
  | energyRecalibration (idle : Tab Nat) (ctx : Tab Nat)
  | calUserWrite (value : W32)
  -- pins
  | inputApplied (millivolts : Nat)
  | inputLoss
  | pwrEnAssert
  | pwrEnDeassert
  | resetAssert (tenthsUs : Nat)
  | resetRelease
  -- management
  | proxyDoorbell (value : W32)
  | statusGet (r : MgmtReq)
  | bulkRead (r : MgmtReq)
  | identGet (r : MgmtReq)
  | evidenceGet (r : MgmtReq)
  | logRead (r : MgmtReq)
  | telemGet (r : MgmtReq)
  | regRead (r : MgmtReq)
  | regWrite (r : MgmtReq)
  | partCreate (r : MgmtReq)
  | partDestroy (r : MgmtReq)
  | ifCreate (r : MgmtReq)
  | ifDestroy (r : MgmtReq)
  | ifBudget (r : MgmtReq)
  | qpCreate (r : MgmtReq)
  | qpConnect (r : MgmtReq)
  | qpDestroy (r : MgmtReq)
  | proxyGrant (r : MgmtReq)
  | powerState (r : MgmtReq)
  | reset (r : MgmtReq)
  | calSave (r : MgmtReq)
  | seedSwap (r : MgmtReq)
  | fwStageBegin (r : MgmtReq)
  | fwStageData (r : MgmtReq)
  | fwStageEnd (r : MgmtReq)
  | fwActivate (r : MgmtReq)
  | fwCommit (r : MgmtReq)
  | mkeySet (r : MgmtReq)
  | provSet (r : MgmtReq)
  | thermalGuardRelease (hottest : Nat)
  | referenceInTolerance
  | refDevUpdate (deviation : W32)
  | entdaa (address : BitVec 7)
  | nextHopResolved (link : Nat) (mac : BitVec 48)
  | pfcIgnoredEnd (port : Nat)
  | acknowledgementTimeout (port qpn : Nat)
  | tileMemoryScrub (tile : Nat)
deriving DecidableEq, Repr, Inhabited

end Sys2Proof
end

