-- ==== Sys2Proof/Decode.lean ====
section
/-!
DEFINITION. The decoder of the table's words. No row of spec/opcode_table.json gives bits: a command reaches the queue as a
command, and packets in a submission queue are read by PACKET_FETCH (spec 11 R282).
-/
namespace Sys2Proof

/-- The command that a table word spells: none, since no row of the table has bits. -/
def decodeTableWord (_nbits _w : Nat) : Option Instr := none

end Sys2Proof
end

