-- ==== Sys2Proof/Config.lean ====
section
/-!
DEFINITION. The values the spec leaves open, as constants without a body: nothing can evaluate them, and a claim holds
for every value of them. A counter of the state (`fresh`) is applied where each use takes a new value (log 6).
-/
namespace Sys2Proof.Config

/-- A word the spec leaves open: kind, use. -/
opaque freeWord : Nat → Nat → W32
/-- A choice the spec leaves open: kind, use. -/
opaque freeBool : Nat → Nat → Bool
/-- A count the spec gives no figure for (engine cycles, bytes, energy, spare rows): use, index (log 20, 27). -/
opaque freeCount : Nat → Nat → Nat
/-- Bytes the spec leaves open (certificates, signatures, the module's own message contents) (log 13). -/
opaque freeBytes : Nat → Nat → List Byte
/-- The result a coefficient set (COEF_VER) gives for a function code and an FP32 operand (spec 04 R88, R107). Used only
within the bounds of R87 (log 6). -/
opaque sfu : W16 → Nat → W32 → W32
/-- An element-wise vector operation whose code the spec does not list: code, operands (log 9). -/
opaque vecOp : Nat → W32 → W32 → W32 → W32
/-- What a model computes between the weights it multiplies by, which no part of the spec lays down (log 7). Each takes the
coefficient set, the numbers of the model (0 policy or 1 draft, then the geometry of R175), the token, its position, the
cached keys and values before it, and the products of the entries before. The operand row of the next entry, as a
format, a decode scale and its values. -/
opaque layerIn : W16 → List Nat → W32 → Nat → List Byte → List (List W32) → Byte × W32 × List W32
/-- The score row after the last entry (spec 07 R184, R194) (log 7). -/
opaque scoresOf : W16 → List Nat → W32 → Nat → List Byte → List (List W32) → List W32
/-- The keys and values of the position (spec 07 R181) (log 7). -/
opaque kvValues : W16 → List Nat → W32 → Nat → List Byte → List (List W32) → List W32
/-- What the compiled commands of a learning plan say of a layer, given by its entry: the conversion control field of its
output, its non-linear function, whether it is gated, the format of its operand row (0), output (1), backward row (2)
or function operand (3), and whether a token at a position reads a row of its weight (spec 09 R225) (log 8). -/
opaque layerConv : List Byte → Nat → Nat
opaque layerFun : List Byte → Nat → Nat
opaque layerGate : List Byte → Nat → Bool
opaque layerFmt : List Byte → Nat → Nat → Byte
opaque layerReads : List Byte → Nat → W32 → Nat → Bool
/-- The operand row of a layer at a position of a trajectory: coefficient set, commands, entry, the tokens up to the position, and for
each layer before it the output rows up to the position (spec 09 R225) (log 8). -/
opaque learnIn : W16 → List Byte → Nat → List W32 → List (List (List W32)) → List W32
/-- The score row at a position, from the output rows of every layer up to it (log 8). -/
opaque learnScores : W16 → List Byte → List W32 → List (List (List W32)) → List W32
/-- The gradient that reaches a layer's output at a position: coefficient set, commands, entry and position, the tokens of the
trajectory, the output rows of every layer, the score gradients of its positions, the input gradients of the later layers,
last first (spec 09 R235) (log 8). -/
opaque backIn : W16 → List Byte → Nat × Nat → List W32 → List (List (List W32)) → List (List W32) → List (List (List W32)) → List W32
/-- The normal distribution function (false) and its density (true), for which Table 4-1 has no function (spec 04 R99) (log 66). -/
opaque normal : W16 → Bool → W32 → W32
/-- Which of the tiles it engages, which draw state and which clock serve an element: FW_VER, opcode, parameters, tiles, element
(spec 05 R476) (log 12). -/
opaque assign : W32 → Nat → List W32 → Nat → Nat → Nat × Nat × Nat
/-- Whether a command has work on a tile: FW_VER, opcode, parameters, tiles, tile index (spec 05 R476) (log 12). -/
opaque engages : W32 → Nat → List W32 → Nat → Nat → Bool
/-- The pseudo-channel that the address hash of HBM gives a granule: allocation, group of 512 granules, granule in the
group (spec 06 R151) (log 16). -/
opaque hbmSlot : Nat → Nat → Nat → Nat
/-- The channel, among those in service, that the address hash of DDR5 gives a granule, and the row of a bank in either
tier (spec 06 R151) (log 16). -/
opaque ddrSlot : Nat → Nat → Nat
opaque bankRow : Nat → Nat → Nat
/-- Handle values the module would choose (log 11). -/
opaque handle : Nat → W32
/-- Remote key values the module would choose (spec 11 R293) (log 11). -/
opaque rkey : Nat → W32
/-- SHA-512 (log 13). -/
opaque sha512 : List Byte → List Byte
/-- HMAC-SHA-512: key, message (log 13). -/
opaque hmacSha512 : List Byte → List Byte → List Byte
/-- Ed25519 and ML-DSA-65 verification of a signature: public key, message, signature (log 13). -/
opaque edVerify : List Byte → List Byte → List Byte → Bool
opaque mlVerify : List Byte → List Byte → List Byte → Bool
/-- The digests burned into the fuses at manufacture: false for Ed25519, true for ML-DSA-65; slots 0 to 3, and 4 the calibration
key (log 13). -/
opaque fuseHash : Bool → Nat → List Byte
/-- The public key of a 32-byte seed: false for Ed25519, true for ML-DSA-65 (log 13). -/
opaque publicKey : Bool → List Byte → List Byte
/-- The signature of a message with the key of a seed; the algorithm as above (log 13). -/
opaque sign : Bool → List Byte → List Byte → List Byte
/-- The part of an alias certificate that is signed: algorithm, digest of the extension, alias public key, DeviceID public key
(log 13). -/
opaque aliasTbs : Bool → List Byte → List Byte → List Byte → List Byte
/-- An X.509 certificate in DER: algorithm, signed part, signature (log 13). -/
opaque certDer : Bool → List Byte → List Byte → List Byte
/-- The DeviceID certificate written at manufacture: algorithm, DeviceID public key (log 13). -/
opaque deviceCert : Bool → List Byte → List Byte
/-- The remote address of region k of a checkpoint set, given its manifest's BASE (spec 13 R353 does not say) (log 21). -/
opaque regionBase : Nat → Nat → Nat

end Sys2Proof.Config
end

