-- ==== Sys2Proof/Machine/Fp.lean ====
section
/-!
DEFINITION. Exact numbers, and the FP32 arithmetic of the vector unit and of the accumulators: each operation is formed
exactly and rounded once to nearest even, with subnormals kept and the canonical NaN of spec 03 R58.
-/
namespace Sys2Proof.Machine

/-- A value: NaN, an infinity, or (-1)^neg × n / d with d > 0 (n = 0 is the zero of its sign). -/
inductive Val where
  | nan
  | inf (neg : Bool)
  | num (neg : Bool) (n d : Nat)
deriving DecidableEq, Repr, Inhabited

/-- a / b rounded to nearest, ties to even. -/
def rneDiv (a b : Nat) : Nat :=
  let q := a / b
  let r := a % b
  if 2 * r > b ∨ (2 * r = b ∧ q % 2 = 1) then q + 1 else q

/-- The floor of log2 (n / d), for n and d positive. -/
def floorLog2 (n d : Nat) : Int :=
  let e : Int := (Nat.log2 n : Int) - (Nat.log2 d : Int)
  let lt := if e ≥ 0 then decide (n < d * 2 ^ e.toNat) else decide (n * 2 ^ (-e).toNat < d)
  if lt then e - 1 else e

/-- n / d divided by 2^q, as a fraction. -/
def scaleBy (n d : Nat) (q : Int) : Nat × Nat :=
  if q ≥ 0 then (n, d * 2 ^ q.toNat) else (n * 2 ^ (-q).toNat, d)

/-- The exponent of the spacing of a format at n / d: mb mantissa bits, emin the smallest normal exponent. -/
def spacing (mb : Nat) (emin : Int) (n d : Nat) : Int :=
  (if floorLog2 n d < emin then emin else floorLog2 n d) - mb

/-- The magnitude pattern of n / d rounded to nearest even, with the exponent range unbounded above (it may pass the
format's largest pattern). -/
def rawNearest (mb : Nat) (emin : Int) (n d : Nat) : Nat :=
  if n = 0 then 0
  else
    let q := spacing mb emin n d
    let (a, b) := scaleBy n d q
    (q - (emin - mb)).toNat * 2 ^ mb + rneDiv a b

/-- The magnitude pattern of n / d rounded towards zero, and the discarded fraction of a spacing as a fraction. -/
def rawDown (mb : Nat) (emin : Int) (n d : Nat) : Nat × Nat × Nat :=
  if n = 0 then (0, 0, 1)
  else
    let q := spacing mb emin n d
    let (a, b) := scaleBy n d q
    ((q - (emin - mb)).toNat * 2 ^ mb + a / b, a % b, b)

/-- n × 2^e as a value. -/
def Val.pow (neg : Bool) (n : Nat) (e : Int) : Val :=
  if e ≥ 0 then .num neg (n * 2 ^ e.toNat) 1 else .num neg n (2 ^ (-e).toNat)

/-- The integer part of a value, towards zero; 0 for what is not finite. -/
def Val.toInt : Val → Int
  | .num neg n d => if neg then -((n / d : Nat) : Int) else ((n / d : Nat) : Int)
  | _ => 0

/-- An FP32 pattern as a value (spec 03 R57, R58). -/
def decode32 (w : W32) : Val :=
  let neg : Bool := w.toNat / 2 ^ 31 == 1
  let e : Nat := w.toNat / 2 ^ 23 % 256
  let m : Nat := w.toNat % 2 ^ 23
  if e = 255 then (if m = 0 then .inf neg else .nan)
  else if e = 0 then Val.pow neg m (-149)
  else Val.pow neg (2 ^ 23 + m) ((e : Int) - 150)

def nan32 : W32 := 0x7FC00000#32
def inf32 (neg : Bool) : W32 := if neg then 0xFF800000#32 else 0x7F800000#32
def zero32 (neg : Bool) : W32 := if neg then 0x80000000#32 else 0#32
def one32 : W32 := 0x3F800000#32

/-- A value rounded to FP32, to nearest even, overflowing to infinity (FP32 arithmetic). -/
def encode32 : Val → W32
  | .nan => nan32
  | .inf neg => inf32 neg
  | .num neg n d =>
    let r := rawNearest 23 (-126) n d
    if r ≥ 0x7F800000 then inf32 neg
    else BitVec.ofNat 32 (r + if neg then 2 ^ 31 else 0)

def Val.neg : Val → Val
  | .nan => .nan
  | .inf s => .inf (!s)
  | .num s n d => .num (!s) n d

def Val.abs : Val → Val
  | .nan => .nan
  | .inf _ => .inf false
  | .num _ n d => .num false n d

/-- Exact sum. An exact zero of opposite signs is +0. -/
def Val.add : Val → Val → Val
  | .nan, _ => .nan
  | _, .nan => .nan
  | .inf s, .inf t => if s = t then .inf s else .nan
  | .inf s, .num .. => .inf s
  | .num .., .inf t => .inf t
  | .num s a b, .num t c d =>
    let x : Int := (if s then -1 else 1) * (a * d : Nat)
    let y : Int := (if t then -1 else 1) * (c * b : Nat)
    let z := x + y
    if z = 0 then .num (s && t) 0 1 else .num (decide (z < 0)) z.natAbs (b * d)

def Val.sub (a b : Val) : Val := Val.add a b.neg

/-- Exact product; an infinity times zero is NaN. -/
def Val.mul : Val → Val → Val
  | .nan, _ => .nan
  | _, .nan => .nan
  | .inf s, .inf t => .inf (s != t)
  | .inf s, .num t n _ => if n = 0 then .nan else .inf (s != t)
  | .num s n _, .inf t => if n = 0 then .nan else .inf (s != t)
  | .num s a b, .num t c d => .num (s != t) (a * c) (b * d)

/-- Exact quotient (FP32 arithmetic's special cases). -/
def Val.div : Val → Val → Val
  | .nan, _ => .nan
  | _, .nan => .nan
  | .inf _, .inf _ => .nan
  | .inf s, .num t _ _ => .inf (s != t)
  | .num s _ _, .inf t => .num (s != t) 0 1
  | .num s a b, .num t c d =>
    if c = 0 then (if a = 0 then .nan else .inf (s != t)) else .num (s != t) (a * d) (b * c)

/-- a < b as numbers; false when either is NaN. -/
def Val.lt : Val → Val → Bool
  | .nan, _ => false
  | _, .nan => false
  | .inf s, .inf t => s && !t
  | .inf s, .num .. => s
  | .num .., .inf t => !t
  | .num s a b, .num t c d =>
    decide ((if s then -1 else 1 : Int) * (a * d : Nat) < (if t then -1 else 1 : Int) * (c * b : Nat))

/-- a ≤ b as numbers; false when either is NaN. -/
def Val.le (a b : Val) : Bool := !(a = .nan) && !(b = .nan) && !(Val.lt b a)

def Val.isZero : Val → Bool
  | .num _ 0 _ => true
  | _ => false

def Val.isFinite : Val → Bool
  | .num .. => true
  | _ => false

/-! ## FP32 operations -/

def fadd (a b : W32) : W32 := encode32 ((decode32 a).add (decode32 b))
def fsub (a b : W32) : W32 := encode32 ((decode32 a).sub (decode32 b))
def fmul (a b : W32) : W32 := encode32 ((decode32 a).mul (decode32 b))
def fdiv (a b : W32) : W32 := encode32 ((decode32 a).div (decode32 b))
def ffma (a b c : W32) : W32 := encode32 (((decode32 a).mul (decode32 b)).add (decode32 c))
def fneg (a : W32) : W32 := if decode32 a = .nan then nan32 else a ^^^ 0x80000000#32
def flt (a b : W32) : Bool := (decode32 a).lt (decode32 b)
def fle (a b : W32) : Bool := (decode32 a).le (decode32 b)
def feq (a b : W32) : Bool := fle a b && fle b a
def isNan (a : W32) : Bool := decode32 a = .nan
def isInf (a : W32) : Bool := match decode32 a with | .inf _ => true | _ => false
def isZero (a : W32) : Bool := (decode32 a).isZero
def ofNat32 (n : Nat) : W32 := encode32 (.num false n 1)

/-- Positive, normal and finite (spec 03 R71, 04 R91, R113). -/
def posNormal (a : W32) : Bool := decide (0x00800000 ≤ a.toNat ∧ a.toNat < 0x7F800000)

/-- Larger of a and b, NaN if either is NaN; the first of two equal operands. -/
def fmax (a b : W32) : W32 := if isNan a || isNan b then nan32 else if flt a b then b else a
def fmin (a b : W32) : W32 := if isNan a || isNan b then nan32 else if flt b a then b else a

/-- The largest |v| of the finite values of a list, as FP32 (spec 03 R78); 0 if none. -/
def amaxOf (vs : List Val) : W32 :=
  encode32 (vs.foldl (fun m v => match v with
    | .num _ n d => if m.lt (.num false n d) then .num false n d else m
    | _ => m) (.num false 0 1))

/-! ## Sums in the order of a pairwise tree (spec 04 R89) -/

/-- One level: adjacent pairs added, an odd last entry added to the padding zero. -/
def pairLevel : List W32 → List W32
  | [] => []
  | [a] => [fadd a 0#32]
  | a :: b :: r => fadd a b :: pairLevel r

/-- `k` levels of the tree. -/
def pairLevels : Nat → List W32 → List W32
  | 0, l => l
  | k + 1, l => pairLevels k (pairLevel l)

/-- ⌈log2 n⌉. -/
def ceilLog2 (n : Nat) : Nat := if n ≤ 1 then 0 else Nat.log2 (n - 1) + 1

/-- The pairwise sum of a row; +0 of an empty row. -/
def pairSum (l : List W32) : W32 := (pairLevels (ceilLog2 l.length) l).headD 0#32

/-! ## Square roots -/

/-- The floor of the square root, bit by bit from bit `k`. -/
def isqrtFrom : Nat → Nat → Nat → Nat
  | 0, _, r => r
  | k + 1, n, r => isqrtFrom k n (if (r + 2 ^ k) * (r + 2 ^ k) ≤ n then r + 2 ^ k else r)

def isqrt (n : Nat) : Nat := isqrtFrom (Nat.log2 n / 2 + 1) n 0

end Sys2Proof.Machine
end

