-- ==== Sys2Proof/Machine/Sources.lean ====
section
/-!
DEFINITION. Table 15-1: the 96 fault sources with their scope and default severity (spec 15 R392, R393).
-/
namespace Sys2Proof.Machine

/-- The scope of a source (spec 15 R392): C command, P partition, S shared. -/
inductive Scope where
  | c | p | s
deriving DecidableEq, Repr, Inhabited

def sevIgnore : Nat := 0
def sevLog : Nat := 1
def sevNotify : Nat := 2
def sevContain : Nat := 3
def sevFatal : Nat := 4

/-- Scope, default severity and lock of source n; none for a reserved source (Table 15-1). -/
def sourceRow (n : Nat) : Option (Scope × Nat × Bool) :=
  if n < 0x10 then
    match n with
    | 0x00 => some (.c, 1, false)
    | 0x01 => some (.c, 2, false)
    | 0x02 => some (.c, 1, false)
    | 0x03 => some (.c, 2, false)
    | 0x04 => some (.c, 1, false)
    | 0x05 => some (.c, 2, false)
    | 0x06 => some (.p, 1, false)
    | 0x07 => some (.c, 2, false)
    | 0x08 => some (.p, 1, false)
    | 0x09 => some (.p, 3, false)
    | 0x0A => some (.p, 1, false)
    | 0x0B => some (.p, 3, false)
    | 0x0C => some (.p, 3, false)
    | 0x0D => some (.c, 2, false)
    | 0x0E => some (.c, 2, false)
    | _ => some (.s, 1, false)
  else if n < 0x20 then some (.c, if n % 2 = 0 then 1 else 2, false)
  else if n < 0x28 then
    match n with
    | 0x20 => some (.s, 1, false)
    | 0x21 => some (.s, 1, false)
    | 0x22 => some (.s, 2, false)
    | 0x23 => some (.s, 2, false)
    | 0x24 => some (.s, 2, false)
    | 0x25 => some (.s, 1, false)
    | 0x26 => some (.s, 4, true)
    | _ => some (.s, 4, false)
  else if n < 0x38 then some (.c, if n % 2 = 0 then 1 else 2, false)
  else
    match n with
    | 0x38 => some (.c, 2, false)
    | 0x39 => some (.s, 1, false)
    | 0x3A => some (.s, 2, false)
    | 0x3B => some (.s, 1, false)
    | 0x3C => some (.s, 1, false)
    | 0x3D => some (.s, 2, false)
    | 0x3E => some (.s, 3, false)
    | 0x40 => some (.s, 2, false)
    | 0x41 => some (.s, 1, false)
    | 0x42 => some (.s, 2, false)
    | 0x43 => some (.p, 2, false)
    | 0x44 => some (.p, 2, false)
    | 0x45 => some (.p, 1, false)
    | 0x46 => some (.p, 2, false)
    | 0x47 => some (.p, 1, false)
    | 0x48 => some (.p, 2, false)
    | 0x49 => some (.p, 1, false)
    | 0x4A => some (.s, 1, false)
    | 0x4B => some (.c, 2, false)
    | 0x4C => some (.c, 1, false)
    | 0x4D => some (.s, 1, false)
    | 0x4E => some (.s, 1, false)
    | 0x50 => some (.s, 1, false)
    | 0x51 => some (.s, 4, true)
    | 0x52 => some (.s, 2, false)
    | 0x53 => some (.s, 2, false)
    | 0x54 => some (.s, 1, false)
    | 0x55 => some (.s, 1, false)
    | 0x56 => some (.s, 4, true)
    | 0x57 => some (.s, 1, false)
    | 0x58 => some (.s, 4, true)
    | 0x59 => some (.s, 4, true)
    | 0x5A => some (.s, 2, false)
    | 0x5B => some (.p, 1, false)
    | 0x5C => some (.p, 2, false)
    | 0x5D => some (.s, 2, false)
    | 0x5E => some (.s, 1, false)
    | 0x5F => some (.s, 1, false)
    | _ => none

def sourceScope (n : Nat) : Option Scope := (sourceRow n).map (·.1)
def sourceDefault (n : Nat) : Nat := ((sourceRow n).map (·.2.1)).getD 0
def sourceLocked (n : Nat) : Bool := ((sourceRow n).map (·.2.2)).getD false

/-- The sources that report an uncorrectable read or an error that fails the command (spec 15 R393). -/
def sourceFails (n : Nat) : Bool :=
  n = 0x01 || n = 0x03 || n = 0x05 || n = 0x07 || n = 0x0D || n = 0x0E || n = 0x38 || n = 0x4B ||
  (decide (0x10 ≤ n) && decide (n < 0x20) && n % 2 = 1) || (decide (0x28 ≤ n) && decide (n < 0x38) && n % 2 = 1)

/-- The tier of a read source (Table 15-4): 0 tile memory, 1 die commons, 2 HBM, 3 DDR5; with whether it was corrected. -/
def sourceRead (n : Nat) : Option (Nat × Bool) :=
  if n = 0x00 then some (0, true) else if n = 0x01 then some (0, false)
  else if n = 0x02 then some (1, true) else if n = 0x03 then some (1, false)
  else if decide (0x10 ≤ n) && decide (n < 0x20) then some (2, n % 2 = 0)
  else if decide (0x28 ≤ n) && decide (n < 0x38) then some (3, n % 2 = 0)
  else none

end Sys2Proof.Machine
end

