-- ==== Sys2Proof/Machine/State.lean ====
section
/-!
DEFINITION. The state of the SQ4 as plain data: what is fitted, the pins, the clocks, power, the fault collector, the
network, management, maintenance, partitions, interfaces, contexts, allocations, the commands in flight, and the queue
of commands that wait. Registers keep their words; queues and tables are lists.
-/
namespace Sys2Proof.Machine

/-- Why the model stops with a fault. -/
inductive Fault where
  /-- Raised by an event row whose operand names a unit that no variant has (a fabric link 32, a host port 4, a fault
  source 0x60). The spec gives such a unit no existence (spec 00 R9). Safe: WellFormed excludes these operands. -/
  | noSuchUnit
deriving DecidableEq, Repr, Inhabited

/-- Why the model has no meaning for a command. -/
inductive Refusal where
  /-- Raised only by an arm of exec whose row has no meaning yet. Safe. No arm raises it. -/
  | notModelled (mnemonic : String)
deriving DecidableEq, Repr, Inhabited

/-- Bytes by address; what an unlisted address reads as is the reader's (spec 06 R480). -/
abbrev Mem := List Host.Cell

/-! ## What is fitted -/

inductive Variant where
  | f | l | n
deriving DecidableEq, Repr, Inhabited

/-- An RDIMM in a socket (spec 06 R169, R170): whether its kind is supported, GiB, rating in 100 MT/s, x8 devices. -/
structure Rdimm where
  supported : Bool
  gib : Nat
  rating : Nat
  x8 : Bool
deriving DecidableEq, Repr, Inhabited

/-- What is fitted and how it behaves at boot; no reset changes it (spec 00 R1; 06 R153, R169; 05 R125; 17 R473). -/
structure Fit where
  variant : Variant
  stepping : Byte
  sockets : List (Option Rdimm)
  badStacks : List Nat
  badDimms : List Nat
  badTiles : List Nat
deriving DecidableEq, Repr, Inhabited

/-! ## Pins, phase and clocks -/

/-- Where the module stands between input power and Ready (spec 17 Table 17-2; 18 Tables 18-8 to 18-10). -/
inductive Phase where
  | off        -- no input, or regulation lost
  | dormant    -- standby rail up, PWR_GOOD low
  | inReset    -- rails up, held in reset (R465, R467)
  | fuseFault  -- boot step 1 failed: stays in Hold with FAULT_N low
  | recovery   -- R440
  | held       -- the factory block failed (R432): never leaves Hold
  | running    -- boot completed
  | tripped    -- thermal trip (R468)
deriving DecidableEq, Repr, Inhabited

structure Pins where
  vin : Nat
  pwrEn : Bool
  resetN : Bool
  pwrbrkN : Bool
  refsOk : Bool
  pwrGood : Bool
  thermtrip : Bool
  booted : Bool
  resetWhileDormant : Bool
  dormantByPin : Bool
  i3c : Option (BitVec 7)
deriving DecidableEq, Repr, Inhabited

/-- The local clock in microseconds, the millisecond up to which budgets were refilled, lock bits, reference deviation
(spec 16 R428-R430; 07 R187). -/
structure Clk where
  localUs : Nat
  refillMs : Nat
  status : BitVec 5
  refDev : W32
deriving DecidableEq, Repr, Inhabited

/-! ## Power -/

/-- A calibration item's factory value and bounds (spec 16 R431). -/
structure CalItem where
  f : W32
  lo : W32
  hi : W32
deriving DecidableEq, Repr, Inhabited

/-- Power, temperature, wear and calibration (spec 16). `windows` are the powers of the last 50,000 windows of 2 µs, in
milliwatts, latest first; `below` counts windows under the peak loop's raising limit; `exceeded`: the last window exceeded its
lowering limit; `therm` is the thermal loop's fraction; `powered` is in seconds. `allow` is the allowance A in nanojoules; `allowMax` is A_max in
millijoules; `stress` is in units of 2^-48. -/
structure Pwr where
  state : BitVec 3
  cfg : W32
  inMv : W32
  windows : List Nat
  allow : Int
  allowMax : Nat
  resume : W32
  gov : Nat
  therm : Nat
  brake : Nat
  cap : Bool
  guard : Bool
  below : Nat
  exceeded : Bool
  temp : W32
  flow : W32
  wear : W32
  stress : Nat
  powered : Nat
  caps : W32
  brakes : W32
  thermMs : W32
  calSel : W32
  cal : Tab CalItem
  user : Tab W32
  saved : Tab W32
  idleSince : Nat
  ddrCheckFailed : Bool
  halved : List Nat
  doubled : List Nat
  inletOut : Bool
  flowOut : Bool
deriving DecidableEq, Repr, Inhabited

/-! ## Faults -/

/-- A collector record (spec 15 R395). -/
structure Rec where
  pending : Bool
  count : Nat
  sev : Nat
  first : W32
  time : W32
  last : W32
deriving DecidableEq, Repr, Inhabited

/-- The fault collector (spec 15 R392-R402, R411). `sev`: the 96 severities. `lastResort`: Milpeost's own record of
R400. `faultN`: the boot fault of Table 17-2 step 1 drives FAULT_N low. -/
structure Flt where
  sev : List Nat
  recs : Tab Rec
  safe : Bool
  self : Bool
  lastSrc : Nat
  injSel : W32
  injMask : W32
  injCount : Nat
  armed : Bool
  prevLog : List (Nat × Rec)
  lastResort : Bool
deriving DecidableEq, Repr, Inhabited

/-! ## Network -/

/-- A fabric link (spec 14 R361, R362, R369, R376, Table 14-9). `lpi`: low-power idle negotiated; `asleep`: in it. The `eff` fields are the configuration the link took
when it last came up (R390). -/
structure Link where
  cfg : W32
  nh : W64
  up : Bool
  training : Bool
  lpi : Bool
  asleep : Bool
  seed : Bool
  failed : Bool
  effBase4 : W32
  effPfx6 : W64
  effCfg : W32
  effNh : W64
  trainStart : Nat
  mac : Option (BitVec 48)
  resolvedAt : Nat
  lastFrame : Nat
  badFcs : Nat
  credits : Nat
deriving DecidableEq, Repr, Inhabited

/-- What a requester queue pair has outstanding (spec 14 R363): a reply, a drain write, or a storage read that a command
waits for under a tag. -/
inductive QpWork where
  | reply (c : CmdId)
  | drain (part : Nat)
  | read (c : CmdId) (tag : Nat)
deriving DecidableEq, Repr, Inhabited

structure QpReq where
  work : QpWork
  addr : Nat
  rkey : W32
  len : Nat
  bytes : List Byte
deriving DecidableEq, Repr, Inhabited

/-- What a RoCEv2 packet of a host port carries in front of its content (spec 14 R363, R364, R366, R367, R369): the port and its own
queue pair, the remote queue pair, the packet sequence number, the GIDs (an IPv4 address in its IPv4-mapped form), the
DSCP, the tag (VLAN_ID and PCP), and whether it is ECN-capable, ECT(0). -/
structure RoceHead where
  port : Nat
  qpn : Nat
  remoteQpn : Nat
  psn : Nat
  src : BitVec 128
  dst : BitVec 128
  dscp : Nat
  vlan : Option (Nat × Nat)
  ect : Bool
deriving DecidableEq, Repr, Inhabited

/-- The content of a RoCEv2 message: an RDMA WRITE or READ that the module requests, the data of a READ that it answers, an
acknowledgement, a remote access error, a congestion notification. -/
inductive RoceBody where
  | request (w : QpReq)
  | data (bytes : List Byte)
  | ack
  | nak
  | cnp
deriving DecidableEq, Repr, Inhabited

/-- A host port (spec 14 R360, R361, R366, Table 14-9). `waits`: the messages that a pause holds back, oldest first. -/
structure HostPort where
  cfg : W32
  addr4 : W32
  addr6hi : W64
  addr6lo : W64
  up : Bool
  training : Bool
  pfcIgnored : Bool
  pausedSince : Option Nat
  ignoreUntil : Nat
  waits : List (RoceHead × RoceBody)
  trainStart : Nat
  badFcs : Nat
deriving DecidableEq, Repr, Inhabited



/-- A queue pair (spec 14 R364, R365): `ready` once connected, `error` after its retries. -/
structure Qp where
  port : Nat
  num : Nat
  iface : Nat
  remoteQpn : Nat
  remoteAddr : BitVec 128
  mtu : Nat
  sendPsn : Nat
  recvPsn : Nat
  timeout : Nat
  retry : Nat
  retriesLeft : Nat
  ready : Bool
  error : Bool
  lastCnp : Nat
  work : List QpReq
deriving DecidableEq, Repr, Inhabited

/-- A rate of Table 14-2, in kb/s. -/
structure Rate where
  key : RateKey
  kbps : Nat
  lastDec : Nat
  lastSend : Nat
  lastEvent : Nat
deriving DecidableEq, Repr, Inhabited

/-- A DATA or COLL packet of a sending flow (spec 14 R371, R374): its PSN, the transfer tag and attempt, whether it is a
COLL packet, the command it serves, its place in its message, and its payload. -/
structure Sent where
  psn : Nat
  tag : Nat
  attempt : Nat
  coll : Bool
  cmd : Option CmdId
  off : Nat
  last : Bool
  bytes : List Byte
deriving DecidableEq, Repr, Inhabited

/-- A sending flow and its path (spec 14 R370, R373-R376): the next PSN, the first PSN never sent, packets not acknowledged, packets that wait for
credits (their PSNs are given when they leave), the source link, the destination link of the last grant, credits, RTO in
microseconds, expiries without progress, the times of the last progress and of the last use, since when no path
remains, and the attempts of commands (command, tag, attempt) whose packets it has carried (R378). -/
structure SendFlow where
  id : FlowId
  next : Nat
  top : Nat
  unacked : List Sent
  unsent : List Sent
  link : Nat
  dstLink : Nat
  credits : Nat
  rto : Nat
  expiries : Nat
  progress : Nat
  lastUse : Nat
  stuck : Option Nat
  carried : List (CmdId × Nat × Nat)
deriving DecidableEq, Repr, Inhabited

/-- A payload delivered in PSN order and still held (spec 14 R373, R378). -/
structure Delivered where
  tag : Nat
  attempt : Nat
  offset : Nat
  bytes : List Byte
deriving DecidableEq, Repr, Inhabited

/-- A receiving flow (spec 14 R373, R374): its partition here, the link its packets come on, and the link they come from.
`aborted`: the (tag, attempt) pairs whose payloads are discarded. `held`: payloads of messages that are not complete. -/
structure RecvFlow where
  id : RecvId
  part : Nat
  link : Nat
  peer : Nat
  incarnation : Nat
  expected : Nat
  sinceAck : Nat
  oldest : Option Nat
  nak : Option (Nat × Nat)
  lastCnp : Nat
  aborted : List (Nat × Nat)
  held : List Delivered
deriving DecidableEq, Repr, Inhabited

/-- Credits granted to a path, or wanted by it: the sender's flow, its incarnation and link, the partition and the link here (spec 14 R376). -/
structure Grant where
  flow : RecvId
  inc : Nat
  peer : Nat
  part : Nat
  link : Nat
  credits : Nat
deriving DecidableEq, Repr, Inhabited

structure Net where
  modCfg : W32
  fabBase4 : W32
  fabPfx6 : W64
  fabCfg : W32
  rcCfg : W32
  bzRto : W32
  moduleId : Nat
  idValid : Bool
  fam6 : Bool
  links : Tab Link
  ports : Tab HostPort
  retx : Nat
  crcFail : Nat
  drops : Nat
  cnpTx : Nat
  cnpRx : Nat
  pathFail : Nat
  pfcWd : Nat
  mgmtUp : Bool
  mgmtTrainStart : Nat
  mgmtBadFcs : Nat
  seedLanes : Tab Nat
  qps : List Qp
  rates : List Rate
  flows : List SendFlow
  recvs : List RecvFlow
  grants : List Grant
  wants : List Grant
deriving DecidableEq, Repr, Inhabited

/-! ## Management -/

/-- What an image slot holds (spec 17 R436, R437): the header fields, which fuse slots its keys match, and whether each
signature the digests of component 0x01 and of the others check. `digests`: the signed region's and the four components'; those of the
factory image, which are not published, are not listed (log 13). -/
structure Image where
  svn : Nat
  fwVer : W32
  coefVer : W16
  revoke : Byte
  edSlot : Option Nat
  mlSlot : Option Nat
  edOk : Bool
  mlOk : Bool
  fwOk : Bool
  compsOk : Bool
  digests : List (List Byte)
deriving DecidableEq, Repr, Inhabited

/-- The factory calibration block (spec 17 R438, Table 17-12): its header, public keys and items. `edKeyOk`, `mlKeyOk`: the digest of
the key is the one in the fuses; `edOk`, `mlOk`: the signature verifies. No command writes the block. -/
structure CalBlock where
  magic : W32
  format : W32
  count : W32
  edPub : List Byte
  mlPub : List Byte
  items : Tab CalItem
  edKeyOk : Bool
  mlKeyOk : Bool
  edOk : Bool
  mlOk : Bool
deriving DecidableEq, Repr, Inhabited

/-- The fuses (spec 17 R437): the digests in the key-hash slots and those of the calibration keys, the revocation bits of the
slots, the anti-rollback value, the 64-byte device secret. -/
structure Fuses where
  secret : List Byte
  edKeys : List (List Byte)
  mlKeys : List (List Byte)
  calEdKey : List Byte
  calMlKey : List Byte
  edRevoked : List Bool
  mlRevoked : List Bool
  rollback : Nat
  parityOk : Bool
deriving DecidableEq, Repr, Inhabited

/-- The alias certificate of one algorithm (spec 17 R443): the digest in its extension, the alias public key, the DeviceID public
key that it is issued under, the signature. -/
structure AliasCert where
  digest : List Byte
  subject : List Byte
  issuer : List Byte
  signature : List Byte
deriving DecidableEq, Repr, Inhabited

/-- The identity of a boot (spec 17 R441 to R443): the alias seeds that the firmware gets, and both alias certificates. -/
structure Identity where
  edSeed : List Byte
  mlSeed : List Byte
  edCert : AliasCert
  mlCert : AliasCert
deriving DecidableEq, Repr, Inhabited

/-- Trust and management (spec 17). `secretLocked`: the device secret can be read no more until a reset. `slotA`, `slotB`: images with MAGIC; `stageMem`: the bytes of the slot being staged. -/
structure Mgt where
  slotA : Option Image
  slotB : Option Image
  running : Bool
  pref : Bool
  fuses : Fuses
  calBlock : CalBlock
  fallback : Bool
  otherSvn : Option Nat
  fwVer : W32
  svn : Nat
  coefVer : W16
  bootCount : W32
  stage : BitVec 3
  stageBytes : W32
  stageLen : Nat
  stageMem : Mem
  authFail : W32
  replay : W32
  proxy : Option (Nat × Nat)
  proxyKey : W32
  mailbox : Mem
  ctr : W64
  lastTag : Option W32
  lastReply : List W32
  key : Option (List Byte)
  produced : Tab (List Byte)
  prov : W32
  provAddr : List W32
  measured : List (List Byte)
  identity : Option Identity
  secretLocked : Bool
deriving DecidableEq, Repr, Inhabited

/-! ## Maintenance -/

/-- Who asked for a token, or holds it (spec 15 Table 15-7). -/
inductive TokenUse where
  | scrub
  | row (stack : Nat)
  | serdes (port : Port)
  | lane (lane link : Nat)
  | tile (tile : Nat)
  | seedRow (tile row : Nat)
  | staging
  | sensor
  | calSave
  | drain (part : Nat)
  | rekey (die : Nat)
deriving DecidableEq, Repr, Inhabited

structure Token where
  cls : Nat
  scope : Nat
  use : TokenUse
deriving DecidableEq, Repr, Inhabited

/-- Maintenance (spec 15 R403-R410): tokens held, requests waiting in order, tiles failing (their work held back), tiles
that failed with no seed, free seed tiles per die, replaced vector lanes per tile, lane replacements that wait for a
command boundary, seed rows taken, corrected reads seen per tile row, the granule where each scrub stopped, the ECS counts last
read per DDR5 channel, and how far the spare rows of each stack are used: 1 when none is left, 2 with the remap reserve below
10%, 3 with none of it left. -/
structure Maint where
  held : List Token
  waiting : List Token
  failing : List Nat
  dead : List Nat
  seedTiles : Tab Nat
  lanes : Tab Nat
  laneWait : List (Nat × Nat)
  rows : List (Nat × Nat)
  rowErrs : List ((Nat × Nat) × Nat)
  scrubAt : Tab Nat
  repair : List (Nat × Nat)
  ecs : Tab Nat
  spares : Tab Nat
deriving DecidableEq, Repr, Inhabited

/-! ## Tensors and allocations -/

/-- The statistics of a tensor's last committed write (spec 03 R78, 11 Table 11-8). -/
structure Stats where
  elements : Nat
  overflowed : Nat
  vanished : Nat
  nans : Nat
  amax : W32
deriving DecidableEq, Repr, Inhabited

inductive Home where
  | tile | commons | hbm | ddr
deriving DecidableEq, Repr, Inhabited

/-- The INT4 shadow of a tensor (spec 06 R163): per column the scale, per element the code; the check units of it that
read uncorrectable (R162). -/
structure Shadow where
  scales : List W32
  elems : List (BitVec 4)
  uncorr : List Nat
deriving DecidableEq, Repr, Inhabited

/-- What an allocation is besides its bytes. -/
inductive Role where
  | plain
  | ring (number : Nat)
  | epoch (entry : Nat)
deriving DecidableEq, Repr, Inhabited

/-- The transposed copy beside a LEARN weight (spec 02 R46-R50): its bytes, the epoch tag of each block, and the blocks
queued for transposition, with the job that each belongs to: the commit that queued it. -/
structure TCopy where
  mem : Mem
  tags : Tab W32
  queued : List Nat
  jobs : Tab Nat
  inProgress : Option (Nat × Nat)
deriving DecidableEq, Repr, Inhabited

/-- An allocation (spec 06). `ctx` is `none` for SCOPE 1. `version` counts commits that wrote it. `presence`: of a GRAD tensor, the
blocks that are present (spec 09 R248). -/
structure Alloc where
  handle : W32
  part : Nat
  ctx : Option Nat
  size : Nat
  flags : W16
  fmt : Byte
  rank : Nat
  dims : List Nat
  affinity : Nat
  home : Home
  tile : Nat
  dscale : W32
  stats : Stats
  mem : Mem
  key : Option W32
  keyIface : Nat
  role : Role
  shadow : Option Shadow
  uncorr : List Nat
  corr : List Nat
  presence : Option (List Nat)
  frozen : List Nat
  blockEpochs : Tab W32
  epoch : W32
  tcopy : Option TCopy
  version : Nat
deriving DecidableEq, Repr, Inhabited

/-! ## Contexts -/

/-- One tile's table generator (spec 05 R119-R122): generation, D, and the draw count of each state. The pieces left of a
word last only for a command (R121), which keeps them in its `Drawer`. -/
structure Gen where
  g : Nat
  d : Nat
  counts : Tab Nat
deriving DecidableEq, Repr, Inhabited

/-- A bank of a temperature table or a custom slot (spec 04 R101, R108; 05 R135). -/
inductive Bank where
  | never
  | emptied
  | loaded (words : List W32)
deriving DecidableEq, Repr, Inhabited

/-- A double-banked table; `live` names the live bank. -/
structure Banks where
  a : Bank
  b : Bank
  live : Bool
deriving DecidableEq, Repr, Inhabited

/-- A layer plan and its prefetch schedule (spec 06 R154-R159): a number that names it, window and staging depth as they
act, the index that the schedule stands at, staging slots as (index, complete), the indices whose fetch met an
uncorrectable read, those whose fetch stopped at a missed deadline, and the indices that the window holds. -/
structure LayerPlan where
  serial : Nat
  handles : List W32
  w : Nat
  p : Nat
  at_ : Nat
  slots : List (Nat × Bool)
  bad : List Nat
  halted : List Nat
  window : List Nat
deriving DecidableEq, Repr, Inhabited

/-- A learning plan entry (spec 09 Table 9-2). -/
structure PlanEntry where
  weight : W32
  master : W32
  grad : W32
  states : List W32
  ctrl : W32
deriving DecidableEq, Repr, Inhabited

/-- A learning plan (spec 09 R225, R237): histories of observed maxima per guarded output. -/
structure LearnPlan where
  entries : List PlanEntry
  commands : List Byte
  pool : W32
  mMax : Nat
  histories : Tab (List W32)
deriving DecidableEq, Repr, Inhabited

/-- Accounting of a context or an interface (spec 12 Table 12-5). -/
structure Acct where
  eng : Tab Nat
  bytes : Tab Nat
  energy : Nat
deriving DecidableEq, Repr, Inhabited

inductive CtxSt where
  | swapped | loading | resident | saving | donated
deriving DecidableEq, Repr, Inhabited

structure Ctx where
  id : Nat
  iface : Nat
  part : Nat
  foot : Nat
  prio : Nat
  st : CtxSt
  blockedSince : Nat
  runnableSince : Nat
  residentSince : Nat
  seed : W64
  det : Bool
  gens : Tab Gen
  scale : Tab (Tab (W32 × BitVec 6))
  temp : Banks
  custom : List Banks
  plan : Option LayerPlan
  oldPlans : List LayerPlan
  learn : Option LearnPlan
  sems : Tab Nat
  revoked : List Nat
  acct : Acct
deriving DecidableEq, Repr, Inhabited

/-! ## Epochs -/

/-- A shard map entry (spec 10 Table 10-2). -/
structure MapEntry where
  tensor : W32
  rowLo : Nat
  rowCnt : Nat
  colLo : Nat
  colCnt : Nat
  fmt : Byte
  flags : W16
  handle : W32
  dscale : W32
deriving DecidableEq, Repr, Inhabited

inductive AreaRole where
  | free | bud | bloom | held
deriving DecidableEq, Repr, Inhabited

/-- A copy area (spec 10 R252): role, epoch, and per map entry the memory, the shadow, and the check units that read
uncorrectable or corrected; of a bud, what the conversion of each row or group of rows counted, as (entry, first row,
statistics) (R265). -/
structure Area where
  role : AreaRole
  epoch : W32
  mems : List Mem
  counts : List (Nat × Nat × Stats)
  shadows : List (Option Shadow)
  uncorrs : List (List Nat)
  corrs : List (List Nat)
deriving DecidableEq, Repr, Inhabited

inductive BudSt where
  | free | waitArea | loading | partial_ | ready | pending
deriving DecidableEq, Repr, Inhabited

/-- A source descriptor (spec 10 Table 10-3). -/
structure Source where
  type : W32
  where_ : W32
  addr : BitVec 128
  qpn : Nat
  rkey : W32
  base : Nat
  length : Nat
deriving DecidableEq, Repr, Inhabited

/-- Rows asked of a source at a time and not yet answered; a source past the list: every source refused them then
(spec 10 R264). -/
structure Asked where
  entry : Nat
  row : Nat
  rows : Nat
  source : Nat
  at_ : Nat
deriving DecidableEq, Repr, Inhabited

/-- A load in progress or waiting for an area (spec 10 R261-R268). `mems`, `counts` and `done` are the provisional copy
of a LEARN partition (R274). -/
structure Load where
  cmd : CmdId
  epoch : W32
  start : Nat
  deadline : Nat
  extra : Bool
  sources : List Source
  report : W32
  skipped : List Nat
  asked : List Asked
  mems : List Mem
  counts : List (Nat × Nat × Stats)
  done : List (Nat × Nat)
deriving DecidableEq, Repr, Inhabited

/-- A row that arrived before the rest of its scale group, where the groups of the entry run down its rows: its exact values
wait for the one conversion of R265. -/
structure RawRow where
  entry : Nat
  row : Nat
  vals : List Val
deriving DecidableEq, Repr, Inhabited

/-- The shard map and the copies of a partition (spec 10). `arrived`: (entry, row) pairs of the bud. `raw`: rows of a load
that wait for their scale group. In a LEARN partition `fwdEpoch` and `serves` describe the forward copy. -/
structure Epo where
  map : List MapEntry
  areas : List Area
  bud : BudSt
  budEpoch : W32
  arrived : List (Nat × Nat)
  raw : List RawRow
  load : Option Load
  grants : List (W32 × W32)
  fwdEpoch : W32
  serves : Bool
  heldAt : Nat
deriving DecidableEq, Repr, Inhabited

/-! ## Generation and experience -/

/-- The generation configuration (spec 07 R175). -/
structure GenCfg where
  ctx : Nat
  draft : List W32
  layers : Nat
  heads : Nat
  dh : Nat
  kvFmt : Byte
  pool : W32
  maxCtx : Nat
  eos : W32
deriving DecidableEq, Repr, Inhabited

/-- A live request (spec 07 R176-R203). `blocks`, `draftBlocks`: the blocks of the pool that its caches have reserved; `kvGot`:
the shipped blocks that have arrived. -/
structure Req where
  slot : Nat
  ident : W32
  iface : Nat
  reqId : Nat
  classL : Bool
  pin : Bool
  prompt : W32
  promptOff : Nat
  promptLen : Nat
  maxNew : Nat
  sampling : W64
  stop0 : W32
  stop1 : W32
  ring : Nat
  draftMax : Nat
  tclass : Nat
  src : W32
  kvDeadline : Nat
  admitUs : Nat
  blocks : List Nat
  draftBlocks : List Nat
  len : Nat
  draftLen : Nat
  tokens : List W32
  waiting : Bool
  kvGot : List Nat
  start : Option W32
  firstEpoch : W32
  lastEpoch : W32
  prefillEpoch : W32
  charged : Nat
  accepted : Nat
  k : Nat
  z : Nat
  f : Nat
  i : Nat
  lastStep : Nat
  lateSeen : Bool
  pinDropped : Bool
deriving DecidableEq, Repr, Inhabited

/-- A completion entry that is owed (spec 07 Table 7-7): the slot it keeps, and its eight words. -/
structure Owed where
  iface : Nat
  slot : Nat
  words : List W32
deriving DecidableEq, Repr, Inhabited

/-- Generation in a partition: configuration, live requests by slot, entries owed, steps run, and whether the last step
ran on the pinned epoch (spec 07 R174-R202). -/
structure GenSt where
  cfg : Option GenCfg
  reqs : List Req
  owed : List Owed
  steps : Nat
  lastPinned : Bool
deriving DecidableEq, Repr, Inhabited

/-- An experience record (spec 08 Table 8-1). -/
structure ERec where
  token : W32
  logp : W32
  value : W16
  flags : W16
  epoch : W32
  request : W32
  position : W32
  ret : W32
  adv : W32
deriving DecidableEq, Repr, Inhabited

/-- A trajectory (spec 08): who holds it for a scan, who has claimed it, and the pages of the ring that it keeps. -/
structure Traj where
  request : W32
  iface : Nat
  tclass : Nat
  closed : Bool
  truncated : Bool
  scanned : Bool
  holder : Option CmdId
  claim : Option CmdId
  pages : List Nat
  recs : List ERec
deriving DecidableEq, Repr, Inhabited

/-- A trajectory ring (spec 08 R210): its trajectories that are open or wait for their scan, and the delivery queue. -/
structure Ring where
  number : Nat
  handle : W32
  pages : Nat
  grants : List W32
  classes : Tab (W32 × W32)
  trajs : List Traj
  queue : List Traj
deriving DecidableEq, Repr, Inhabited

/-! ## Collectives -/

/-- The node state of an open collective (spec 14 R382): its members, the number of blocks of each entry, its own blocks (those of a
SUM also as the bytes that travel), what it has received, and what it has sent as (owner, position). A block's entry is its place in the command's entries. -/
structure Coll where
  cmd : CmdId
  groupId : W32
  q : W32
  digest : W32
  gather : Bool
  vote : Bool
  v : Nat
  o : Nat
  rank : Nat
  group : List W32
  entries : List Nat
  blocks : List Nat
  mine : List CollBlock
  raw : List (Nat × Nat × List Byte)
  got : List CollMsg
  sent : List (Nat × Nat)
  err : W32
  epoch : W32
  buffer : W32
deriving DecidableEq, Repr, Inhabited

/-- A committed reduction in a buffer (spec 09 R240, R246): its plan entries and the number of blocks of each. -/
structure Reduced where
  buffer : W32
  q : W32
  vote : Bool
  rank : Nat
  o : Nat
  entries : List Nat
  blocks : List Nat
deriving DecidableEq, Repr, Inhabited

/-- The blocks that a committed RULE_APPLY ran over, by plan entry (spec 09 R250). -/
structure Update where
  q : W32
  changed : List (Nat × List Nat)
deriving DecidableEq, Repr, Inhabited

/-! ## Checkpoints -/

/-- A shard of the committed division (spec 13 R333): the plan entry and its band of rows, or the listed context, and its
bytes with the header. -/
structure Shard where
  ctx : Option Nat
  entry : Nat
  row : Nat
  rows : Nat
  bytes : Nat
deriving DecidableEq, Repr, Inhabited

/-- A reserve page: the snapshot page it keeps, and the command that took it and has not committed (spec 13 R342). -/
structure Kept where
  handle : W32
  page : Nat
  owner : Option CmdId
deriving DecidableEq, Repr, Inhabited

/-- A drain (spec 13 R345): its set, its stage (0: waiting for its token; 2: the old MAGIC is zeroed; 3: pages of tensors;
4: context records; 5: the manifest; 6: MAGIC), the snapshot it keeps, the handles an ATOMIC command was writing, the
pages not yet drained, the page whose writes are under way, writes not yet acknowledged, context records not yet written,
and the reserve. -/
structure Drain where
  set : Nat
  stage : Nat
  step : W64
  seq : W64
  trigger : Nat
  snapUs : Nat
  allocs : List Alloc
  ctxs : List Ctx
  epochs : List (W32 × W32)
  open_ : List W32
  pages : List (W32 × Nat)
  writing : Option (W32 × Nat)
  awaiting : Nat
  ctxsLeft : List Nat
  reserve : List Kept
deriving DecidableEq, Repr, Inhabited

structure Ckp where
  plan : List MapEntry
  ctxs : List Nat
  sets : List (List Source × Source)
  reserve : Nat
  shardMib : Nat
  trigStep : Nat
  trigMs : Nat
  event : W32
  iface : Nat
  ctx : Nat
  shards : List Shard
  nextSeq : W64
  manifests : Tab (W64 × W64)
  timerBase : Nat
  deferred : Bool
  drain : Option Drain
  taken : Nat
  completed : Nat
  failed : Nat
  skipped : Nat
  stallUs : Nat
  deferrals : Nat
  lastFail : Nat
  lastSeq : W64
  lastStep : W64
  newest : Option Nat
  peak : Nat
deriving DecidableEq, Repr, Inhabited

/-! ## Partitions -/

/-- A switch in progress (spec 12 R321): the contexts that load and that save, whether it begins a donation, and when it
began. -/
structure Switch where
  incoming : Option Nat
  outgoing : Option Nat
  donate : Bool
  start : Nat
deriving DecidableEq, Repr, Inhabited

/-- A donation (spec 12 R325-R327): holder, semaphore, the waiting acquire, when the quantum began. -/
structure Donation where
  holder : Nat
  sem : Nat
  acquire : CmdId
  since : Nat
deriving DecidableEq, Repr, Inhabited

/-- A partition (spec 12). `callers`: the acquires that call for a donation, in the order in which their conditions arose (R327). -/
structure Part where
  num : Nat
  role : Nat
  c0 : Nat
  n : Nat
  hbmGib : Nat
  ddrGib : Nat
  fabric : W32
  host : Nat
  slots : Nat
  foot : Nat
  quantum : Nat
  slice : Nat
  pinLimit : Nat
  firstIf : Nat
  fenced : Bool
  degraded : Bool
  dying : Bool
  sems : Tab Nat
  step : W64
  gen : GenSt
  epo : Epo
  rings : List Ring
  rules : Tab Banks
  colls : List Coll
  early : List CollMsg
  shut : List (W32 × W32 × Bool)
  reduced : List Reduced
  updates : List Update
  ckp : Ckp
  switch : Option Switch
  donation : Option Donation
  callers : List CmdId
  served : Bool
  switches : Nat
  switchUs : Nat
  rotations : Nat
  donations : Nat
  revokes : Nat
  waste : Nat
  idleEnergy : Nat
deriving DecidableEq, Repr, Inhabited

/-! ## Interfaces -/

/-- A completion a queue remembers (spec 11 R284): sequence number, order of its doorbell, ordinal, status. -/
structure Done where
  seq : Nat
  bell : Nat
  ord : Nat
  status : Nat
deriving DecidableEq, Repr, Inhabited

/-- A submission queue and its reply ring (spec 11 R277-R288, Tables 11-12 to 11-14). `bells`: accepted doorbells as
(tail, order of arrival); `next` is the ordinal of the next packet. -/
structure Queue where
  present : Bool
  base : Nat
  log2 : Nat
  head : W32
  tail : W32
  next : Nat
  bells : List (W32 × Nat)
  done : List Done
  stopped : Bool
  rrAddr : W64
  rrKey : W32
  rrCfg : W32
  rrWr : W32
  rrHead : W32
  dying : Bool
deriving DecidableEq, Repr, Inhabited

/-- Counters of encodings per format (spec 03 Table 3-8). -/
structure Cnv where
  total : Nat
  ovf : Nat
  van : Nat
deriving DecidableEq, Repr, Inhabited

structure Iface where
  num : Nat
  part : Nat
  ports : Nat
  prioMin : Nat
  windowKey : W32
  qareaKey : W32
  qarea : Mem
  queues : Tab Queue
  events : Tab W32
  -- serving (spec 07 Table 7-8)
  tokCfg : W32
  tokRate : W32
  tokDepth : W32
  tokWeights : W32
  tokLevel : Int
  newBudget : Option (W32 × W32 × W32 × W32)
  slotCap : Nat
  classL : W32
  cring : Option (W32 × Nat)
  cringWr : W32
  cringRd : W32
  skips : Nat
  pinDrops : Nat
  kvDiscard : Nat
  -- tiers (spec 06 Table 6-11)
  winDefault : W32
  lateUses : Nat
  lateTokens : Nat
  stageWait : Nat
  -- formats (spec 03 Table 3-8)
  cnv : Tab Cnv
  fmtGuard : W32
  scaleFails : Nat
  -- learning (spec 09 Table 9-11)
  lrnTokens : Nat
  lrnClipped : Nat
  lrnLagged : Nat
  lrnNonfinite : Nat
  lrnUpdated : Nat
  -- accounting (spec 12 Table 12-5)
  ctxSel : W32
  snapStatus : W32
  snapTime : W32
  snap : Acct
  acct : Acct
  -- fault view (spec 15 Table 15-4)
  vPend : W32
  vAccess : W32
  vEvent : W32
  vCe : Tab Nat
  vUe : Tab Nat
  vLast : W32
  vLastDetail : W32
  vLastTime : W32
  -- experience and epochs (spec 08 Table 8-5, 10 Table 10-7)
  expRecords : Nat
  expClosed : Nat
  expEmpty : Nat
  expScanned : Nat
  publishes : Nat
  loadsIncomplete : Nat
  srcRefused : Nat
  served : Nat
deriving DecidableEq, Repr, Inhabited

/-! ## Commands in flight -/

/-- The kinds of a dependency (spec 11 Table 11-2), and that of one whose command QUE_DESTROY discarded unfetched (log 31). -/
inductive DepKind where
  | ok | any | event | never
deriving DecidableEq, Repr, Inhabited

/-- A dependency of a packet (spec 11 Table 11-2). `idx` is its index in the header; `queue`, `ord` name the command that
R284 selects (its queue and its ordinal there); for kind 0x3 `queue` is the event number. -/
structure Dep where
  idx : Nat
  kind : DepKind
  queue : Nat
  ord : Nat
  value : W32
deriving DecidableEq, Repr, Inhabited

/-- The committed contents a dispatched command sees (spec 11 R295): the partition's allocations, its context, its
copies, its rule slots, the classes of its trajectory rings, its interface's SCH.CLASS_L_THRESH (spec 07 R205). -/
structure View where
  allocs : List Alloc
  ctx : Option Ctx
  epo : Epo
  rules : Tab Banks
  classes : Tab (Tab (W32 × W32))
  classL : W32
deriving DecidableEq, Repr, Inhabited

/-- A provisional write: elements of an allocation as (element index, pattern), block scales as (byte address, code),
the statistics that replace the tensor's, the decode scale if it changes, and the format that counts it (none for a raw
write, spec 11 R478). An INT8 allocation's element k is its byte k (spec 03 R474). -/
structure TWrite where
  handle : W32
  elems : List (Nat × Nat)
  scales : List (Nat × Byte)
  stats : Stats
  dscale : Option W32
  count : Option Nat
deriving DecidableEq, Repr, Inhabited

/-- What MEM_ALLOC asks for (spec 06 R481). -/
structure AllocReq where
  size : Nat
  flags : W16
  fmt : Byte
  rank : Nat
  dims : List Nat
  affinity : Nat
deriving DecidableEq, Repr, Inhabited

/-- A token of a batch step (spec 08 Table 8-1). -/
structure TokOut where
  token : W32
  logp : W32
  flags : W16
  position : Nat
deriving DecidableEq, Repr, Inhabited

/-- What a batch step did for one request (spec 07 R184-R197). -/
structure ReqOut where
  slot : Nat
  prompt : Nat
  toks : List TokOut
  len : Nat
  draftLen : Nat
  drafted : Nat
  accepted : Nat
  probed : Bool
  idle : Bool
  ended : Option Nat
deriving DecidableEq, Repr, Inhabited

structure StepOut where
  epoch : W32
  pinned : Bool
  late : Bool
  outs : List ReqOut
  skips : List Nat
deriving DecidableEq, Repr, Inhabited

/-- What a command does at its commit besides its writes (spec 11 R295). Each is applied by the completion of its
opcode. -/
inductive Eff where
  | none
  | queCreate (q k : Nat)
  | queDestroy (q : Nat)
  | alloc (r : AllocReq)
  | free (h : W32)
  | plan (hs : List W32) (w p : Nat)
  | expose (h : W32)
  | unexpose (h : W32)
  | scale (es : List (Nat × W32 × BitVec 6))
  | table (sel : Nat) (ws : List W32)
  | genConfig (g : GenCfg)
  | genAdd (descs : List (List W32)) (res : W32) (off : Nat)
  | genStep (o : StepOut)
  | genCancel (reqId : Nat)
  | genPrefill (positions : Nat)
  | complRing (h : W32) (n : Nat)
  | learnPlan (p : LearnPlan)
  | learnStep (presence : List (W32 × List Nat)) (maxima : List (Nat × Nat × W32)) (tokens clipped lagged : Nat)
  | reduce (nonfinite : Nat) (r : Reduced)
  | ruleLoad (slot : Nat) (ws : List W32)
  | ruleApply (u : Update) (epoch : W32) (count : Nat) (serves : Bool)
  | gather (entries : List Nat) (epoch : W32)
  | mask (entry : Nat) (blocks : List Nat)
  | epoMap (es : List MapEntry) (arr : W32) (off : Nat)
  | epoGrant (gs : List (W32 × W32))
  | budLoad
  | budPublish (e : W32)
  | budDiscard
  | ringCreate (h : W32) (gs : List W32)
  | classSet (ring cls : Nat) (gamma lambda : W32)
  | score (ring : Nat) (req : W32) (recs : List ERec)
  | expGather (srcPart ring : Nat)
  | ringDestroy (ring : Nat)
  | evtSet (e : Nat) (add : Bool) (v : W32)
  | semInit (s n : Nat)
  | semAcquire (s u : Nat)
  | semRelease (s u : Nat)
  | ckpConfig (c : Ckp)
  | ckpStep (add : Bool) (v : W64)
  | ckpRestore (step : W64) (ctxs : List Ctx) (epochs : List (W32 × W32)) (weights : List W32)
  | rngSet (seed : W64) (det : Bool)
  | rngPut (seed : W64) (det : Bool) (gens : Tab Gen)
  | ctxCreate (foot prio : Nat)
  | ctxDestroy (t : Nat)
  | ctxPriority (t p : Nat)
deriving DecidableEq, Repr, Inhabited

/-- The provisional result of a command that has finished its work (spec 11 R287, R295). `always`: the effect belongs to
the status it carries although that is not OK (R289). -/
structure Result where
  status : Nat
  detail : W32
  aux0 : W32
  aux1 : W32
  index : W32
  writes : List TWrite
  gens : Option (Tab Gen)
  eff : Eff
  always : Bool
deriving DecidableEq, Repr, Inhabited

inductive CmdPhase where
  | fetched
  | dispatched
  | ready (r : Result)
deriving DecidableEq, Repr, Inhabited

/-- A command in flight (spec 11). `startUs`: the local time of its first dispatch; `target`: the command that a CTL_KILL has
found; `inserted`: its work items are on the scoreboards. -/
structure Cmd where
  id : CmdId
  opcode : Nat
  flags : W32
  ctx : Nat
  seq : Nat
  timeout : Nat
  event : Nat
  deps : List Dep
  words : List W32
  bell : Nat
  fetchUs : Nat
  attempts : Nat
  phase : CmdPhase
  disp : Nat
  order : Nat
  first : Option View
  view : Option View
  atomic : Bool
  stage : Nat
  begun : Bool
  reads : List (Nat × List Byte)
  failedReads : List Nat
  late : List Nat
  guardLog2 : Nat
  waitSince : Option Nat
  batch : Option StepOut
  stallSince : Option Nat
  needs : List (W32 × Nat)
  startUs : Nat
  target : Option CmdId
  inserted : Bool
deriving DecidableEq, Repr, Inhabited

/-! ## The operand-ready scoreboards (spec 02 R51-R53; 09 R229) -/

inductive ItemClass where
  | forward | backward | recompute
deriving DecidableEq, Repr, Inhabited

/-- Where an item's weight block comes from: its home, an entry of the layer plan, or blocks of a transposed copy. -/
inductive ItemWeight where
  | home
  | entry (index : Nat)
  | transposed (handle : W32) (blocks : List Nat)
deriving DecidableEq, Repr, Inhabited

/-- A work item: one pass of one weight block over at most 512 input rows. `product` numbers the products of its command in
the order of insertion, `src` the product whose outputs its input rows are; `col`, `row` name its accumulator rows, and
`k` its place in their chain. -/
structure WorkItem where
  cmd : CmdId
  cls : ItemClass
  product : Nat
  src : Option Nat
  weight : ItemWeight
  col : Nat
  row : Nat
  k : Nat
deriving DecidableEq, Repr, Inhabited

/-- A tile's scoreboard, oldest entry first, and the items that the command processor holds for it. -/
structure Board where
  entries : List WorkItem
  held : List WorkItem
deriving DecidableEq, Repr, Inhabited

/-! ## What the partitions share (spec 01 R17) -/

/-- The queues of the shared engines: EXP_SCORE commands in the order in which they became ready (08 R219), loads of the weight
distributor in the order in which they began, draining partitions in the order of their turns (13 R344), and for each
split compute die the partition and the job that its transpose engine serves. -/
structure Shared where
  scan : List CmdId
  loads : List CmdId
  drains : List Nat
  turns : Tab (Nat × Nat)
deriving DecidableEq, Repr, Inhabited

/-! ## What the module sends -/

/-- A reply (spec 11 Table 11-4). -/
structure Reply where
  iface : Nat
  queue : Nat
  words : List W32
deriving DecidableEq, Repr, Inhabited

/-- What an IP datagram of the fabric carries in front of its content (spec 14 R367, R369, Table 14-10): whether it is IPv6, the
addresses (an IPv4 address in the low 32 bits), the UDP ports, the DSCP, whether it is ECN-capable, Don't Fragment,
the TTL or hop limit, the UDP checksum, and the Ethernet address of the next hop, when it is resolved. -/
structure Datagram where
  v6 : Bool
  src : BitVec 128
  dst : BitVec 128
  sport : Nat
  dport : Nat
  dscp : Nat
  ect : Bool
  dontFragment : Bool
  hops : Nat
  checksum : Nat
  mac : Option (BitVec 48)
deriving DecidableEq, Repr, Inhabited

/-- What leaves the module. `mgmt`: to the source of its request. -/
inductive Out where
  | reply (r : Reply)
  | mgmt (path : MgmtPath) (dst : List Byte) (cmd status : Nat) (tag : W32) (counter : W64) (body : List Byte) (mac : List Byte)
  | roce (h : RoceHead) (b : RoceBody)
  | regValue (v : W64)
  | benzel (link : Nat) (d : Datagram) (hdr : List W32) (payload : List Byte) (crc : W32)
  | kvAnswer (request : W32) (status : Nat)
  | piece (toModule toPart : Nat) (epoch tensorId : W32) (row rows : Nat) (a : PieceAnswer)
  | askPiece (source : Source) (epoch : W32) (entry row rows : Nat)
  | coll (toModule toPart : Nat) (m : CollMsg)
  | arpReply (port : Port)
  | neighbourAdvert (port : Port)
  | echoReply (port : Port) (ident : W32)
  | resolve (link : Nat) (nh : W64)
  | announce (link : Nat)
  | ibi (b : Byte)
  | notification (source : Nat)
deriving DecidableEq, Repr, Inhabited

/-! ## The machine -/

structure State where
  pending : List Instr
  fit : Fit
  pins : Pins
  phase : Phase
  clk : Clk
  pwr : Pwr
  flt : Flt
  net : Net
  mgt : Mgt
  maint : Maint
  parts : List Part
  ifaces : List Iface
  ctxs : List Ctx
  allocs : List Alloc
  cmds : List Cmd
  boards : Tab Board
  shared : Shared
  keys : List (W32 × Option Nat)
  issued : Nat
  fresh : Nat
  stamp : Nat
  out : List Out
deriving DecidableEq, Repr, Inhabited


/-! ## Reset -/

/-- What is fitted in the machine of State.reset: a fully populated SQ4-F (DESIGN CHOICE, log 5). -/
def Fit.standard : Fit :=
  { variant := .f, stepping := 0#8
    sockets := List.replicate 8 (some { supported := true, gib := 64, rating := 64, x8 := false })
    badStacks := [], badDimms := [], badTiles := [] }

/-- A fabric link after reset (spec 14 Table 14-9). It gets its 16,384 credits to grant when it comes up (R376). -/
def Link.initial : Link :=
  { cfg := 1#32, nh := 0#64, up := false, training := false, lpi := false, asleep := false, seed := false, failed := false,
    effBase4 := 0#32, effPfx6 := 0#64, effCfg := 0x1835B0E1#32, effNh := 0#64, trainStart := 0, mac := none,
    resolvedAt := 0, lastFrame := 0, badFcs := 0, credits := 0 }

/-- A host port after reset (spec 14 Table 14-9). -/
def HostPort.initial : HostPort :=
  { cfg := 0x6806#32, addr4 := 0#32, addr6hi := 0#64, addr6lo := 0#64, up := false, training := false,
    pfcIgnored := false, pausedSince := none, ignoreUntil := 0, waits := [], trainStart := 0, badFcs := 0 }

/-- The NET block after reset (spec 14 Table 14-9). -/
def Net.initial : Net :=
  { modCfg := 0#32, fabBase4 := 0#32, fabPfx6 := 0#64, fabCfg := 0x1835B0E1#32, rcCfg := 0x326C#32,
    bzRto := 0x80032#32, moduleId := 0, idValid := false, fam6 := false
    links := (List.range 32).map (fun k => (k, Link.initial))
    ports := (List.range 4).map (fun p => (p, HostPort.initial))
    retx := 0, crcFail := 0, drops := 0, cnpTx := 0, cnpRx := 0, pathFail := 0, pfcWd := 0, mgmtUp := false,
    mgmtTrainStart := 0, mgmtBadFcs := 0, seedLanes := [], qps := [], rates := [], flows := [], recvs := [],
    grants := [], wants := [] }

/-- The calibration items that are not reserved (spec 16 Table 16-4). -/
def calItemUsed (i : Nat) : Bool :=
  decide (i < 0x16) || (decide (0x20 ≤ i) && decide (i < 0x2D)) || (decide (0x40 ≤ i) && decide (i < 0x4C)) ||
  (decide (0x60 ≤ i) && decide (i < 0x8A))

/-- The factory value of an item: 65,536 for the gains, whose unit is 2^-16, else 0 (DESIGN CHOICE, log 5). -/
def calFactory (i : Nat) : Nat := if i = 0x15 ∨ (0x20 ≤ i ∧ i < 0x2D) then 65536 else 0

/-- The items of the factory block of State.reset: F, with bounds 1,000 units away (DESIGN CHOICE, log 5). -/
def calInitial : Tab CalItem :=
  ((List.range 256).filter calItemUsed).map fun i =>
    (i, { f := BitVec.ofNat 32 (calFactory i), lo := BitVec.ofNat 32 (calFactory i) - 1000#32,
          hi := BitVec.ofNat 32 (calFactory i) + 1000#32 })

/-- The PWR block after reset (spec 16 Table 16-5). -/
def Pwr.initial : Pwr :=
  { state := 1#3, cfg := 0x64#32, inMv := 0#32, windows := [], allow := 16000000000, allowMax := 16000,
    resume := 0xFA0#32, gov := 16, therm := 16, brake := 16, cap := false, guard := false, below := 0, exceeded := false,
    temp := 0#32, flow := 0#32, wear := 0#32, stress := 0, powered := 0, caps := 0#32, brakes := 0#32,
    thermMs := 0#32, calSel := 0#32, cal := calInitial, user := [], saved := [], idleSince := 0,
    ddrCheckFailed := false, halved := [], doubled := [], inletOut := false, flowOut := false }

/-- The FLT block after reset: severities as Table 15-1, every record clear (spec 15 Table 15-10). -/
def Flt.initial : Flt :=
  { sev := (List.range 96).map sourceDefault, recs := [], safe := false, self := false, lastSrc := 0, injSel := 0#32,
    injMask := 0#32, injCount := 0, armed := false, prevLog := [], lastResort := false }

/-- The factory calibration block of a module as it leaves manufacture; its keys are not published (log 5, 13). -/
def CalBlock.initial : CalBlock :=
  { magic := 0x4C435153#32, format := 1#32, count := 256#32, edPub := Config.freeBytes 306 0, mlPub := Config.freeBytes 306 1, items := calInitial
    edKeyOk := true, mlKeyOk := true, edOk := true, mlOk := true }

/-- Trust and management of a module as it leaves manufacture (spec 17 R473; DESIGN CHOICE, log 5): the first released
image in slot A, slot B empty, no management key, no provisioning. -/
def Mgt.initial : Mgt :=
  { slotA := some { svn := 0, fwVer := 0x01000000#32, coefVer := 1#16, revoke := 0#8, edSlot := some 0,
                    mlSlot := some 0, edOk := true, mlOk := true, fwOk := true, compsOk := true, digests := [] }
    slotB := none, running := false, pref := false
    fuses := { secret := List.replicate 64 0#8, edKeys := (List.range 4).map (Config.fuseHash false), mlKeys := (List.range 4).map (Config.fuseHash true),
               calEdKey := Config.fuseHash false 4, calMlKey := Config.fuseHash true 4, edRevoked := [false, false, false, false], mlRevoked := [false, false, false, false], rollback := 0,
               parityOk := true }
    calBlock := CalBlock.initial, fallback := false, otherSvn := none, fwVer := 0#32, svn := 0, coefVer := 0#16, bootCount := 0#32,
    stage := 0#3, stageBytes := 0#32, stageLen := 0, stageMem := [], authFail := 0#32, replay := 0#32, proxy := none,
    proxyKey := 0#32, mailbox := [], ctr := 0#64, lastTag := none, lastReply := [], key := none, produced := [],
    prov := 0#32, provAddr := [], measured := [], identity := none, secretLocked := false }

/-- Maintenance after reset: nothing held, two seed tiles free on each compute die (spec 00 Table 0-6). -/
def Maint.initial : Maint :=
  { held := [], waiting := [], failing := [], dead := [], seedTiles := (List.range 8).map (fun d => (d, 2)),
    lanes := [], laneWait := [], rows := [], rowErrs := [], scrubAt := [], repair := [], ecs := [], spares := [] }

/-- The machine held in reset (spec 18 R465, Table 18-10): input applied, rails up, RESET_N low, every register at its
reset value. RESET_RELEASE boots it (log 2). -/
def State.reset : State :=
  { pending := [], fit := Fit.standard
    pins := { vin := 48000, pwrEn := true, resetN := false, pwrbrkN := true, refsOk := true, pwrGood := true,
              thermtrip := false, booted := false, resetWhileDormant := false, dormantByPin := false, i3c := none }
    phase := .inReset, clk := { localUs := 0, refillMs := 0, status := 0#5, refDev := 0#32 }, pwr := Pwr.initial,
    flt := Flt.initial, net := Net.initial, mgt := Mgt.initial, maint := Maint.initial, parts := [], ifaces := [],
    ctxs := [], allocs := [], cmds := [], boards := [],
    shared := { scan := [], loads := [], drains := [], turns := [] }, keys := [], issued := 0, fresh := 0, stamp := 0, out := [] }

end Sys2Proof.Machine
end

