-- ==== Sys2Proof/Machine/Formats.lean ====
section
/-!
DEFINITION. The ten element formats: decoding, encoding, rounding, classification (spec 03 R56-R68, R474, R475), and the
layout of a tensor in its allocation.
-/
namespace Sys2Proof.Machine

/-! ## The format field and the conversion control field (R56) -/

def fmtCode (f : Byte) : Nat := f.toNat % 16
def fmtBlock (f : Byte) : Bool := f.toNat / 16 % 2 == 1
def fmtRowK (f : Byte) : Bool := f.toNat / 32 % 2 == 1

/-- The formats that may be block-scaled: FP8, FP6, FP4 and INT8 (R56). -/
def fmtMayBlock (c : Nat) : Bool := decide (3 ≤ c) && decide (c ≤ 8)

/-- The field holds no reserved value (R56). -/
def fmtOk (f : Byte) : Bool :=
  decide (f.toNat < 64) && decide (fmtCode f ≤ 9) && (!fmtBlock f || fmtMayBlock (fmtCode f)) &&
  (!fmtRowK f || fmtBlock f)

def convOk (c : Nat) : Bool := decide (c < 4)
def convStoch (c : Nat) : Bool := c % 2 == 1
def convNonsat (c : Nat) : Bool := c / 2 % 2 == 1

def int8Field : Byte := 8#8

/-! ## The formats -/

/-- Bits of an element of a format code (Table 3-3, R59). -/
def fmtBits (c : Nat) : Nat :=
  match c with
  | 0 => 32 | 1 => 16 | 2 => 16 | 3 => 8 | 4 => 8 | 5 => 6 | 6 => 6 | 7 => 4 | 8 => 8 | _ => 4

def fmtIsInt (c : Nat) : Bool := c == 8 || c == 9

/-- Mantissa bits of a floating-point format (Table 3-3). -/
def fmtMant (c : Nat) : Nat :=
  match c with
  | 0 => 23 | 1 => 7 | 2 => 10 | 3 => 3 | 4 => 2 | 5 => 3 | 6 => 2 | _ => 1

/-- Exponent bias of a floating-point format (Table 3-3). -/
def fmtBias (c : Nat) : Nat :=
  match c with
  | 0 => 127 | 1 => 127 | 2 => 15 | 3 => 7 | 4 => 15 | 5 => 1 | 6 => 3 | _ => 1

/-- The magnitude pattern of the largest finite value (Table 3-3; the integers' positive extreme). -/
def fmtTop (c : Nat) : Nat :=
  match c with
  | 0 => 0x7F7FFFFF | 1 => 0x7F7F | 2 => 0x7BFF | 3 => 0x7E | 4 => 0x7B | 5 => 0x1F | 6 => 0x1F | 7 => 0x7 | 8 => 127
  | _ => 7

/-- The pattern of +infinity, where the format has one (Table 3-4). -/
def fmtInf (c : Nat) : Option Nat :=
  match c with
  | 0 => some 0x7F800000 | 1 => some 0x7F80 | 2 => some 0x7C00 | 4 => some 0x7C | _ => none

/-- The canonical NaN, where the format has one (Table 3-4). -/
def fmtNan (c : Nat) : Option Nat :=
  match c with
  | 0 => some 0x7FC00000 | 1 => some 0x7FC0 | 2 => some 0x7E00 | 3 => some 0x7F | 4 => some 0x7E | _ => none

/-- A two's complement pattern of b bits as a number. -/
def twosInt (b x : Nat) : Int := if x < 2 ^ (b - 1) then (x : Int) else (x : Int) - (2 ^ b : Nat)

/-- An element pattern as a value, before any block scale or decode scale (R57 to R59). `block`: an INT8 element of a
block-scaled tensor has six fraction bits. -/
def decodeElem (c : Nat) (block : Bool) (x : Nat) : Val :=
  if fmtIsInt c then
    let z := twosInt (fmtBits c) x
    .num (decide (z < 0)) z.natAbs (if block then 64 else 1)
  else
    let sign := 2 ^ (fmtBits c - 1)
    let neg : Bool := x / sign % 2 == 1
    let mag := x % sign
    let mb := fmtMant c
    let e := mag / 2 ^ mb
    let m := mag % 2 ^ mb
    if fmtInf c = some mag then .inf neg
    else if mag > fmtTop c then .nan
    else if e = 0 then Val.pow neg m (1 - (fmtBias c : Int) - mb)
    else Val.pow neg (2 ^ mb + m) ((e : Int) - fmtBias c - mb)

/-- A block scale as a value (R60). -/
def decodeScale (s : Byte) : Val :=
  if s = 0xFF#8 then .nan else Val.pow false 1 ((s.toNat : Int) - 127)

/-- Clamps a decoded block-scaled value to FP32's range: beyond it, the infinity of its sign (R63). R63 also says that a
block-scaled INT8 value never exceeds that range, which −128 under the scale 2^127 does: it decodes to −∞ like the other
formats (DESIGN CHOICE, log 61). -/
def toRange32 (v : Val) : Val :=
  match v with
  | .num neg n d => if n ≥ d * 2 ^ 128 then .inf neg else .num neg n d
  | w => w

/-! ## Encoding -/

/-- How a value was classified (R65, R66). -/
inductive Cls where
  | fine | overflowed | vanished | nan
deriving DecidableEq, Repr, Inhabited

/-- The random bits an element takes in a stochastic rounding: 3 or 4 (R68). -/
def stochBits (c : Nat) : Nat := if c = 5 ∨ c = 6 ∨ c = 7 ∨ c = 9 then 3 else 4

/-- The sign bit of a pattern. -/
def withSign (c : Nat) (neg : Bool) (mag : Nat) : Nat := mag + if neg then 2 ^ (fmtBits c - 1) else 0

/-- The pattern of an integer in two's complement of the format's width. -/
def intPattern (c : Nat) (neg : Bool) (k : Nat) : Nat :=
  if neg then (2 ^ fmtBits c - k) % 2 ^ fmtBits c else k

/-- The result for a value that overflowed (Table 3-5). -/
def overflowResult (c : Nat) (nonsat neg : Bool) : Nat :=
  if fmtIsInt c then intPattern c neg (fmtTop c + if neg then 1 else 0)
  else if nonsat then
    match fmtInf c, fmtNan c with
    | some i, _ => withSign c neg i
    | none, some n => n
    | none, none => withSign c neg (fmtTop c)
  else withSign c neg (fmtTop c)

/-- Stochastic rounding of a discarded fraction a / b with n random bits r (R68): whether to step away from zero. -/
def stochUp (n a b r : Nat) : Bool := decide (r < (a * 2 ^ (n + 1) + b) / (2 * b))

/-- The smallest normal exponent of a floating-point format. -/
def fmtEmin (c : Nat) : Int := 1 - (fmtBias c : Int)

/-- Encodes a value into a format without block scaling, under R64 to R68. `rnd`: the random bits when the rounding is
stochastic. -/
def encodeElem (c : Nat) (nonsat : Bool) (rnd : Option Nat) (v : Val) : Nat × Cls :=
  match v with
  | .nan => ((fmtNan c).getD 0, .nan)
  | .inf neg => (overflowResult c nonsat neg, .overflowed)
  | .num neg n d =>
    if fmtIsInt c then
      let k := rneDiv n d
      let limit := fmtTop c + if neg then 1 else 0
      if k > limit then (overflowResult c nonsat neg, .overflowed)
      else if k = 0 ∧ n ≠ 0 then (0, .vanished)
      else
        match rnd with
        | none => (intPattern c neg k, .fine)
        | some r =>
          let lo := n / d
          let hi := if stochUp (stochBits c) (n % d) d r then lo + 1 else lo
          (intPattern c neg (if hi > limit then limit else hi), .fine)
    else
      let k := rawNearest (fmtMant c) (fmtEmin c) n d
      if k > fmtTop c then (overflowResult c nonsat neg, .overflowed)
      else if k = 0 ∧ n ≠ 0 then (withSign c neg 0, .vanished)
      else
        match (if c = 0 then none else rnd) with
        | none => (withSign c neg k, .fine)
        | some r =>
          let (lo, a, b) := rawDown (fmtMant c) (fmtEmin c) n d
          let hi := if stochUp (stochBits c) a b r then lo + 1 else lo
          (withSign c neg (if hi > fmtTop c then fmtTop c else hi), .fine)

/-! ## Block scales (R62) -/

/-- The largest finite magnitude of a block element as a fraction (R62). -/
def blockTop (c : Nat) : Nat × Nat :=
  match c with
  | 3 => (448, 1) | 4 => (57344, 1) | 5 => (15, 2) | 6 => (28, 1) | 7 => (6, 1) | _ => (127, 64)

/-- The ceiling of log2 (n / d). -/
def ceilLog2Frac (n d : Nat) : Int :=
  let e := floorLog2 n d
  let exact := if e ≥ 0 then decide (n = d * 2 ^ e.toNat) else decide (n * 2 ^ (-e).toNat = d)
  if exact then e else e + 1

/-- Encodes one block of values: the scale code and the elements with their classes. -/
def encodeBlock (c : Nat) (nonsat : Bool) (rnd : List (Option Nat)) (vs : List Val) : Byte × List (Nat × Cls) :=
  if vs.any (fun v => !v.isFinite) then (0xFF#8, vs.map fun _ => (0, Cls.nan))
  else
    let amax := vs.foldl (fun m v => if m.lt v.abs then v.abs else m) (.num false 0 1)
    match amax with
    | .num _ 0 _ => (0x7F#8, vs.map fun _ => (0, Cls.fine))
    | .num _ n d =>
      let (tn, td) := blockTop c
      let x0 := ceilLog2Frac (n * td) (d * tn)
      let x : Int := if x0 < -127 then -127 else if x0 > 127 then 127 else x0
      let unit := Val.pow false 1 (-x)
      let six := if c = 8 then Val.num false 64 1 else Val.num false 1 1
      (BitVec.ofNat 8 (x + 127).toNat,
        (vs.zip rnd).map fun (v, r) => encodeElem c nonsat r ((v.mul unit).mul six))
    | _ => (0x7F#8, [])

/-! ## Layout of a tensor (R474, R481) -/

def Alloc.code (a : Alloc) : Nat := fmtCode a.fmt
def Alloc.block (a : Alloc) : Bool := fmtBlock a.fmt

/-- Columns and rows of a shape; a shapeless tensor of `size` bytes is one row (R481). -/
def shapeCols (fmt : Byte) (rank : Nat) (dims : List Nat) (size : Nat) : Nat :=
  if rank = 0 then
    if fmtBlock fmt then 32 * (size / (4 * fmtBits (fmtCode fmt) + 1))
    else size * 8 / fmtBits (fmtCode fmt)
  else dims.getD (rank - 1) 0

def shapeRows (rank : Nat) (dims : List Nat) : Nat :=
  if rank = 0 then 1 else (dims.take (rank - 1)).foldl (· * ·) 1

def Alloc.cols (a : Alloc) : Nat := shapeCols a.fmt a.rank a.dims a.size
def Alloc.rows (a : Alloc) : Nat := shapeRows a.rank a.dims
def Alloc.elements (a : Alloc) : Nat := a.rows * a.cols

/-- Bytes of one row of elements. -/
def rowBytes (fmt : Byte) (cols : Nat) : Nat := (cols * fmtBits (fmtCode fmt) + 7) / 8

/-- Where the block scales start: after the last row. -/
def Alloc.scaleBase (a : Alloc) : Nat := a.rows * rowBytes a.fmt a.cols

/-- Bytes of a shape with its scales (R474). -/
def shapeBytes (fmt : Byte) (rows cols : Nat) : Nat :=
  rows * rowBytes fmt cols + if fmtBlock fmt then rows * cols / 32 else 0

/-- The bit at which element k begins. -/
def Alloc.elemBit (a : Alloc) (k : Nat) : Nat :=
  k / a.cols * rowBytes a.fmt a.cols * 8 + k % a.cols * fmtBits a.code

/-- The byte of the block scale of element k. -/
def Alloc.scaleAddr (a : Alloc) (k : Nat) : Nat :=
  let r := k / a.cols
  let c := k % a.cols
  a.scaleBase + if fmtRowK a.fmt then r / 32 * a.cols + c else r * (a.cols / 32) + c / 32

/-- What a byte of an allocation that nothing has written reads as: zero, and 0x7F for a block scale (spec 06 R480). -/
def Alloc.dflt (a : Alloc) (b : Nat) : Byte :=
  if a.block && decide (a.scaleBase ≤ b) && decide (b < shapeBytes a.fmt a.rows a.cols) then 0x7F#8 else 0#8

/-! ## Memory: bytes by address in one canonical form -/

/-- The byte at an address; `d` is what an unlisted address reads as. -/
def Mem.get (m : Mem) (d : Nat → Byte) (a : Nat) : Byte :=
  match m with
  | [] => d a
  | (k, v) :: r => if k = a then v else if a < k then d a else Mem.get r d a

/-- The memory with the byte at `a` written; the value an unlisted address reads as is not listed. -/
def Mem.put (m : Mem) (d : Nat → Byte) (a : Nat) (b : Byte) : Mem :=
  match m with
  | [] => if b = d a then [] else [(a, b)]
  | (k, v) :: r =>
    if k < a then (k, v) :: Mem.put r d a b
    else if k = a then (if b = d a then r else (a, b) :: r)
    else if b = d a then (k, v) :: r else (a, b) :: (k, v) :: r

/-- The canonical form: addresses rise strictly from above `lo`, and no entry equals what is read where nothing is listed. -/
def Mem.wfFrom (d : Nat → Byte) (lo : Nat) (m : Mem) : Bool :=
  match m with
  | [] => true
  | (k, v) :: r => decide (lo ≤ k) && !(v == d k) && Mem.wfFrom d (k + 1) r

def Mem.wf (d : Nat → Byte) (m : Mem) : Bool := Mem.wfFrom d 0 m

/-- Zero: what an unlisted byte of a queue area, a mailbox or a staged image reads as (log 15). -/
def zeroByte (_ : Nat) : Byte := 0#8

def Mem.putBytes (m : Mem) (d : Nat → Byte) (a : Nat) (bs : List Byte) : Mem :=
  match bs with
  | [] => m
  | b :: r => Mem.putBytes (Mem.put m d a b) d (a + 1) r

def Mem.getBytes (m : Mem) (d : Nat → Byte) (a n : Nat) : List Byte :=
  (List.range n).map fun i => Mem.get m d (a + i)

/-- Bytes, least significant first, as a number (spec 00 R12). -/
def leNat (bs : List Byte) : Nat := bs.foldr (fun b n => b.toNat + 256 * n) 0

/-- The n low bytes of a number, least significant first. -/
def leBytes (n v : Nat) : List Byte := (List.range n).map fun i => BitVec.ofNat 8 (v / 256 ^ i)

def wordBytes (w : W32) : List Byte := leBytes 4 w.toNat
def wordsBytes (ws : List W32) : List Byte := ws.flatMap wordBytes

/-- Bytes as words; a shorter last group is filled with zeros. -/
def bytesWords (n : Nat) (bs : List Byte) : List W32 :=
  (List.range n).map fun i => BitVec.ofNat 32 (leNat ((bs.drop (4 * i)).take 4))

/-- `n` bits from bit `p`. -/
def Mem.getBits (m : Mem) (d : Nat → Byte) (p n : Nat) : Nat :=
  leNat (Mem.getBytes m d (p / 8) ((p % 8 + n + 7) / 8)) / 2 ^ (p % 8) % 2 ^ n

/-- `n` bits from bit `p` written; the other bits of the bytes they touch stay. -/
def Mem.putBits (m : Mem) (d : Nat → Byte) (p n v : Nat) : Mem :=
  let k := (p % 8 + n + 7) / 8
  let old := leNat (Mem.getBytes m d (p / 8) k)
  let s := 2 ^ (p % 8)
  let new := old % s + v % 2 ^ n * s + old / (s * 2 ^ n) * (s * 2 ^ n)
  Mem.putBytes m d (p / 8) (leBytes k new)

/-! ## Elements of an allocation -/

/-- Element k lies in an absent block of a GRAD tensor, which reads as zero (spec 09 R248). -/
def Alloc.absentAt (a : Alloc) (k : Nat) : Bool := match a.presence with | some l => !l.contains (k / 64) | none => false

def Alloc.pattern (a : Alloc) (k : Nat) : Nat := if a.absentAt k then 0 else Mem.getBits a.mem a.dflt (a.elemBit k) (fmtBits a.code)

/-- Element k, with its block scale, without the decode scale (R57 to R60, R63). -/
def Alloc.exact (a : Alloc) (k : Nat) : Val :=
  let v := decodeElem a.code a.block (a.pattern k)
  if a.block then toRange32 (v.mul (decodeScale (Mem.get a.mem a.dflt (a.scaleAddr k)))) else v

/-- Element k as a command other than a matrix command reads it (R475). -/
def Alloc.value (a : Alloc) (k : Nat) : W32 :=
  if a.block ∨ a.dscale = one32 then encode32 (a.exact k)
  else encode32 ((decode32 (encode32 (a.exact k))).mul (decode32 a.dscale))

def Alloc.values (a : Alloc) (off n : Nat) : List W32 := (List.range n).map fun i => a.value (off + i)

def Alloc.putElem (a : Alloc) (k x : Nat) : Alloc :=
  { a with mem := Mem.putBits a.mem a.dflt (a.elemBit k) (fmtBits a.code) x }

def Alloc.putElems (a : Alloc) : List (Nat × Nat) → Alloc
  | [] => a
  | (k, x) :: r => Alloc.putElems (a.putElem k x) r

def Alloc.putScales (a : Alloc) : List (Nat × Byte) → Alloc
  | [] => a
  | (p, b) :: r => Alloc.putScales { a with mem := Mem.put a.mem a.dflt p b } r

def Alloc.bytes (a : Alloc) (off n : Nat) : List Byte := Mem.getBytes a.mem a.dflt off n
def Alloc.word (a : Alloc) (off : Nat) : W32 := BitVec.ofNat 32 (leNat (a.bytes off 4))
def Alloc.words (a : Alloc) (off n : Nat) : List W32 := (List.range n).map fun i => a.word (off + 4 * i)

/-! ## Statistics of an encoding (R78) -/

def Stats.zero : Stats := { elements := 0, overflowed := 0, vanished := 0, nans := 0, amax := 0#32 }

/-- The statistics of values before encoding and their classes. -/
def statsOf (vs : List Val) (cs : List Cls) : Stats :=
  { elements := vs.length
    overflowed := cs.countP (· == .overflowed)
    vanished := cs.countP (· == .vanished)
    nans := cs.countP (· == .nan)
    amax := amaxOf vs }

/-- Encodes values as elements from `off` of an allocation that is not block-scaled, with the inverse decode scale E
(R72). -/
def encodePlain (a : Alloc) (conv : Nat) (e : W32) (off : Nat) (rnd : List (Option Nat)) (vs : List Val) :
    List (Nat × Nat) × List Cls :=
  let es := (vs.zip rnd).map fun (v, r) =>
    encodeElem a.code (convNonsat conv) r (if e = one32 then v else v.mul (decode32 e))
  (((List.range vs.length).map (off + ·)).zip (es.map (·.1)), es.map (·.2))

/-- The groups of a block-scaled tensor that elements off to off + n - 1 fall in: the element indices of each, in the
order of their scales (R474). -/
def blockGroups (a : Alloc) (off n : Nat) : List (Nat × List Nat) :=
  let ks := (List.range n).map (off + ·)
  let heads := ks.filter fun k => if fmtRowK a.fmt then k / a.cols % 32 == 0 else k % a.cols % 32 == 0
  heads.map fun k =>
    (a.scaleAddr k, (List.range 32).map fun i => if fmtRowK a.fmt then k + i * a.cols else k + i)

/-- A range of a block-scaled tensor covers whole groups (DESIGN CHOICE, log 28). -/
def wholeGroups (a : Alloc) (off n : Nat) : Bool :=
  if fmtRowK a.fmt then
    a.cols != 0 && off % (32 * a.cols) == 0 && n % (32 * a.cols) == 0
  else off % 32 == 0 && n % 32 == 0

/-- Encodes values into whole groups of a block-scaled tensor (R62). -/
def encodeBlocked (a : Alloc) (conv : Nat) (off : Nat) (rnd : List (Option Nat)) (vs : List Val) :
    List (Nat × Nat) × List (Nat × Byte) × List Cls :=
  let gs := (blockGroups a off vs.length).map fun (addr, ks) =>
    let (s, es) := encodeBlock a.code (convNonsat conv) (ks.map fun k => rnd.getD (k - off) none)
      (ks.map fun k => vs.getD (k - off) (.num false 0 1))
    (addr, s, ks.zip es)
  (gs.flatMap fun (_, _, es) => es.map fun (k, x, _) => (k, x), gs.map fun (p, s, _) => (p, s),
    gs.flatMap fun (_, _, es) => es.map fun (_, _, c) => c)

/-- The elements, block scales and classes of values encoded into an allocation from an element offset: `conv` is the
conversion control field, `ds` a decode scale to set. -/
def encodeParts (a : Alloc) (conv : Nat) (ds : Option W32) (off : Nat) (rnd : List (Option Nat)) (vs : List Val) :
    List (Nat × Nat) × List (Nat × Byte) × List Cls :=
  if a.block then encodeBlocked a conv off rnd vs
  else
    let (es, cs) := encodePlain a conv (fdiv one32 (ds.getD a.dscale)) off rnd vs
    (es, [], cs)

/-- The provisional write of values into an allocation from an element offset. -/
def encodeInto (a : Alloc) (conv : Nat) (ds : Option W32) (off : Nat) (rnd : List (Option Nat)) (vs : List Val) : TWrite :=
  let (es, ss, cs) := encodeParts a conv ds off rnd vs
  { handle := a.handle, elems := es, scales := ss, stats := statsOf vs cs, dscale := if a.block then none else ds,
    count := some a.code }

/-- The 32 elements of the scale group that element k belongs to (R61). -/
def Alloc.groupOf (a : Alloc) (k : Nat) : List Nat :=
  if fmtRowK a.fmt then
    let h := k / a.cols / 32 * 32 * a.cols + k % a.cols
    (List.range 32).map fun i => h + i * a.cols
  else
    let h := k / a.cols * a.cols + k % a.cols / 32 * 32
    (List.range 32).map fun i => h + i

/-- A value encoded under a block scale that is there. -/
def encodeUnder (c : Nat) (nonsat : Bool) (rnd : Option Nat) (scale : Byte) (v : Val) : Nat × Cls :=
  let six := if c = 8 then Val.num false 64 1 else Val.num false 1 1
  encodeElem c nonsat rnd ((v.div (decodeScale scale)).mul six)

/-- The write of values into some elements of a tensor, given as (element, value, random bits); every other element keeps its
contents and enters no statistics. A scale group whose elements are all written takes the scale of R62, any other keeps
the scale that it has (DESIGN CHOICE, log 39). -/
def encodeSome (a : Alloc) (conv : Nat) (ds : Option W32) (new : List (Nat × Val × Option Nat)) : TWrite :=
  let find := fun (k : Nat) => new.find? fun x => x.1 == k
  let gs : List (List (Nat × Byte) × List (Nat × Val × Nat × Cls)) :=
    if a.block then
      (new.foldl (fun (l : List Nat) x => if l.any fun k => a.scaleAddr k == a.scaleAddr x.1 then l else l ++ [x.1]) []).map fun h =>
        let xs := (a.groupOf h).filterMap find
        if xs.length = 32 then
          let (sc, es) := encodeBlock a.code (convNonsat conv) (xs.map (·.2.2)) (xs.map (·.2.1))
          ([(a.scaleAddr h, sc)], (xs.zip es).map fun (x, e) => (x.1, x.2.1, e))
        else ([], xs.map fun x => (x.1, x.2.1, encodeUnder a.code (convNonsat conv) x.2.2 (Mem.get a.mem a.dflt (a.scaleAddr h)) x.2.1))
    else
      let e := fdiv one32 (ds.getD a.dscale)
      [([], new.map fun x => (x.1, x.2.1, encodeElem a.code (convNonsat conv) x.2.2 (if e = one32 then x.2.1 else x.2.1.mul (decode32 e))))]
  let es := gs.flatMap (·.2)
  { handle := a.handle, elems := es.map fun x => (x.1, x.2.2.1), scales := gs.flatMap (·.1)
    stats := statsOf (es.map (·.2.1)) (es.map (·.2.2.2)), dscale := if a.block then none else ds, count := some a.code }

/-- A raw write of bytes (spec 11 R478). -/
def rawWrite (h : W32) (off : Nat) (bs : List Byte) : TWrite :=
  { handle := h, elems := ((List.range bs.length).map (off + ·)).zip (bs.map (·.toNat)), scales := [], stats := Stats.zero,
    dscale := none, count := none }

/-- The formats whose outputs the SCALE_RANGE guard watches (R81). -/
def guardedFmt (a : Alloc) : Bool := !a.block && decide (2 ≤ a.code)

/-- The statistics pass the threshold 2^-t (R82, Table 3-9). -/
def guardTrips (t : Nat) (st : Stats) : Bool :=
  t != 0 && (decide (st.overflowed * 2 ^ (if t > 24 then 24 else t) > st.elements) ||
    decide (st.vanished * 2 ^ (if t > 24 then 24 else t) > st.elements))

end Sys2Proof.Machine
end

