-- ==== Sys2Proof/Machine/Units.lean ====
section
/-!
DEFINITION. The named operations over lists, counters and the units of the state: finding them and changing them.
-/
namespace Sys2Proof.Machine

/-- What a meaning answers. -/
abbrev Answer := Host.Outcome State Fault Refusal

/-! ## Addresses -/

/-- The number that octets in network order spell (spec 00 R12). -/
def netNat (bs : List Byte) : Nat := bs.foldl (fun n b => n * 256 + b.toNat) 0

/-- The IPv6 address in words i to i + 3 of a descriptor, packet or record: octets in network order (spec 00 R12). -/
def netAddr6 (ws : List W32) (i : Nat) : BitVec 128 :=
  BitVec.ofNat 128 (netNat (wordsBytes ((List.range 4).map fun k => ws.getD (i + k) 0#32)))

/-- The IPv4 address in word i of a record. -/
def netAddr4 (ws : List W32) (i : Nat) : W32 := BitVec.ofNat 32 (netNat (wordBytes (ws.getD i 0#32)))

/-! ## Lists -/

/-- Every element that `p` selects, changed by `f`. -/
def modWhere {α : Type} (p : α → Bool) (f : α → α) (l : List α) : List α := l.map fun x => if p x then f x else x

/-- The element, added at the end when it is not there. -/
def addOnce {α : Type} [DecidableEq α] (x : α) (l : List α) : List α := if x ∈ l then l else l ++ [x]

/-- Removes the first element that `p` selects. -/
def dropFirst {α : Type} (p : α → Bool) : List α → List α
  | [] => []
  | x :: r => if p x then r else x :: dropFirst p r

/-- The element with the least key; the earliest of equals. -/
def minBy {α : Type} (key : α → Nat) : List α → Option α
  | [] => none
  | x :: r => match minBy key r with
    | none => some x
    | some y => if key y < key x then some y else some x

/-- A list in increasing order of a key; equals stay in the list's order. -/
def insertBy {α : Type} (key : α → Nat) (x : α) : List α → List α
  | [] => [x]
  | y :: r => if key x ≤ key y then x :: y :: r else y :: insertBy key x r

def orderBy {α : Type} (key : α → Nat) (l : List α) : List α := l.foldr (insertBy key) []

/-! ## Counters (spec 00 R15; 06 R173, 07 R204) -/

def sat32 (n : Nat) : W32 := BitVec.ofNat 32 (if n > 0xFFFFFFFF then 0xFFFFFFFF else n)
def satAdd32 (w : W32) (n : Nat) : W32 := sat32 (w.toNat + n)
def sat64 (n : Nat) : Nat := if n > 0xFFFFFFFFFFFFFFFF then 0xFFFFFFFFFFFFFFFF else n
def satNat32 (n : Nat) : Nat := if n > 0xFFFFFFFF then 0xFFFFFFFF else n
def satNat16 (n : Nat) : Nat := if n > 0xFFFF then 0xFFFF else n

/-- Bit field [hi:lo] of a word, as a number. -/
def field (w : W32) (hi lo : Nat) : Nat := w.toNat / 2 ^ lo % 2 ^ (hi + 1 - lo)
def bitAt (w : W32) (i : Nat) : Bool := w.toNat / 2 ^ i % 2 == 1
def boolNat (b : Bool) : Nat := if b then 1 else 0

/-- a is later than b (spec 00 R11). -/
def epochLater (a b : W32) : Bool := let d := (a - b).toNat; decide (1 ≤ d) && decide (d < 2 ^ 31)

/-! ## Finding and changing units -/

def State.part? (s : State) (n : Nat) : Option Part := s.parts.find? (·.num == n)
def State.iface? (s : State) (n : Nat) : Option Iface := s.ifaces.find? (·.num == n)
def State.ctx? (s : State) (n : Nat) : Option Ctx := s.ctxs.find? (·.id == n)
def State.cmd? (s : State) (c : CmdId) : Option Cmd := s.cmds.find? (·.id == c)
def State.alloc? (s : State) (p : Nat) (h : W32) : Option Alloc := s.allocs.find? fun a => a.part == p && a.handle == h
def State.link? (s : State) (k : Nat) : Option Link := (s.net.links.find? (·.1 == k)).map (·.2)
def State.port? (s : State) (p : Nat) : Option HostPort := (s.net.ports.find? (·.1 == p)).map (·.2)

def State.modPart (s : State) (n : Nat) (f : Part → Part) : State := { s with parts := modWhere (·.num == n) f s.parts }
def State.modIface (s : State) (n : Nat) (f : Iface → Iface) : State :=
  { s with ifaces := modWhere (·.num == n) f s.ifaces }
def State.modCtx (s : State) (n : Nat) (f : Ctx → Ctx) : State := { s with ctxs := modWhere (·.id == n) f s.ctxs }
def State.modCmd (s : State) (c : CmdId) (f : Cmd → Cmd) : State := { s with cmds := modWhere (·.id == c) f s.cmds }
def State.modAlloc (s : State) (p : Nat) (h : W32) (f : Alloc → Alloc) : State :=
  { s with allocs := modWhere (fun a => a.part == p && a.handle == h) f s.allocs }
def State.modLink (s : State) (k : Nat) (f : Link → Link) : State :=
  { s with net := { s.net with links := s.net.links.map fun e => if e.1 == k then (e.1, f e.2) else e } }
def State.modPort (s : State) (p : Nat) (f : HostPort → HostPort) : State :=
  { s with net := { s.net with ports := s.net.ports.map fun e => if e.1 == p then (e.1, f e.2) else e } }
def State.modQp (s : State) (port qpn : Nat) (f : Qp → Qp) : State :=
  { s with net := { s.net with qps := modWhere (fun q => q.port == port && q.num == qpn) f s.net.qps } }
def State.qp? (s : State) (port qpn : Nat) : Option Qp := s.net.qps.find? fun q => q.port == port && q.num == qpn

def State.modPwr (s : State) (f : Pwr → Pwr) : State := { s with pwr := f s.pwr }
def State.modNet (s : State) (f : Net → Net) : State := { s with net := f s.net }
def State.modMgt (s : State) (f : Mgt → Mgt) : State := { s with mgt := f s.mgt }
def State.modMaint (s : State) (f : Maint → Maint) : State := { s with maint := f s.maint }
def State.modFlt (s : State) (f : Flt → Flt) : State := { s with flt := f s.flt }

/-- Sends something out of the module. -/
def State.emit (s : State) (o : Out) : State := { s with out := s.out ++ [o] }

/-- A new order mark; marks rise. -/
def State.tickStamp (s : State) : State := { s with stamp := s.stamp + 1 }

/-- The next use of a free value (log 6). -/
def State.useFresh (s : State) : State := { s with fresh := s.fresh + 1 }

def State.ifacePart (s : State) (i : Nat) : Nat := ((s.iface? i).map (·.part)).getD 32

def Iface.queue? (i : Iface) (q : Nat) : Option Queue := (i.queues.find? (·.1 == q)).map (·.2)
def Iface.modQueue (i : Iface) (q : Nat) (f : Queue → Queue) : Iface :=
  { i with queues := i.queues.map fun e => if e.1 == q then (e.1, f e.2) else e }
def State.queue? (s : State) (i q : Nat) : Option Queue := (s.iface? i).bind (·.queue? q)
def State.modQueue (s : State) (i q : Nat) (f : Queue → Queue) : State := s.modIface i (·.modQueue q f)

/-- The partition a command belongs to. -/
def State.cmdPart (s : State) (c : CmdId) : Nat := s.ifacePart c.iface

/-! ## What is fitted (spec 00 R1, R7; 06 R153, R169, R170) -/

def Fit.links (f : Fit) : Nat := match f.variant with | .f => 32 | _ => 16
def Fit.hostPorts (f : Fit) : Nat := match f.variant with | .n => 2 | _ => 4
def Fit.scan (f : Fit) : Bool := match f.variant with | .n => false | _ => true

/-- The capacities of the RDIMMs that the tier supports, in GiB (06 Table 6-8). -/
def rdimmGib : List Nat := [16, 32, 48, 64, 96, 128, 256]

/-- The channels whose RDIMM trains: of a supported kind and capacity, rated at 4800 MT/s or more, and not failing (R169). -/
def Fit.channels (f : Fit) : List (Nat × Rdimm) :=
  match f.variant with
  | .f => ((List.range 8).filterMap fun c => ((f.sockets.getD c none)).map fun d => (c, d)).filter
      fun (c, d) => d.supported && rdimmGib.contains d.gib && decide (48 ≤ d.rating) && !f.badDimms.contains c
  | _ => []

/-- The common data rate, in 100 MT/s (R169); 0 with no channel. -/
def Fit.ddrRate (f : Fit) : Nat := f.channels.foldl (fun r (_, d) => if r = 0 ∨ d.rating < r then (if d.rating > 64 then 64 else d.rating) else r) 0

/-- The smallest RDIMM in service, in GiB (R170). -/
def Fit.ddrGib (f : Fit) : Nat :=
  f.channels.length * f.channels.foldl (fun r (_, d) => if r = 0 ∨ d.gib < r then d.gib else r) 0

def Fit.ddrDev (f : Fit) : Nat :=
  let cs := f.channels
  if cs.isEmpty then 0 else if cs.all (fun (_, d) => !d.x8) then 4 else if cs.all (fun (_, d) => d.x8) then 8 else 0xC

def Fit.ddrMask (f : Fit) : Nat := f.channels.foldl (fun m (c, _) => m + 2 ^ c) 0

def State.linkFitted (s : State) (k : Nat) : Bool := decide (k < s.fit.links)
def State.portFitted (s : State) (p : Nat) : Bool := decide (p < s.fit.hostPorts)

/-- DDR5 is in service (spec 00 R5). -/
def State.ddrUp (s : State) : Bool := !s.fit.channels.isEmpty

/-! ## Whether the data plane works -/

/-- The module has booted, and neither safe state nor reset stops its work (spec 15 R397, 18 R467). -/
def State.live (s : State) : Bool := s.phase == .running && !s.flt.safe

/-- Power states in which the engines have their clocks: Run, Ready and Doze (spec 16 Table 16-1). -/
def State.awake (s : State) : Bool := s.live && decide (s.pwr.state.toNat ≤ 2)

/-- The thermal fraction in force: the hardware guard holds 4/16 (spec 16 R424). -/
def Pwr.thermFrac (p : Pwr) : Nat := if p.guard then 4 else p.therm

/-! ## Partitions and contexts -/

def Part.tiles (p : Part) : Nat := 4 * p.n
def Part.firstTile (p : Part) : Nat := 4 * p.c0
def Part.ownsTile (p : Part) (t : Nat) : Bool := decide (p.firstTile ≤ t) && decide (t < p.firstTile + p.tiles)

/-- The most resident contexts of a partition (spec 12 R314). -/
def Part.residentSlots (p : Part) : Nat :=
  if p.foot = 0 then 8 else let k := 16384 / p.foot - 1; if k > 8 then 8 else k

def roleGenerate : Nat := 0
def rolePrefill : Nat := 1
def roleLearn : Nat := 2

def State.partCtxs (s : State) (p : Nat) : List Ctx := s.ctxs.filter (·.part == p)
def State.partIfaces (s : State) (p : Nat) : List Iface := s.ifaces.filter (·.part == p)
def State.partCmds (s : State) (p : Nat) : List Cmd := s.cmds.filter fun c => s.cmdPart c.id == p
def State.partAllocs (s : State) (p : Nat) : List Alloc := s.allocs.filter (·.part == p)

/-- The commands of a context dispatch: it is resident or donated (spec 12 Table 12-3). -/
def Ctx.inTile (c : Ctx) : Bool := c.st == .resident || c.st == .donated

/-- 80 MiB on-chip per clover; 16 MiB commons share (spec 06 Table 6-1), in bytes. -/
def mib : Nat := 1048576
def kib : Nat := 1024
def gib : Nat := 1073741824
def roundUp (n u : Nat) : Nat := (n + u - 1) / u * u

end Sys2Proof.Machine
end

