-- ==== Sys2Proof/Machine/Records.lean ====
section
/-!
DEFINITION. Events, the fault views of interfaces, and the collector's records (spec 11 R300; 15 R395, R399, R401), and the
injection of check-bit errors (15 R402).
-/
namespace Sys2Proof.Machine

/-! ## Events (spec 11 R300) -/

def State.addEvent (s : State) (i n k : Nat) : State :=
  s.modIface i fun f => { f with events := Tab.set f.events n (satAdd32 (Tab.get f.events n 0#32) k) }

def State.event (s : State) (i n : Nat) : W32 := ((s.iface? i).map fun f => Tab.get f.events n 0#32).getD 0#32

/-! ## The fault view of an interface (spec 15 R401) -/

/-- Sets bits of FLT.V_PEND; each bit newly set adds 1 to the event of FLT.V_EVENT when EN is set. -/
def Iface.raise (f : Iface) (bits : W32) : Iface :=
  let fresh := bits &&& ~~~f.vPend
  let count := (List.range 9).countP (bitAt fresh)
  let n := field f.vEvent 7 0
  { f with vPend := f.vPend ||| bits
           events := if bitAt f.vEvent 8 && decide (0 < count)
             then Tab.set f.events n (satAdd32 (Tab.get f.events n 0#32) count) else f.events }

def causeR13 : Nat := 0
def causeR279 : Nat := 1
def causeR205 : Nat := 2
def causeR304 : Nat := 3
def causeR305 : Nat := 4
def causeR288 : Nat := 5

/-! ## Collector records (spec 15 R395) -/

/-- The detail word of a detection. -/
def detailWord (inst : Nat) (part : Option Nat) (info : Nat) : W32 :=
  BitVec.ofNat 32 (inst % 256 + (match part with | some p => p % 32 * 256 + 0x2000 | none => 0) + info % 65536 * 65536)

def Rec.clear : Rec := { pending := false, count := 0, sev := 0, first := 0#32, time := 0#32, last := 0#32 }

/-- A detection recorded: the first since a clear keeps severity, detail and time; each counts and overwrites the last
detail. -/
def Rec.note (r : Rec) (sev : Nat) (detail : W32) (us : Nat) : Rec :=
  if r.pending then { r with count := satNat16 (r.count + 1), last := detail }
  else { pending := true, count := 1, sev := sev, first := detail, time := BitVec.ofNat 32 us, last := detail }

def Flt.recOf (f : Flt) (n : Nat) : Rec := Tab.get f.recs n Rec.clear
def Flt.note (f : Flt) (n sev : Nat) (detail : W32) (us : Nat) : Flt :=
  { f with recs := Tab.set f.recs n ((f.recOf n).note sev detail us), lastSrc := n }

/-- The partitions a source affects (spec 15 R392). -/
def State.affected (s : State) (d : Detection) : List Nat :=
  match sourceScope d.source with
  | some .s =>
    (s.parts.filter fun p =>
      if 0x40 ≤ d.source ∧ d.source ≤ 0x42 then p.host / 2 ^ d.inst % 2 == 1
      else if 0x39 ≤ d.source ∧ d.source ≤ 0x3E then p.ddrGib != 0
      else true).map (·.num)
  | _ => match d.part with
    | some p => if (s.part? p).isSome then [p] else []
    | none => []

/-- The bits of FLT.V_PEND a detection sets (Table 15-5). ACCESS is not one: a view shows only its own interface's accesses
(R401), and `State.discard` sets it. -/
def viewBits (source sev : Nat) : W32 :=
  let unit := source = 0x06 ∨ source = 0x08 ∨ source = 0x09 ∨ source = 0x0A ∨ source = 0x0B ∨ source = 0x0C
  let linkDown := source = 0x40 ∨ source = 0x44 ∨ source = 0x46
  let reads := sourceRead source
  BitVec.ofNat 32 (
    (if reads.any (·.2) then 2 else 0) +
    (if reads.any (fun r => !r.2) then 4 else 0) + (if unit then 8 else 0) + (if linkDown then 16 else 0) +
    (if source = 0x47 ∨ source = 0x48 then 32 else 0) + (if source = 0x5C then 64 else 0) +
    (if sourceScope source = some .s ∧ 2 ≤ sev then 256 else 0))

/-- Shows a record in an interface's view. -/
def Iface.showRecord (f : Iface) (source sev : Nat) (detail : W32) (us : Nat) : Iface :=
  { f.raise (viewBits source sev) with
    vLast := BitVec.ofNat 32 (source + sev * 128), vLastDetail := detail, vLastTime := BitVec.ofNat 32 us }

/-- Counts a corrected or uncorrectable read of the partition's commands (Table 15-4), at every severity. -/
def Iface.countRead (f : Iface) (source : Nat) : Iface :=
  match sourceRead source with
  | some (t, true) => { f with vCe := Tab.mod f.vCe t 0 fun n => sat64 (n + 1) }
  | some (t, false) => { f with vUe := Tab.mod f.vUe t 0 fun n => sat64 (n + 1) }
  | none => f

def State.severity (s : State) (n : Nat) : Nat := s.flt.sev.getD n 0

/-- The read counters count the reads that a partition's commands made (spec 15 R401). -/
def State.viewCounts (s : State) (d : Detection) : State :=
  match (if d.cmd.isSome then d.part else none) with
  | some p => { s with ifaces := modWhere (·.part == p) (·.countRead d.source) s.ifaces }
  | none => s

/-- Records a detection in the collector, in the views of the affected partitions, and by the signals of NOTIFY
(spec 15 R393, R395, R401; 17 R449). It does not fence, fail commands or enter the safe state. -/
def State.record (s : State) (d : Detection) : State :=
  let sev := s.severity d.source
  let s := s.viewCounts d
  if (sourceScope d.source).isNone ∨ sev = sevIgnore then s
  else
    let detail := detailWord d.inst d.part d.info
    let hit := s.affected d
    let s := { s with flt := s.flt.note d.source sev detail s.clk.localUs
                      ifaces := modWhere (fun f => hit.contains f.part) (·.showRecord d.source sev detail s.clk.localUs)
                        s.ifaces }
    if sevNotify ≤ sev then (s.emit (.ibi 0x01#8)).emit (.notification d.source) else s

/-! ## Token requests of the module (spec 15 R409), and rows that keep failing (R405, Table 15-7) -/

/-- A request by the module waits, in order; it does not ask twice. -/
def State.requestToken (s : State) (t : Token) : State :=
  if s.maint.held.contains t || s.maint.waiting.contains t then s else s.modMaint fun m => { m with waiting := m.waiting ++ [t] }

/-- A corrected read of a row, counted; the third asks for a token. Tiles have keys below 128, HBM stacks above. -/
def State.countRow (s : State) (key : Nat × Nat) (t : Token) : State :=
  let n := ((s.maint.rowErrs.find? (·.1 == key)).map (·.2)).getD 0 + 1
  let s := s.modMaint fun m => { m with rowErrs := m.rowErrs.filter (·.1 != key) ++ (if n < 3 then [(key, n)] else []) }
  if n < 3 then s else s.requestToken t

/-- A read of a row of tile memory or HBM with errors, by its source: the third corrected read, or an uncorrectable read in
HBM, asks for a repair. Which row a location lies in is not published (log 16). -/
def State.noteRow (s : State) (source inst row : Nat) : State :=
  match sourceRead source with
  | some (0, true) => s.countRow (inst, row) { cls := 4, scope := 0, use := .seedRow inst row }
  | some (2, true) => s.countRow (128 + inst, row) { cls := 1, scope := 0, use := .row inst }
  | some (2, false) => s.requestToken { cls := 1, scope := 0, use := .row inst }
  | _ => s

/-! ## Injection (spec 15 R402) -/

/-- A selected write: it counts down, and the count that reaches zero disarms the injection and is recorded. -/
def State.injected (s : State) : State :=
  let s := s.modFlt fun f => { f with injCount := f.injCount - 1, armed := decide (1 < f.injCount) }
  if s.flt.armed then s else s.record { source := 0x5F, inst := 0, part := none, info := 0, cmd := none }

/-- An armed injection selects a write at a checker: its instance, and the partition whose write it is. -/
def Flt.selects (f : Flt) (checker inst : Nat) (part : Option Nat) : Bool :=
  f.armed && field f.injSel 3 0 == checker && field f.injSel 15 8 == inst &&
  (bitAt f.injSel 21 || part == some (field f.injSel 20 16))

/-! ## The contents a handle names (spec 10 R252) -/

/-- An allocation as a command's view holds it: an epoch handle has the contents of the bloom area (spec 10 R252). The
statistics are the tensor's, whichever copy its last write was of. -/
def Area.show (r : Area) (k : Nat) (a : Alloc) : Alloc :=
  { a with mem := r.mems.getD k [], shadow := (r.shadows.getD k none),
           uncorr := r.uncorrs.getD k [], corr := r.corrs.getD k [] }

def Epo.area? (e : Epo) (r : AreaRole) : Option Area := e.areas.find? (·.role == r)

def Epo.resolve (e : Epo) (r : AreaRole) (a : Alloc) : Alloc :=
  match a.role, e.area? r with
  | .epoch k, some v => v.show k a
  | _, _ => a

def Epo.hasArea (e : Epo) (r : AreaRole) : Bool := e.areas.any (·.role == r)

def Epo.modArea (e : Epo) (r : AreaRole) (f : Area → Area) : Epo := { e with areas := modWhere (·.role == r) f e.areas }

/-- The contents of an allocation put back as entry k of an area. -/
def Area.keep (r : Area) (k : Nat) (a : Alloc) : Area :=
  { r with mems := r.mems.set k a.mem, shadows := r.shadows.set k a.shadow,
           uncorrs := r.uncorrs.set k a.uncorr, corrs := r.corrs.set k a.corr }

/-- The contents that a handle names now: of the bloom area for an epoch handle. -/
def State.contents (s : State) (p : Nat) (h : W32) : Option Alloc :=
  match s.part? p with
  | some q => (s.alloc? p h).map (q.epo.resolve .bloom)
  | none => none

/-- Changes the contents that a handle names. -/
def State.modContents (s : State) (p : Nat) (h : W32) (f : Alloc → Alloc) : State :=
  match (s.alloc? p h).map (fun a : Alloc => a.role), (s.part? p).bind (·.epo.area? .bloom) with
  | some (.epoch k), some v =>
    match s.alloc? p h with
    | none => s
    | some a =>
      let b := f (v.show k a)
      (s.modPart p fun q => { q with epo := q.epo.modArea .bloom (·.keep k b) }).modAlloc p h fun a =>
        { b with mem := a.mem, shadow := a.shadow, uncorr := a.uncorr, corr := a.corr }
  | _, _ => s.modAlloc p h f

/-! ## The copy that a command resolved (spec 10 R252) -/

/-- The epoch of the copy whose contents a command's handles name: that of its batch, else the bloom copy of its first
dispatch. -/
def Cmd.copyEpoch (c : Cmd) : Option W32 :=
  match c.batch with
  | some b => some b.epoch
  | none => (c.first.bind fun v => v.epo.area? .bloom).map (·.epoch)

/-- The area that holds that copy now; a bud is none. -/
def Epo.holding (e : Epo) (epoch : W32) : Option Nat :=
  if (e.area? .bloom).map (·.epoch) = some epoch then e.areas.findIdx? (·.role == .bloom)
  else e.areas.findIdx? fun a => a.role != .bud && a.epoch == epoch

def State.copyIndex (s : State) (c : Cmd) : Option Nat := (s.part? (s.cmdPart c.id)).bind fun p => c.copyEpoch.bind p.epo.holding

/-- Handles name area i: its role and that of the bloom area change places. -/
def Epo.face (e : Epo) (i : Nat) : Epo :=
  match e.areas[i]? with
  | some v => { e with areas := ((e.modArea .bloom fun a => { a with role := v.role }).areas).set i { v with role := .bloom } }
  | none => e

/-- The state in which a partition's handles name area i. -/
def State.facedTo (s : State) (p : Nat) (i : Option Nat) : State :=
  match i with
  | some i => s.modPart p fun q => { q with epo := q.epo.face i }
  | none => s

/-- A change of the state in which a partition's handles name area i; the roles are afterwards as they were. -/
def State.facing (s : State) (p : Nat) (i : Option Nat) (f : State → State) : State :=
  match i, s.part? p with
  | some i, some q =>
    (f (s.facedTo p (some i))).modPart p fun r =>
      { r with epo := { r.epo with areas := (r.epo.areas.zip q.epo.areas).map fun (a, b) => { a with role := b.role } } }
  | _, _ => f s

/-! ## Check units (spec 06 R165, R166) and what a damaged write leaves -/

/-- The bytes one check covers: 16 on-chip, 64 in HBM and DDR5 (spec 06 Table 6-7). -/
def checkUnit (h : Home) : Nat := match h with | .tile => 16 | .commons => 16 | .hbm => 64 | .ddr => 64

def flagBit (f : W16) (i : Nat) : Bool := f.toNat / 2 ^ i % 2 == 1
def Alloc.spread (a : Alloc) : Bool := flagBit a.flags 5
def Alloc.shadow4 (a : Alloc) : Bool := flagBit a.flags 4

/-- What an allocation may spread over: the tiles and clovers of its partition, and the DDR5 channels in service (spec 06
R147, R151, R170). -/
structure Span where
  tiles : Nat
  clovers : Nat
  channels : List Nat

def State.span (s : State) (p : Nat) : Span :=
  { tiles := ((s.part? p).map (·.tiles)).getD 1, clovers := ((s.part? p).map (·.n)).getD 1
    channels := s.fit.channels.map (·.1) }

/-- The granule that a check unit lies in: 4 KiB, or 256 bytes in HBM and DDR5 with SPREAD (spec 06 R147, R151). -/
def Alloc.granule (a : Alloc) (u : Nat) : Nat :=
  u * checkUnit a.home / (if a.spread && (a.home == .hbm || a.home == .ddr) then 256 else 4096)

/-- What the hash takes for an allocation's address: its partition and its handle (log 16). -/
def Alloc.hashKey (a : Alloc) : Nat := a.part * 2 ^ 32 + a.handle.toNat

/-- The 512 pseudo-channels of a group of 512 granules, one granule on each (spec 06 R151): the hash's choice, in the order of
the granules where the choice is no such order (log 16). -/
def hbmOrder (key group : Nat) : List Nat :=
  let l := (List.range 512).map (Config.hbmSlot key group)
  if (List.range 512).all l.contains then l else List.range 512

/-- The unit that serves a check unit of an allocation: tile, compute die, stack or channel (spec 06 R147, R151; 15 R395). -/
def Alloc.unitAt (a : Alloc) (sp : Span) (u : Nat) : Nat :=
  let g := a.granule u
  match a.home with
  | .tile => if a.spread then a.tile + g % (if sp.tiles = 0 then 1 else sp.tiles) else a.tile
  | .commons => (if a.spread then a.tile + 4 * (g % (if sp.clovers = 0 then 1 else sp.clovers)) else a.tile) / 16
  | .hbm => (hbmOrder a.hashKey (g / 512)).getD (g % 512) 0 / 64
  | .ddr => sp.channels.getD (Config.ddrSlot a.hashKey g % (if sp.channels.length = 0 then 1 else sp.channels.length)) 0

/-- The row of its bank or tile that a check unit lies in (log 16). -/
def Alloc.rowAt (a : Alloc) (u : Nat) : Nat := Config.bankRow a.hashKey u

/-- The source of a read from a unit of a home; `ue`: uncorrectable (spec 15 Table 15-1). -/
def readSource (h : Home) (unit : Nat) (ue : Bool) : Nat :=
  match h with
  | .tile => boolNat ue
  | .commons => 2 + boolNat ue
  | .hbm => 0x10 + 2 * unit + boolNat ue
  | .ddr => 0x28 + 2 * unit + boolNat ue

/-- The check units of `us` that bytes lo to hi - 1 touch. -/
def unitsHit (a : Alloc) (us : List Nat) (lo hi : Nat) : List Nat :=
  us.filter fun u => decide (u * checkUnit a.home < hi) && decide (lo < (u + 1) * checkUnit a.home)

/-- The checker of a home's writes (Table 15-13). -/
def homeChecker (h : Home) : Nat := match h with | .tile => 0 | .commons => 1 | .hbm => 3 | .ddr => 4

/-- How a unit reads whose check bits a mask inverted: 0 without error, 1 corrected, 2 uncorrectable (Table 6-7). Which DDR5
device holds a check bit is not published, so two inverted bits read corrected or detected; past the code's detection
anything may pass: there the outcome is free (log 37). -/
def maskOutcome (h : Home) (mask : W32) (use : Nat) : Nat :=
  let ones := fun (n : Nat) => (List.range n).countP (bitAt mask)
  let free := Config.freeCount 155 use
  match h with
  | .hbm => boolNat (field mask 15 0 != 0) + boolNat (field mask 31 16 != 0)
  | .ddr => if ones 32 ≤ 1 then ones 32 else if ones 32 = 2 then 1 + free % 2 else free % 3
  | _ => if ones 9 ≤ 2 then ones 9 else free % 3

def Alloc.struck (a : Alloc) (u outcome : Nat) : Alloc :=
  match outcome with
  | 0 => a
  | 1 => { a with corr := addOnce u a.corr }
  | _ => { a with uncorr := addOnce u a.uncorr }

/-- A write of a check unit that an armed injection selects stores damaged check bits (R402). -/
def State.strikeUnit (s : State) (p : Nat) (h : W32) (u : Nat) : State :=
  match s.contents p h with
  | none => s
  | some a =>
    if s.flt.selects (homeChecker a.home) (a.unitAt (s.span p) u) (some p) then
      (s.injected.modContents p h (·.struck u (maskOutcome a.home s.flt.injMask s.fresh))).useFresh
    else s

/-- The writes of a list of check units, in order. -/
def State.strike (s : State) (p : Nat) (h : W32) (us : List Nat) : State :=
  if s.flt.armed then us.foldl (fun s u => s.strikeUnit p h u) s else s

/-- The check units that byte ranges touch. -/
def Alloc.unitsOf (a : Alloc) (ranges : List (Nat × Nat)) : List Nat :=
  ranges.foldl (fun l (lo, hi) =>
    if hi ≤ lo then l
    else ((List.range ((hi - 1) / checkUnit a.home + 1 - lo / checkUnit a.home)).map (lo / checkUnit a.home + ·)).foldl
      (fun l u => addOnce u l) l) []

/-- Writes of n words of 64 bits of a tile's table storage: a later read of a damaged word arrives as a detection, since which
words an injection meets is not published (log 37). -/
def State.strikeTable (s : State) (p tile n : Nat) : State :=
  (List.range (if n < s.flt.injCount then n else s.flt.injCount)).foldl
    (fun s _ => if s.flt.selects 2 tile (some p) then s.injected else s) s

/-! ## The shadow of a tensor (spec 06 R163) -/

/-- The element of a shadow: w / s rounded once, to nearest even, within −7 to 7 (R163). -/
def shadowElem (w sc : W32) : BitVec 4 :=
  match (decode32 w).div (decode32 sc) with
  | .num neg n d =>
    let k := min (rneDiv n d) 7
    BitVec.ofInt 4 (if neg then -(k : Int) else k)
  | .inf neg => BitVec.ofInt 4 (if neg then -7 else 7)
  | .nan => 0#4

/-- One output channel's scale (R163). -/
def channelScale (ws : List W32) : W32 :=
  if ws.any fun w => !(decode32 w).isFinite then 0x7FC00000#32
  else
    let top := ws.foldl (fun m w => let a := w &&& 0x7FFFFFFF#32; if flt m a then a else m) 0#32
    if isZero top then one32 else fdiv top 0x40E00000#32

/-- The INT4 shadow of a tensor's contents (R163): elements in row-major order. -/
def Alloc.buildShadow (a : Alloc) : Shadow :=
  let scales := (List.range a.cols).map fun j => channelScale ((List.range a.rows).map fun i => a.value (i * a.cols + j))
  { scales := scales
    elems := (List.range a.elements).map fun k =>
      let sc := scales.getD (k % a.cols) one32
      if (decode32 sc).isFinite then shadowElem (a.value k) sc else 0#4
    uncorr := [] }

/-- A SHADOW4 tensor homed in DDR5 gets its shadow with every committing write. -/
def Alloc.reshadow (a : Alloc) : Alloc :=
  if a.shadow4 && a.home == .ddr then { a with shadow := some a.buildShadow } else a

end Sys2Proof.Machine
end

