-- ==== Sys2Proof/Machine/Wire.lean ====
section
/-!
DEFINITION. Benzel packets and sending flows (spec 14 R370-R378, R477): the CRC-32C, the header, the choice of a source link,
credits, sending and aborting.
-/
namespace Sys2Proof.Machine

/-! ## CRC-32C (R372) -/

/-- One bit of the reflected CRC of polynomial 0x1EDC6F41. -/
def crcBit (c : Nat) : Nat := if c % 2 = 1 then (c / 2) ^^^ 0x82F63B78 else c / 2

def crcByte (c : Nat) (b : Byte) : Nat := (List.range 8).foldl (fun c _ => crcBit c) (c ^^^ b.toNat)

def crc32c (bs : List Byte) : W32 := BitVec.ofNat 32 (bs.foldl crcByte 0xFFFFFFFF ^^^ 0xFFFFFFFF)

/-! ## The header (Tables 14-3, 14-4) -/

def tyData : Nat := 0
def tyAck : Nat := 1
def tyNak : Nat := 2
def tyCredit : Nat := 3
def tyCnp : Nat := 4
def tyAbort : Nat := 5
def tyColl : Nat := 6

/-- The end of a packet: module, partition, link. -/
structure End where
  module_ : Nat
  part : Nat
  link : Nat
deriving DecidableEq, Repr, Inhabited

def End.word (e : End) : W32 := BitVec.ofNat 32 (e.module_ + e.part * 2 ^ 16 + e.link * 2 ^ 21)
def endOf (w : W32) : End := { module_ := field w 13 0, part := field w 20 16, link := field w 25 21 }

/-- The eight words of a header. -/
def bzHeader (type : Nat) (retx last : Bool) (len : Nat) (src dst : End) (flow inc psn : Nat) (arg : W32) (off : Nat) : List W32 :=
  [ BitVec.ofNat 32 (1 + type * 16 + boolNat retx * 256 + boolNat last * 512 + len * 2 ^ 16), src.word, dst.word,
    BitVec.ofNat 32 (flow + inc % 2 ^ 16 * 2 ^ 16), BitVec.ofNat 32 psn, arg, BitVec.ofNat 32 off, BitVec.ofNat 32 (off / 2 ^ 32) ]

def State.incarnation (s : State) : Nat := s.mgt.bootCount.toNat % 2 ^ 16

/-- The payload limit (NET.FAB_CFG.MTU4K as the link took it). -/
def Link.limit (l : Link) : Nat := if bitAt l.effCfg 16 then 4096 else 1024

/-! ## Links and paths (R370) -/

/-- The links of a partition that are up, in increasing number. -/
def State.upLinks (s : State) (p : Nat) : List Nat :=
  match s.parts.find? (·.num == p) with
  | some q => ((s.net.links.filter fun e => q.fabric.toNat / 2 ^ e.1 % 2 == 1 && e.2.up).map (·.1))
  | none => []

/-- h: the CRC-32C of the destination module and partition, as the word that a header holds (log 38). -/
def destHash (m p : Nat) : Nat :=
  let w := m + p * 2 ^ 16
  (crc32c ((List.range 4).map fun i => BitVec.ofNat 8 (w / 256 ^ i))).toNat

/-- The source link of a flow: entry (h + f) mod n of the links that are up. -/
def State.sourceLink (s : State) (f : FlowId) : Option Nat :=
  let us := s.upLinks f.part
  us[(destHash f.dstModule f.dstPart + f.flow) % (if us.isEmpty then 1 else us.length)]?

/-- The next link in increasing cyclic order among those that are up (R375). -/
def State.nextLink (s : State) (p cur : Nat) : Option Nat :=
  let us := s.upLinks p
  (us.find? fun k => decide (cur < k)).or us.head?

def State.flow? (s : State) (f : FlowId) : Option SendFlow := s.net.flows.find? (·.id == f)
def State.modFlow (s : State) (f : FlowId) (g : SendFlow → SendFlow) : State :=
  s.modNet fun n => { n with flows := modWhere (·.id == f) g n.flows }

/-! ## Sending -/

def creditsOf (len : Nat) : Nat := if len ≤ 256 then 1 else (len + 255) / 256

def SendFlow.src (s : State) (f : SendFlow) : End := { module_ := s.net.moduleId, part := f.id.part, link := f.link }
def SendFlow.dst (f : SendFlow) : End := { module_ := f.id.dstModule, part := f.id.dstPart, link := f.dstLink }

/-- A frame leaves a fabric link: it ends low-power idle (R362). -/
def State.frameOut (s : State) (k : Nat) : State := s.modLink k fun l => { l with asleep := false, lastFrame := s.clk.localUs }

/-- The address of a link of a module, of the family and the base that a link took (R369); an IPv4 address in the low bits. -/
def Link.fabAddr (l : Link) (v6 : Bool) (module_ link : Nat) : BitVec 128 :=
  if v6 then BitVec.ofNat 128 (l.effPfx6.toNat * 2 ^ 64 + 32 * module_ + link) else BitVec.ofNat 128 ((l.effBase4.toNat + 32 * module_ + link) % 2 ^ 32)

/-- The UDP source port of a flow: the CRC-32C of destination module, destination partition and flow number, each as its word
of a header holds it (log 38). -/
def flowPort (hdr : List W32) : Nat :=
  let d := endOf (hdr.getD 2 0#32)
  0xC000 + (crc32c (wordsBytes [BitVec.ofNat 32 (d.module_ + d.part * 2 ^ 16), BitVec.ofNat 32 (field (hdr.getD 3 0#32) 15 0)])).toNat % 2 ^ 14

/-- The sum of RFC 1071 over octets, in 16-bit words. -/
def onesSum : List Byte → Nat
  | [] => 0
  | [a] => a.toNat * 256
  | a :: b :: r => a.toNat * 256 + b.toNat + onesSum r

def foldSum (n : Nat) : Nat := (List.range 4).foldl (fun n _ => n % 65536 + n / 65536) n

/-- The octets of a number, most significant first. -/
def netBytes (n v : Nat) : List Byte := (leBytes n v).reverse

/-- The UDP checksum that IPv6 requires: over the addresses, the length, the protocol, the ports and the content. -/
def udpSum (src dst : BitVec 128) (sport dport : Nat) (content : List Byte) : Nat :=
  let len := 8 + content.length
  let n := 0xFFFF - foldSum (onesSum (netBytes 16 src.toNat ++ netBytes 16 dst.toNat ++ netBytes 4 len ++ netBytes 4 17 ++
    netBytes 2 sport ++ netBytes 2 dport ++ netBytes 2 len ++ content))
  if n = 0 then 0xFFFF else n

/-- The packet types that carry data, and with them DSCP_DATA and ECT(0) (R367, Table 14-10). -/
def carriesData (type : Nat) : Bool := type == tyData || type == tyColl

/-- The datagram around a packet of a link: its content is the header, the payload and the CRC-32C (R367, R369, R371). -/
def State.datagram (s : State) (l : Link) (hdr : List W32) (content : List Byte) : Datagram :=
  let a := endOf (hdr.getD 1 0#32)
  let b := endOf (hdr.getD 2 0#32)
  let data := carriesData (field (hdr.getD 0 0#32) 7 4)
  let src := l.fabAddr s.net.fam6 a.module_ a.link
  let dst := l.fabAddr s.net.fam6 b.module_ b.link
  let dport := field l.effCfg 15 0
  { v6 := s.net.fam6, src := src, dst := dst, sport := flowPort hdr, dport := dport
    dscp := if data then field l.effCfg 22 17 else field l.effCfg 28 23, ect := data, dontFragment := !s.net.fam6, hops := 64
    checksum := if s.net.fam6 then udpSum src dst (flowPort hdr) dport content else 0, mac := l.mac }

/-- A packet leaves: datagram, header, payload, and the CRC-32C, which an injection changes (R372; 15 R402). -/
def State.emitPacket (s : State) (k : Nat) (hdr : List W32) (bs : List Byte) (flip : W32) : State :=
  let crc := crc32c (wordsBytes hdr ++ bs) ^^^ flip
  let d := ((s.link? k).map fun l => s.datagram l hdr (wordsBytes hdr ++ bs ++ wordBytes crc)).getD default
  (s.frameOut k).emit (.benzel k d hdr bs crc)

/-- The line rates, in kb/s (Table 14-2). -/
def lineRate : RateKey → Nat
  | .qp _ _ => 400000000
  | .path _ _ => 200000000

/-- A packet under a rate: the first, or the first after a second, starts at line rate (Table 14-2). -/
def State.noteSend (s : State) (k : RateKey) : State :=
  let us := s.clk.localUs
  s.modNet fun n =>
    if n.rates.any (·.key == k) then
      { n with rates := modWhere (·.key == k) (fun r =>
          if r.lastSend + 1000000 ≤ us then { r with kbps := lineRate k, lastSend := us, lastEvent := us } else { r with lastSend := us }) n.rates }
    else { n with rates := n.rates ++ [{ key := k, kbps := lineRate k, lastDec := 0, lastSend := us, lastEvent := us }] }

/-- Packets that a request or response of a length takes on a queue pair. -/
def Qp.packets (q : Qp) (len : Nat) : Nat := max 1 ((len + q.mtu - 1) / q.mtu)

/-! ## RoCEv2 messages (R363, R364, R366, R367, R369) -/

def HostPort.lossless (h : HostPort) : Bool := bitAt h.cfg 0
def HostPort.prio (h : HostPort) : Nat := field h.cfg 3 1

/-- The priority of the frames that a host port sends: the PCP of the tag it gives them, else bits [5:3] of their DSCP (R366). -/
def HostPort.sendPrio (h : HostPort) : Nat := if bitAt h.cfg 4 then h.prio else field h.cfg 15 13

/-- A pause holds back what the port sends. -/
def HostPort.holdsBack (h : HostPort) : Bool := h.pausedSince.isSome && h.sendPrio == h.prio

/-- The GID of a host port for a remote address: index 1, the IPv4-mapped form of its IPv4 address, for an address of that
form, else index 0 (R369). -/
def HostPort.gid (h : HostPort) (remote : BitVec 128) : BitVec 128 :=
  if remote.toNat / 2 ^ 32 = 0xFFFF then BitVec.ofNat 128 (0xFFFF * 2 ^ 32 + h.addr4.toNat)
  else BitVec.ofNat 128 (h.addr6hi.toNat * 2 ^ 64 + h.addr6lo.toNat)

/-- A message that brings data, which leaves ECN-capable (R367): a WRITE, or the data of a READ. -/
def RoceBody.carriesData : RoceBody → Bool
  | .request w => match w.work with | .read _ _ => false | _ => true
  | .data _ => true
  | _ => false

/-- The sequence number of a message: a request's own, else that of the request it answers. -/
def Qp.psnOf (q : Qp) : RoceBody → Nat
  | .request _ => q.sendPsn
  | .cnp => 0
  | _ => q.recvPsn

def HostPort.head (h : HostPort) (q : Qp) (b : RoceBody) : RoceHead :=
  { port := q.port, qpn := q.num, remoteQpn := q.remoteQpn, psn := q.psnOf b, src := h.gid q.remoteAddr, dst := q.remoteAddr
    dscp := field h.cfg 15 10, vlan := if bitAt h.cfg 4 then some (field h.cfg 27 16, h.prio) else none, ect := b.carriesData }

/-- A message of a queue pair leaves its host port, or waits there for the end of a pause; a port that is down sends nothing. -/
def State.sendRoce (s : State) (q : Qp) (b : RoceBody) : State :=
  match s.port? q.port with
  | none => s
  | some h =>
    if !h.up then s
    else if h.holdsBack then s.modPort q.port fun h => { h with waits := h.waits ++ [(h.head q b, b)] }
    else s.emit (.roce (h.head q b) b)

/-- What a pause held back leaves, in order. -/
def State.sendHeld (s : State) (p : Nat) : State :=
  match s.port? p with
  | none => s
  | some h => if h.holdsBack then s
    else h.waits.foldl (fun (s : State) x => s.emit (.roce x.1 x.2)) (s.modPort p fun h => { h with waits := [] })

/-- A request of a queue pair leaves, under its rate (R363, R367). -/
def State.postWork (s : State) (port qpn : Nat) (w : QpReq) : State :=
  match s.qp? port qpn with
  | none => s
  | some q =>
    (((s.modQp port qpn fun q => { q with work := q.work ++ [w], sendPsn := (q.sendPsn + q.packets w.len) % 2 ^ 24 }).noteSend
      (.qp port qpn))).sendRoce q (.request w)

/-- A packet of a flow leaves. -/
def State.emitSent (s : State) (f : SendFlow) (p : Sent) (retx : Bool) : State :=
  let hit := s.flt.selects 6 f.link (some f.id.part)
  let flip := if hit then s.flt.injMask else 0#32
  let s := if hit then s.injected else s
  let s := s.noteSend (.path f.link f.id.dstModule)
  let s := if retx then s.modNet fun n => { n with retx := sat64 (n.retx + 1) } else s
  s.emitPacket f.link (bzHeader (if p.coll then tyColl else tyData) retx p.last p.bytes.length (f.src s) f.dst f.id.flow
    s.incarnation p.psn (if p.coll then 0#32 else BitVec.ofNat 32 (p.tag % 2 ^ 24 + p.attempt % 256 * 2 ^ 24)) p.off) p.bytes flip

/-- A control packet of a flow leaves. -/
def State.emitControl (s : State) (f : SendFlow) (type psn : Nat) (arg : W32) : State :=
  s.emitPacket f.link (bzHeader type false false 0 (f.src s) f.dst f.id.flow s.incarnation psn arg 0) [] 0#32

/-- A request for the credits that the waiting packets need. -/
def State.requestCredits (s : State) (f : SendFlow) : State :=
  let need := f.unsent.foldl (fun n p => n + creditsOf p.bytes.length) 0
  s.emitControl f tyCredit 0 (BitVec.ofNat 32 (if need > 0xFFFF then 0xFFFF else need))

/-- Sends waiting packets while the path's credits last (R376). A packet below the first PSN never sent is a retransmission. -/
def sendReady (s : State) (f : FlowId) : Nat → State
  | 0 => s
  | n + 1 =>
    match s.flow? f with
    | none => s
    | some w =>
      match w.unsent with
      | [] => s
      | p :: r =>
        let k := creditsOf p.bytes.length
        if w.stuck.isSome || decide (w.credits < k) then s
        else
          let p := { p with psn := w.next }
          let fresh := w.next == w.top
          let w' := { w with carried := match p.cmd with
                               | some c => if p.coll then w.carried else addOnce (c, p.tag, p.attempt) w.carried
                               | none => w.carried
                             next := (w.next + 1) % 2 ^ 32, top := if fresh then (w.next + 1) % 2 ^ 32 else w.top, unsent := r, unacked := w.unacked ++ [p], credits := w.credits - k
                             progress := if w.unacked.isEmpty then s.clk.localUs else w.progress, lastUse := s.clk.localUs }
          sendReady ((s.modFlow f fun _ => w').emitSent w p !fresh) f n

/-- A new flow, on the source link that R370 picks; without a link up it waits for one. -/
def State.openFlow (s : State) (f : FlowId) : State :=
  let l := s.sourceLink f
  s.modNet fun n => { n with flows := n.flows ++ [{
    id := f, next := 0, top := 0, unacked := [], unsent := [], link := l.getD 0, dstLink := 0, credits := 0, rto := field n.bzRto 15 0,
    expiries := 0, progress := s.clk.localUs, lastUse := s.clk.localUs, stuck := if l.isSome then none else some s.clk.localUs, carried := [] }] }

/-- The flows from a partition to a destination. -/
def State.flowsTo (s : State) (p m q : Nat) : List SendFlow :=
  s.net.flows.filter fun f => f.id.part == p && f.id.dstModule == m && f.id.dstPart == q

/-- Opens flows until there is one for each link that is up (R477), with the lowest numbers that are free. -/
def State.openFlows (s : State) (p m q : Nat) : Nat → State
  | 0 => s
  | n + 1 =>
    if (s.flowsTo p m q).length < max 1 (s.upLinks p).length then
      let used := (s.net.flows.filter (·.id.part == p)).map (·.id.flow)
      match (List.range (used.length + 1)).find? fun k => !used.contains k with
      | some k => State.openFlows (s.openFlow { part := p, dstModule := m, dstPart := q, flow := k }) p m q n
      | none => s
    else s

/-- The packets of a message. -/
def messagePackets (limit : Nat) (tag attempt : Nat) (coll : Bool) (c : Option CmdId) (bs : List Byte) : List Sent :=
  let n := if bs.length = 0 then 1 else (bs.length + limit - 1) / limit
  (List.range n).map fun i =>
    { psn := 0, tag := tag, attempt := attempt, coll := coll, cmd := c, off := i * limit, last := i + 1 == n
      bytes := (bs.drop (i * limit)).take limit }

/-- Flows of a transfer take its messages in turn: the one with the fewest packets so far. -/
def State.pickFlow (s : State) (p m q : Nat) : Option FlowId :=
  (minBy (fun f : SendFlow => f.next + f.unsent.length) (s.flowsTo p m q)).map (·.id)

/-- Sends a message whole on one flow to a partition of another module; within the module nothing crosses a link (R24). -/
def State.sendMessage (s : State) (p m q tag attempt : Nat) (coll : Bool) (c : Option CmdId) (bs : List Byte) : State :=
  if m = s.net.moduleId then s
  else
    let s := s.openFlows p m q 32
    match s.pickFlow p m q with
    | none => s
    | some f =>
      let limit := match (s.flow? f).bind fun w => s.link? w.link with
        | some l => l.limit
        | none => 1024
      let s := s.modFlow f fun w => { w with unsent := w.unsent ++ messagePackets limit tag attempt coll c bs }
      match s.flow? f with
      | none => s
      | some w =>
        let s := if w.stuck.isSome then s else s.requestCredits w
        sendReady s f w.unsent.length

/-- A command whose attempt ends drops its packets that wait, and sends ABORT on each flow that carried the attempt
(R378). -/
def State.abortData (s : State) (p : Nat) (c : CmdId) : State :=
  s.net.flows.foldl (fun (s : State) f =>
    if f.id.part == p then
      (f.carried.filter (·.1 == c)).foldl (fun (s : State) x =>
          s.emitControl f tyAbort 0 (BitVec.ofNat 32 (x.2.1 % 2 ^ 24 + x.2.2 % 256 * 2 ^ 24)))
        (s.modFlow f.id fun w => { w with
          unsent := w.unsent.filter (fun x => x.coll || x.cmd != some c), carried := w.carried.filter (·.1 != c) })
    else s) s

/-- A command that committed sends no ABORT. -/
def State.forgetSent (s : State) (c : CmdId) : State :=
  s.modNet fun n => { n with flows := n.flows.map fun f => { f with carried := f.carried.filter (·.1 != c) } }

/-- Packets of a command that have not been acknowledged. -/
def State.outstanding (s : State) (p : Nat) (c : CmdId) : Bool :=
  s.net.flows.any fun f => f.id.part == p && (f.unacked ++ f.unsent).any fun x => x.cmd == some c

end Sys2Proof.Machine
end

