-- ==== Sys2Proof/Machine/Ops.lean ====
section
/-!
DEFINITION. The named operations over the state that the meanings share: replies, completing and killing commands,
the contents of handles, fencing and the safe state.
-/
namespace Sys2Proof.Machine

/-! ## Words and codes -/

def stOK : Nat := 0
def stKILLED : Nat := 1
def stTIMEOUT : Nat := 2
def stSCALE_RANGE : Nat := 3
def stUNCORRECTABLE : Nat := 4
def stBUSY_DEFERRED : Nat := 5
def stALREADY_DONE : Nat := 6
def stEPOCH_INCOMPLETE : Nat := 7
def stSEM_REVOKED : Nat := 8
def stMIXED_STEP : Nat := 9
def stSHARD_MISSING : Nat := 10
def stUNSUPPORTED : Nat := 11
def stBAD_PACKET : Nat := 12
def stNO_RESOURCE : Nat := 13

def noIndex : W32 := 0xFFFFFFFF#32

/-- A result with a status and nothing else. -/
def Result.bare (st : Nat) : Result :=
  { status := st, detail := 0#32, aux0 := 0#32, aux1 := 0#32, index := noIndex, writes := [], gens := none,
    eff := .none, always := false }

/-- BAD_PACKET naming a byte offset of the packet (spec 11 R287). -/
def Result.bad (off : Nat) : Result := { Result.bare stBAD_PACKET with index := BitVec.ofNat 32 off }

/-- BAD_PACKET for data the packet points to, or for the state of the module (spec 11 R287). -/
def Result.badState : Result := Result.bare stBAD_PACKET

def Result.ok (e : Eff) : Result := { Result.bare stOK with eff := e }
def Result.okDetail (d : W32) : Result := { Result.bare stOK with detail := d }

/-! ## Replies (spec 11 R287, R288) -/

/-- The eight words of a reply. -/
def replyWords (c : Cmd) (r : Result) (dep : Bool) (us : Nat) : List W32 :=
  [ BitVec.ofNat 32 (c.seq + c.id.queue * 2 ^ 24),
    BitVec.ofNat 32 (r.status + c.opcode * 2 ^ 16),
    r.detail, r.aux0, r.aux1, r.index, BitVec.ofNat 32 us,
    BitVec.ofNat 32 ((if c.attempts > 255 then 255 else c.attempts) + boolNat dep * 256) ]

def Queue.ringLog2 (q : Queue) : Nat := field q.rrCfg 31 27
def Queue.ringPort (q : Queue) : Nat := field q.rrCfg 25 24
def Queue.ringQpn (q : Queue) : Nat := field q.rrCfg 23 0
def Queue.ringOk (q : Queue) : Bool := decide (6 ≤ q.ringLog2) && decide (q.ringLog2 ≤ 16)

/-- Writes a reply into its queue's reply ring over the queue pair the ring names; it is lost where that queue pair is not connected
or in the error state (spec 14 R365). -/
def State.postReply (s : State) (c : Cmd) (words : List W32) : State :=
  match s.queue? c.id.iface c.id.queue with
  | none => s
  | some q =>
    let addr := q.rrAddr.toNat + 32 * (q.rrWr.toNat % 2 ^ q.ringLog2)
    let s := s.modQueue c.id.iface c.id.queue fun q => { q with rrWr := q.rrWr + 1 }
    if ((s.qp? q.ringPort q.ringQpn).map fun p => p.ready && !p.error).getD false then
      (s.postWork q.ringPort q.ringQpn { work := .reply c.id, addr := addr, rkey := q.rrKey, len := 32, bytes := wordsBytes words }).emit
        (.reply { iface := c.id.iface, queue := c.id.queue, words := words })
    else s

/-- SIGNAL at completion (spec 11 Table 11-1, R300). -/
def State.signal (s : State) (c : Cmd) (status : Nat) : State :=
  if bitAt c.flags 2 && (bitAt c.flags 3 || status == stOK || status == stALREADY_DONE) then
    s.addEvent c.id.iface c.event 1 else s

/-- Keeps the last 1,024 completions of a queue (spec 11 R284). -/
def Queue.remember (q : Queue) (d : Done) : Queue := { q with done := (q.done ++ [d]).drop (q.done.length + 1 - 1024) }

/-- RETURN, ADVANTAGE and VALUE of a record after a scan that did not commit: undefined (spec 08 R217, log 17). -/
def ERec.spoil (use : Nat) (r : ERec) : ERec :=
  { r with value := (Config.freeWord 0 (3 * use)).truncate 16, ret := Config.freeWord 0 (3 * use + 1),
           adv := Config.freeWord 0 (3 * use + 2) }

/-- A scan of a closed trajectory ended without its commit: its computed fields are undefined. -/
def Traj.abandon (use : Nat) (t : Traj) : Traj :=
  if t.closed then
    { t with recs := ((List.range t.recs.length).zip t.recs).map fun (k, r) => r.spoil (use * 2 ^ 32 + k) }
  else t

/-- A command that holds trajectories of a ring for its scan ended without commit. -/
def Ring.abandon (g : Ring) (c : CmdId) (use : Nat) : Ring :=
  { g with trajs := modWhere (·.holder == some c) (Traj.abandon use) g.trajs }

/-- A command lets go of the trajectories it holds or claims; claimed ones keep their places (spec 08 R218, R221). -/
def Ring.unhold (g : Ring) (c : CmdId) : Ring :=
  { g with trajs := modWhere (·.holder == some c) (fun t => { t with holder := none }) g.trajs
           queue := modWhere (·.claim == some c) (fun t => { t with claim := none }) g.queue }

/-- A collective: GROUP_ID, q, and whether it is a gather (spec 14 R379, R382). -/
def Coll.key (x : Coll) : W32 × W32 × Bool := (x.groupId, x.q, x.gather)
def msgKey (m : CollMsg) : W32 × W32 × Bool := (m.groupId, m.q, m.kind == 2)

/-- A command's collectives end with it; what still comes for them is discarded (spec 14 R382). -/
def State.dropColls (s : State) (c : CmdId) : State :=
  s.modPart (s.cmdPart c) fun q => { q with
    colls := q.colls.filter (·.cmd != c), shut := q.shut ++ ((q.colls.filter (·.cmd == c)).map (·.key)) }

/-- A command's queue-pair reads are dropped. -/
def State.dropReads (s : State) (c : CmdId) : State :=
  s.modNet fun n => { n with qps := n.qps.map fun q => { q with work := q.work.filter fun w =>
      match w.work with | .read d _ => d != c | _ => true } }

/-- Drops what an attempt has in flight: its queue-pair reads, and its packets with an ABORT on each flow (spec 12 R322,
14 R378). -/
def State.dropTransfers (s : State) (c : CmdId) : State := (s.abortData (s.cmdPart c) c).dropReads c

/-- A scan that ended without commit leaves undefined fields behind. -/
def State.abandonScan (s : State) (c : CmdId) : State :=
  (s.modPart (s.cmdPart c) fun q => { q with rings := q.rings.map (·.abandon c s.fresh) }).useFresh

/-- A command's reserve pages: kept by its commit until they drain, returned otherwise (spec 13 R342). -/
def Ckp.letGo (k : Ckp) (c : CmdId) (ok : Bool) : Ckp :=
  { k with drain := k.drain.map fun d =>
      { d with reserve := if ok then modWhere (·.owner == some c) (fun h => { h with owner := none }) d.reserve
                          else d.reserve.filter (·.owner != some c) } }

/-- How long a command has waited for reserve pages; STALL_US counts it when the wait ends (spec 13 R359). -/
def State.stalled (s : State) (c : CmdId) : Nat := ((s.cmd? c).bind (·.stallSince)).elim 0 (s.clk.localUs - ·)

def State.letGo (s : State) (c : CmdId) (ok : Bool) : State :=
  s.modPart (s.cmdPart c) fun q => { q with ckp := { q.ckp.letGo c ok with stallUs := sat64 (q.ckp.stallUs + s.stalled c) } }

/-! ## Layer plans and their schedule (spec 06 R154 to R162) -/

/-- The opcodes that traverse the layer plan; `stage` is the index their traversal has reached (R155). -/
def traverses (op : Nat) : Bool := op == 0x0403 || op == 0x0405 || op == 0x0502

/-- The indices of a plan whose entries are homed in DDR5. -/
def ddrIndices (as : List Alloc) (hs : List W32) : List Nat :=
  ((List.range hs.length).zip hs).filterMap fun (i, h) =>
    if as.any (fun a => a.handle == h && a.home == .ddr) then some i else none

/-- The DDR5-homed entries that the staging slots hold next: P of them, in cyclic order from where the schedule stands
(R155, R157). -/
def LayerPlan.wanted (ds : List Nat) (l : LayerPlan) : List Nat :=
  ((ds.filter fun i => decide (l.at_ ≤ i)) ++ ds.filter fun i => decide (i < l.at_)).take l.p

/-- The slots hold the entries wanted next; a copy that a slot has stays (R157). -/
def LayerPlan.refill (as : List Alloc) (l : LayerPlan) : LayerPlan :=
  let ws := l.wanted (ddrIndices as l.handles)
  { l with slots := ws.map fun i => (i, l.slots.contains (i, true)), bad := l.bad.filter ws.contains, halted := l.halted.filter ws.contains }

/-- A traversal has come to entry k: the uses of the entries before it have ended, and their slots are free (R157). -/
def LayerPlan.arrive (as : List Alloc) (k : Nat) (l : LayerPlan) : LayerPlan :=
  if l.at_ ≤ k then
    let gone := fun (i : Nat) => decide (l.at_ ≤ i) && decide (i < k)
    { l with at_ := if k < l.handles.length then k else 0, slots := l.slots.filter fun x => !gone x.1
             bad := l.bad.filter fun i => !gone i, halted := l.halted.filter fun i => !gone i }.refill as
  else l

/-- The window holds entry k and the W that follow it, loaded in order as far as their copies are there: a DDR5-homed entry
from its staging copy, any other from its home; an entry computed from its shadow is passed over (R156). How long a load
takes is timing (log 26). -/
def LayerPlan.load (as : List Alloc) (k : Nat) (l : LayerPlan) : LayerPlan :=
  let ds := ddrIndices as l.handles
  let next := ((List.range (l.w + 1)).map (k + ·)).filter fun i => decide (i < l.handles.length) && !l.halted.contains i
  { l with window := next.takeWhile fun i => l.window.contains i || !ds.contains i || l.slots.contains (i, true) }

/-- Discards the staging copies and window copies of a handle (R158). -/
def LayerPlan.discard (h : W32) (l : LayerPlan) : LayerPlan :=
  { l with slots := l.slots.map fun (i, d) => (i, d && l.handles.getD i 0#32 != h)
           window := l.window.filter fun i => l.handles.getD i 0#32 != h
           bad := l.bad.filter fun i => l.handles.getD i 0#32 != h }

def Ctx.modPlans (x : Ctx) (f : LayerPlan → LayerPlan) : Ctx := { x with plan := x.plan.map f, oldPlans := x.oldPlans.map f }

/-- Discards the copies of a handle in every plan of a partition (R158). -/
def State.unstage (s : State) (p : Nat) (h : W32) : State :=
  { s with ctxs := modWhere (·.part == p) (·.modPlans (·.discard h)) s.ctxs }

/-- The plan that a command bound at its first dispatch (R155). -/
def Cmd.plan (c : Cmd) : Option LayerPlan := (c.first.bind (·.ctx)).bind (·.plan)

/-- The context whose plan, seed and mode a command bound: its own, and for a batch step or a prefill the serving context
(spec 07 R175). -/
def Cmd.boundCtx (c : Cmd) : Nat := ((c.first.bind (·.ctx)).map (·.id)).getD c.ctx

/-- The schedule of the plan that a command bound, as it stands. -/
def State.schedule (s : State) (c : Cmd) : Option LayerPlan :=
  c.plan.bind fun l => (s.ctx? c.boundCtx).bind fun x => (x.plan.toList ++ x.oldPlans).find? (·.serial == l.serial)

def State.modSchedule (s : State) (c : Cmd) (f : LayerPlan → LayerPlan) : State :=
  match c.plan with
  | none => s
  | some l => s.modCtx c.boundCtx (·.modPlans fun m => if m.serial = l.serial then f m else m)

/-- The next DDR5-homed entry that the traversal of a command has not passed; `stage` is the index it has reached. -/
def Cmd.nextEntry (c : Cmd) : Option Nat :=
  match c.first, c.plan with
  | some v, some l => (ddrIndices v.allocs l.handles).find? fun i => decide (c.stage ≤ i)
  | _, _ => none

/-- The time that a command has waited for a staging copy counts in TIER.STAGE_WAIT however the wait ends (R173). -/
def State.endWait (s : State) (c : Cmd) : State :=
  match c.waitSince with
  | none => s
  | some t => s.modIface c.id.iface fun f => { f with stageWait := satNat32 (f.stageWait + (s.clk.localUs - t)) }

/-- Another command in flight has bound the same plan. -/
def State.planShared (s : State) (c : Cmd) (serial : Nat) : Bool :=
  s.cmds.any fun k => k.id != c.id && k.boundCtx == c.boundCtx && (k.plan.map (·.serial)) == some serial

/-- An attempt at a traversal ends: the next one begins with entry 0, or the schedule follows another command that is
traversing the plan; what met an uncorrectable read is fetched again (R157, R161, R162). -/
def State.endTraversal (s : State) (c : Cmd) : State :=
  match (if traverses c.opcode then c.plan else none) with
  | none => s
  | some l =>
    let other := s.cmds.find? fun k => k.id != c.id && k.boundCtx == c.boundCtx && k.phase == .dispatched && (k.plan.map (·.serial)) == some l.serial
    (s.endWait c).modSchedule c fun m =>
      { m with at_ := ((other.map fun k : Cmd => k.stage).getD 0) % (if m.handles.length = 0 then 1 else m.handles.length), bad := [], halted := [] }.refill
        (s.partAllocs (s.cmdPart c.id))

/-- A plan that was replaced goes once no command binds it. -/
def State.dropPlan (s : State) (c : Cmd) : State :=
  match c.plan with
  | none => s
  | some l => if s.planShared c l.serial then s else s.modCtx c.boundCtx fun x => { x with oldPlans := x.oldPlans.filter (·.serial != l.serial) }

/-! ## Scoreboards (spec 02 R51 to R53; 01 R29) -/

/-- The entries of a tile's scoreboard (R53). -/
def boardSize : Nat := 64

/-- Items that the command processor holds take the entries that are free (R53). -/
def Board.topUp (b : Board) : Board :=
  let n := boardSize - b.entries.length
  { entries := b.entries ++ b.held.take n, held := b.held.drop n }

/-- The items of a command leave a board: its work is done, or what they held is lost (R29). -/
def Board.forget (b : Board) (c : CmdId) : Board :=
  Board.topUp { entries := b.entries.filter (·.cmd != c), held := b.held.filter (·.cmd != c) }

def State.dropItems (s : State) (c : CmdId) : State :=
  { s with boards := (s.boards.map fun (t, b) => (t, b.forget c)).filter fun b => !(b.2.entries.isEmpty && b.2.held.isEmpty) }

/-- A command leaves the queues of the shared engines (spec 01 R17). -/
def State.leaveQueues (s : State) (c : CmdId) : State :=
  { s with shared := { s.shared with scan := s.shared.scan.filter (· != c), loads := s.shared.loads.filter (· != c) } }

/-- A completed command lets go of all it holds. A claim may lie in a ring of any partition of the module. -/
def State.release (s : State) (c : CmdId) (ok : Bool) : State :=
  let scan := match s.cmd? c with | some k => k.opcode == 0x0703 && decide (0 < k.attempts) && !ok | none => false
  let s := if scan then s.abandonScan c else s
  let s := match s.cmd? c with | some k => (s.endTraversal k).dropPlan k | none => s
  let s := (s.dropItems c).leaveQueues c
  let s := ((if ok then (s.forgetSent c).dropReads c else s.dropTransfers c).dropColls c).letGo c ok
  { s with parts := s.parts.map fun q => { q with rings := q.rings.map (·.unhold c) } }

/-! ## Power state and accounting that follow the work -/

/-- Run while a tile or engine works for a command, else Ready (spec 16 Table 16-1); other states stay. -/
def State.settle (s : State) : State :=
  if s.pwr.state.toNat ≤ 1 then
    s.modPwr fun p => { p with state := if s.cmds.any (·.phase == .dispatched) then 0#3 else 1#3 }
  else s

/-- The module's work ends or begins: idleness counts from now (spec 16 R414). -/
def State.touch (s : State) : State := s.modPwr fun p => { p with idleSince := s.clk.localUs }

/-- A change of power state raises an in-band interrupt, except between Run and Ready (spec 17 R449). -/
def State.setPower (s : State) (code : BitVec 3) : State :=
  (s.modPwr fun p => { p with state := code, idleSince := s.clk.localUs }).emit (.ibi 0x02#8)

/-- A doorbell, a packet, a timer or a management request wakes the module from Doze (spec 16 R414). -/
def State.wake (s : State) : State := if s.phase == .running && s.pwr.state == 2#3 then s.setPower 1#3 else s

/-- Counts a command's work: engine cycles, bytes and energy, for which the spec gives no figures (log 27). -/
def Acct.add (a : Acct) (use : Nat) : Acct :=
  { eng := (List.range 8).map fun e => (e, sat64 (Tab.get a.eng e 0 + Config.freeCount (100 + e) use))
    bytes := (List.range 8).map fun k => (k, sat64 (Tab.get a.bytes k 0 + Config.freeCount (108 + k) use))
    energy := sat64 (a.energy + Config.freeCount 116 use) }

/-- Charges work to a context and to its interface. -/
def State.chargeTo (s : State) (x i : Nat) : State :=
  ((s.modCtx x fun x => { x with acct := x.acct.add s.fresh }).modIface i fun f => { f with acct := f.acct.add s.fresh }).useFresh

/-- Charges a dispatched command that completes to its context and its interface (spec 12 R329). -/
def State.charge (s : State) (c : Cmd) : State := if c.attempts = 0 then s else s.chargeTo c.ctx c.id.iface

/-- Completes a command: it leaves the commands in flight, its status is remembered, its reply is written, and it
signals (spec 11 R287 to R289, R300). -/
def State.finish (s : State) (c : Cmd) (r : Result) (dep : Bool) : State :=
  let s := s.release c.id (r.status == stOK)
  let s := { s with cmds := s.cmds.filter (·.id != c.id) }
  let s := s.modQueue c.id.iface c.id.queue (·.remember { seq := c.seq, bell := c.bell, ord := c.id.ord, status := r.status })
  let s := (s.charge c).settle.touch
  let s := if r.status = stSCALE_RANGE then
    s.modIface c.id.iface fun f => { f with scaleFails := satNat32 (f.scaleFails + 1) } else s
  (s.postReply c (replyWords c r dep s.clk.localUs)).signal c r.status

/-- The status with which the command that a dependency names completed, if it has and it is remembered. -/
def State.doneStatus (s : State) (i q ord : Nat) : Option Nat :=
  (s.queue? i q).bind fun qu => (qu.done.find? (·.ord == ord)).map (·.status)

def statusGood (st : Nat) : Bool := st == stOK || st == stALREADY_DONE

/-- The lowest dependency of kind 0x1 whose command completed with another status (spec 11 R296). -/
def State.failedDep (s : State) (c : Cmd) : Option (Nat × Nat) :=
  (c.deps.filterMap fun d =>
    if d.kind = .ok then
      match s.doneStatus c.id.iface d.queue d.ord with
      | some st => if statusGood st then none else some (d.idx, st)
      | none => none
    else none).head?

/-- Completes, without dispatch, every fetched command whose dependency of kind 0x1 failed, and those that depend on
them (spec 11 R296). -/
def State.cascade (fuel : Nat) (s : State) : State :=
  match fuel with
  | 0 => s
  | k + 1 =>
    match s.cmds.find? fun c => c.phase == .fetched && (s.failedDep c).isSome with
    | none => s
    | some c =>
      match s.failedDep c with
      | none => s
      | some (i, st) => State.cascade k (s.finish c { Result.bare st with index := BitVec.ofNat 32 i } true)

/-- A completion that changes no committed state, with the failures it passes on. -/
def State.complete (s : State) (c : Cmd) (r : Result) : State :=
  let s := s.finish c r false
  s.cascade s.cmds.length

/-! ## A load that ends before its bud is READY (spec 10 R268, R269, R274) -/

/-- Bytes written into a buffer from an offset, as a raw write (spec 11 R478): fresh check bits, a new shadow, and no staging
or window copy of what was there (06 R158, R163, R166). -/
def State.writeBuffer (s : State) (p : Nat) (h : W32) (off : Nat) (bs : List Byte) : State :=
  let us := match s.alloc? p h with
    | some a => a.unitsOf [(off, off + (bs.take (a.size - off)).length)]
    | none => []
  ((s.modContents p h fun a =>
    let bs := bs.take (a.size - off)
    { a with mem := Mem.putBytes a.mem a.dflt off bs, stats := Stats.zero, version := a.version + 1,
             uncorr := a.uncorr.filter fun u => !us.contains u, corr := a.corr.filter fun u => !us.contains u }.reshadow).strike p h us).unstage p h

/-- Runs of consecutive rows, as (first, count), of the rows below n that `gone` selects. -/
def runsOf (gone : Nat → Bool) (n : Nat) : List (Nat × Nat) :=
  ((List.range n).foldl (fun (rs : List (Nat × Nat)) i =>
    if gone i then
      match rs with
      | (a, k) :: t => if a + k = i then (a, k + 1) :: t else (i, 1) :: rs
      | [] => [(i, 1)]
    else rs) []).reverse

/-- The report entries of Table 10-4 for the rows that have not arrived. -/
def reportEntries (m : List MapEntry) (arrived : List (Nat × Nat)) : List (List W32) :=
  ((List.range m.length).zip m).flatMap fun (i, e) =>
    (runsOf (fun r => !arrived.contains (i, r)) e.rowCnt).map fun (lo, k) =>
      [e.tensor, BitVec.ofNat 32 (e.rowLo + lo), BitVec.ofNat 32 k, BitVec.ofNat 32 i]

/-- The bud after a load that stopped (Table 10-5). -/
def BudSt.stopped : BudSt → BudSt
  | .waitArea => .free
  | .loading => .partial_
  | b => b

/-- The rows that a load of an epoch has: of the bud once it has taken an area (R268), or, in a LEARN partition, of its
provisional copy. -/
def Part.loadRows (p : Part) (c : CmdId) (begun : Bool) (epoch : W32) : List (Nat × Nat) :=
  if p.role = 2 then ((p.epo.load.filter (·.cmd == c)).map (·.done)).getD []
  else if begun ∧ p.epo.bud ≠ .free ∧ p.epo.bud ≠ .waitArea ∧ p.epo.budEpoch = epoch then p.epo.arrived else []

/-- The epoch and the report buffer of a BUD_LOAD packet: its parameters 0 and 4 (spec 10 R261). -/
def Cmd.loadEpoch (c : Cmd) : W32 := c.words.getD 16 0#32
def Cmd.loadReport (c : Cmd) : W32 := c.words.getD 24 0#32

/-- A load stops: the bud keeps its rows, and a load that has been dispatched writes its report (R268). Answers the number of
report entries. -/
def State.stopLoad (s : State) (c : Cmd) : State × W32 :=
  match s.part? (s.cmdPart c.id) with
  | none => (s, 0#32)
  | some p =>
    if c.opcode = 0x0603 ∧ 0 < c.attempts then
      let es := reportEntries p.epo.map (p.loadRows c.id c.begun c.loadEpoch)
      let mine := (p.epo.load.map (·.cmd == c.id)).getD false
      let s := if mine then s.modPart p.num fun q => { q with epo := { q.epo with load := none, bud := q.epo.bud.stopped } } else s
      (s.writeBuffer p.num c.loadReport 0 (es.flatMap wordsBytes), BitVec.ofNat 32 es.length)
    else (s, 0#32)

/-- Completes a command with a status that ends it before it commits: a load stops and reports. -/
def State.endWith (s : State) (c : Cmd) (r : Result) : State :=
  let (s, n) := s.stopLoad c
  s.finish c (if c.opcode = 0x0603 then { r with detail := n } else r) false

/-! ## Kills (spec 11 R297, R298; 12 R320) -/

/-- The command has been dispatched; a pre-emption does not undo that. -/
def Cmd.started (c : Cmd) : Bool := decide (0 < c.attempts)

/-- An ATOMIC command past its first write: it is not killed. -/
def Cmd.pastWrite (c : Cmd) : Bool := c.atomic && (match c.phase with | .ready _ => true | _ => false)

/-- Completes a command with KILLED. -/
def State.kill (s : State) (c : CmdId) : State :=
  match s.cmd? c with
  | some k => if k.pastWrite then s else s.endWith k (Result.bare stKILLED)
  | none => s

def State.killAll (s : State) : List CmdId → State
  | [] => s.cascade s.cmds.length
  | c :: r => State.killAll (s.kill c) r

/-- The opcodes whose phases begin afresh when they run again; a load keeps the sources it skips (spec 10 R264). -/
def restarts (op : Nat) : Bool := traverses op || op == 0x0901 || op == 0x0903

/-- Pre-emption: the command has no status and is dispatched again later; a traversal begins afresh (spec 06 R161). A batch
step or a prefill that has begun keeps the copy it resolved (spec 10 R252). -/
def Cmd.preempt (c : Cmd) : Cmd :=
  match c.phase with
  | .fetched => c
  | _ => if c.pastWrite then c else { c with
    phase := .fetched, view := none, inserted := false, late := [], waitSince := none, reads := []
    batch := c.batch.map fun b => { b with outs := [], skips := [] }, begun := c.begun && c.opcode != 0x0403
    stallSince := none, needs := [], failedReads := if c.opcode = 0x0603 then c.failedReads else []
    stage := if restarts c.opcode then 0 else c.stage }

/-- Pre-empts a running command: what it had in flight is dropped (spec 12 R322) and its work counts as waste
(spec 12 R329). -/
def State.preempt (s : State) (c : CmdId) : State :=
  match s.cmd? c with
  | some k =>
    if k.phase = .fetched || k.pastWrite then s
    else
      let s := s.useFresh
      let s := (((s.stopLoad k).1.dropTransfers c).letGo c false).touch
      let s := (((s.endTraversal k).dropItems c).leaveQueues c).modCmd c Cmd.preempt
      (s.modPart (s.cmdPart c) fun p => { p with waste := sat64 (p.waste + Config.freeCount 1 s.fresh) }).settle
  | none => s

def State.preemptAll (s : State) : List CmdId → State
  | [] => s
  | c :: r => State.preemptAll (s.preempt c) r

/-! ## Fencing and the safe state (spec 15 R396, R397) -/

/-- LAST_FAIL codes (spec 13 Table 13-9). -/
def failWrite : Nat := 1
def failRead : Nat := 2
def failReset : Nat := 3

/-- The counts of a drain that failed (spec 13 R346). -/
def Ckp.noteFail (k : Ckp) (code : Nat) : Ckp :=
  { k with drain := none, failed := satNat32 (k.failed + 1), lastFail := code }

def QpReq.ofDrain (p : Nat) (w : QpReq) : Bool := match w.work with | .drain n => n == p | _ => false

/-- The work of a partition's drain is charged to the context that issued the CKP_CONFIG (spec 13 R344; 12 R328). -/
def State.chargeDrain (s : State) (p : Nat) : State :=
  match (s.part? p).bind fun q => (s.ctx? q.ckp.ctx).filter (·.iface == q.ckp.iface) with
  | none => s
  | some x => s.chargeTo x.id x.iface

/-- A drain of a partition fails (spec 13 R346): its reserve is freed, its writes and its token are dropped. -/
def State.failDrain (s : State) (p code : Nat) : State :=
  match (s.part? p).bind (·.ckp.drain) with
  | none => s
  | some _ =>
    let s := (s.chargeDrain p).modPart p fun q => { q with ckp := q.ckp.noteFail code }
    let s := s.modNet fun n => { n with qps := n.qps.map fun u => { u with work := u.work.filter fun w => !w.ofDrain p } }
    let s := s.modMaint fun m =>
      { m with held := m.held.filter (fun t => t.use != .drain p)
               waiting := m.waiting.filter (fun t => t.use != .drain p) }
    s.record { source := 0x5C, inst := 0, part := some p, info := 0, cmd := none }

/-- The proxy grant ends with its interface (spec 17 R448). -/
def State.endProxy (s : State) (gone : Nat → Bool) : State :=
  match s.mgt.proxy with
  | some (i, _) => if gone i then s.modMgt (fun m => { m with proxy := none, proxyKey := 0#32, mailbox := [] }) else s
  | none => s

/-- Links of a partition. -/
def Part.ownsLink (p : Part) (k : Nat) : Bool := bitAt p.fabric k

/-- A link brought to idle. -/
def Link.idle (l : Link) : Link := { l with up := false, training := false, lpi := false, asleep := false, mac := none }

/-- A fence, whose drain's LAST_FAIL the spec does not give (log 36): fetching stops, the fetched commands are killed, the links idle, and the drain fails. -/
def State.fence (s : State) (p : Nat) : State :=
  match s.part? p with
  | none => s
  | some q =>
    if q.fenced then s
    else
      let s := s.modPart p fun q => { q with fenced := true }
      let s := s.killAll ((s.partCmds p).map (·.id))
      let s := s.modNet fun n => { n with links := n.links.map fun e => if q.ownsLink e.1 then (e.1, e.2.idle) else e }
      let s := (s.failDrain p (1 + Config.freeCount 131 s.fresh % 3)).useFresh
      let s := { s with ifaces := modWhere (·.part == p) (fun f => f.raise 0x80#32) s.ifaces }
      s.endProxy fun i => s.ifacePart i == p

def State.fenceAll (s : State) : List Nat → State
  | [] => s
  | p :: r => State.fenceAll (s.fence p) r

def State.failDrains (s : State) (code : Nat) : List Nat → State
  | [] => s
  | p :: r => State.failDrains (s.failDrain p code) code r

/-- The safe state: commits are blocked, everything but management halts, the ports idle, the drains fail (spec 15 R397,
13 R346). -/
def State.enterSafe (s : State) : State :=
  let s := s.failDrains failReset (s.parts.map (·.num))
  { s with flt := { s.flt with safe := true } }

/-- A detection with the reactions of its severity (spec 15 R393, R394). In the safe state only the record is left (R397). -/
def State.detect (s : State) (d : Detection) : State :=
  let sev := s.severity d.source
  if (sourceScope d.source).isNone then s
  else
    let hit := s.affected d
    let s := s.record d
    if sevFatal ≤ sev then s.enterSafe
    else if s.flt.safe then s
    else
      let s := if sev = sevContain ∧ sourceScope d.source ≠ some .c then s.fenceAll hit else s
      if sourceFails d.source ∨ (sev = sevContain ∧ sourceScope d.source = some .c) then
        match d.cmd with
        | some c => match s.cmd? c with
          | some k =>
            if k.pastWrite then s
            else let t := s.endWith k (Result.bare stUNCORRECTABLE); t.cascade t.cmds.length
          | none => s
        | none => s
      else s

/-- Records an access of an interface that the module discards (source 0x5B; Table 15-6). Its view shows the access at
every severity. -/
def State.discard (s : State) (i cause : Nat) (write : Bool) (offset : Nat) : State :=
  let p := s.ifacePart i
  let s := s.modIface i fun f =>
    { f.raise 1#32 with vAccess := BitVec.ofNat 32 (cause * 2 ^ 17 + boolNat write * 2 ^ 16 + offset % 2 ^ 16) }
  s.detect { source := 0x5B, inst := i, part := some p, info := cause, cmd := none }

/-- A drain fails, and the fault reacts by its severity. -/
def State.drainFails (s : State) (p code : Nat) : State :=
  let had := ((s.part? p).bind (·.ckp.drain)).isSome
  let s := s.failDrain p code
  let sev := s.severity 0x5C
  if !had || s.flt.safe then s else if sevFatal ≤ sev then s.enterSafe else if sev = sevContain then s.fence p else s

/-- FAULT_N is driven low (spec 15 R399, R400; 17 Table 17-2; 18 Table 18-10). -/
def State.faultN (s : State) : Bool :=
  (s.phase == .running || s.phase == .recovery || s.phase == .held || s.phase == .dormant || s.phase == .fuseFault) &&
  (s.phase == .fuseFault || s.flt.lastResort || s.flt.recs.any (fun e => e.2.pending && decide (sevNotify ≤ e.2.sev)))

end Sys2Proof.Machine
end

