-- ==== Sys2Proof/Machine/Rng.lean ====
section
/-!
DEFINITION. The counter generator and the table generator (spec 05 R116-R122), and the pieces of their words that roundings,
fills and the sampler take (R69, R121, R128, R138).
-/
namespace Sys2Proof.Machine

/-! ## The counter generator: Philox-4x32-10 (R116) -/

def philoxRound (c : Nat × Nat × Nat × Nat) (k0 k1 : Nat) : Nat × Nat × Nat × Nat :=
  let (c0, c1, c2, c3) := c
  let p0 := 0xD2511F53 * c0
  let p1 := 0xCD9E8D57 * c2
  ((p1 / 2 ^ 32).xor (c1.xor k0), p1 % 2 ^ 32, (p0 / 2 ^ 32).xor (c3.xor k1), p0 % 2 ^ 32)

def philoxRounds : Nat → Nat × Nat × Nat × Nat → Nat → Nat → Nat × Nat × Nat × Nat
  | 0, c, _, _ => c
  | n + 1, c, k0, k1 =>
    philoxRounds n (philoxRound c k0 k1) ((k0 + 0x9E3779B9) % 2 ^ 32) ((k1 + 0xBB67AE85) % 2 ^ 32)

/-- Word position P of the stream (class, index, aux) under a seed. -/
def ctrWord (seed : W64) (cls index aux p : Nat) : W32 :=
  let b := p / 4
  let (x0, x1, x2, x3) := philoxRounds 10
    (b % 2 ^ 32, cls * 2 ^ 24 + b / 2 ^ 32 % 2 ^ 24, index % 2 ^ 32, aux % 2 ^ 32)
    (seed.toNat % 2 ^ 32) (seed.toNat / 2 ^ 32)
  BitVec.ofNat 32 (match p % 4 with | 0 => x0 | 1 => x1 | 2 => x2 | _ => x3)

/-! ## The table generator (R118, R119) -/

/-- Word j of the table of a tile index in generation g: the class-0x04 stream. -/
def tableWord (seed : W64) (tile g j : Nat) : Nat := (ctrWord seed 4 (tile % 2 ^ 24) g j).toNat

def bankLen (k : Nat) : Nat := match k with | 0 => 4099 | 1 => 4093 | 2 => 4091 | _ => 4079
def bankBase (k : Nat) : Nat := match k with | 0 => 0 | 1 => 4099 | 2 => 8192 | _ => 12283

def rotl32 (w r : Nat) : Nat := (w * 2 ^ r % 2 ^ 32) + w / 2 ^ (32 - r)

/-- Bank k's part of a draw from state l at draw count n. -/
def bankPart (seed : W64) (tile g l n k : Nat) : Nat :=
  let len := bankLen k
  let a := tableWord seed tile g (16384 + k) % len
  let s := 1 + tableWord seed tile g (16388 + k) % (len - 1)
  let r := tableWord seed tile g (16392 + k) % 32
  let p := (a + (l * 2 ^ 40 + n) * s) % len
  rotl32 (tableWord seed tile g (bankBase k + p)) r

/-- The word a draw yields. -/
def tableDraw (seed : W64) (tile g l n : Nat) : W32 :=
  BitVec.ofNat 32 ((bankPart seed tile g l n 0).xor ((bankPart seed tile g l n 1).xor
    ((bankPart seed tile g l n 2).xor (bankPart seed tile g l n 3))))

def Gen.start : Gen := { g := 0, d := 0, counts := [] }

/-- The refill that follows the last draw of a generation (R120): g moves on, D and every count return to 0. -/
def Gen.refill (x : Gen) : Gen :=
  if x.d ≥ 2 ^ 32 then { g := (x.g + 1) % 2 ^ 32, d := 0, counts := [] } else x

/-- A draw from state l of a tile, after the refill that may be due. -/
def Gen.draw (x : Gen) (seed : W64) (tile l : Nat) : W32 × Gen :=
  let y := x.refill
  let n := Tab.get y.counts l 0
  (tableDraw seed tile y.g l n, { y with d := y.d + 1, counts := Tab.set y.counts l (n + 1) })

def drawTile (gs : Tab Gen) (seed : W64) (tile l : Nat) : W32 × Tab Gen :=
  let (w, x) := (Tab.get gs tile Gen.start).draw seed tile l
  (w, Tab.set gs tile x)

/-! ## Pieces of words (R121, R128) -/

/-- The current word of a draw state: the word, the width of its pieces in bits, and the next piece. -/
structure Cur where
  word : W32
  width : Nat
  next : Nat
deriving DecidableEq, Repr, Inhabited

/-- Pieces of a word: 8 of 4 bits, 10 of 3 bits, 4 of 8 bits, one of 32 bits. -/
def pieceCount (width : Nat) : Nat := if width = 3 then 10 else 32 / width
def pieceOf (w : W32) (width j : Nat) : Nat := w.toNat / 2 ^ (width * j) % 2 ^ width

/-- The draw states of a command: its provisional generators and their current words, keyed by tile × 65 + state. -/
structure Drawer where
  seed : W64
  gens : Tab Gen
  cur : Tab Cur
deriving DecidableEq, Repr, Inhabited

/-- The next piece of a width from a state. -/
def Drawer.piece (x : Drawer) (tile l width : Nat) : Nat × Drawer :=
  let key := tile * 65 + l
  match Tab.get x.cur key { word := 0#32, width := 0, next := 0 } with
  | { word, width := w, next } =>
    if w = width ∧ next < pieceCount width then
      (pieceOf word width next, { x with cur := Tab.set x.cur key { word := word, width := width, next := next + 1 } })
    else
      let (nw, gs) := drawTile x.gens x.seed tile l
      (pieceOf nw width 0, { x with gens := gs, cur := Tab.set x.cur key { word := nw, width := width, next := 1 } })

/-- The tile indices that a command of an opcode and parameters engages on a partition of n tiles; at least one (R476,
log 12). -/
def tilesOf (fw : W32) (op : Nat) (ps : List W32) (n : Nat) : List Nat :=
  let l := (List.range n).filter (Config.engages fw op ps n)
  if l.isEmpty then List.range n else l

/-- Where an element is served: tile index, draw state, and the clock of its draw. -/
structure Spot where
  tile : Nat
  state : Nat
  clock : Nat
deriving DecidableEq, Repr, Inhabited

/-- The tile, draw state and clock of an element (R476): the firmware's choice among the tiles the command engages, a
function of FW_VER, the opcode, its parameters and the number of tiles (log 12). Elements of one row share its tile (spec 04
R90). -/
def assignTo (fw : W32) (op : Nat) (ps : List W32) (tiles row i : Nat) : Spot :=
  let l := tilesOf fw op ps tiles
  let (_, st, ck) := Config.assign fw op ps tiles i
  { tile := l.getD ((Config.assign fw op ps tiles row).1 % l.length) 0, state := st % 64, clock := ck }

/-- Draws of a tile come in order of their clock, within a clock by ascending state, and on one state by element
(R120, R121). -/
def Spot.before (a b : Nat × Spot) : Bool :=
  decide (a.2.clock < b.2.clock) || (a.2.clock == b.2.clock &&
    (decide (a.2.state < b.2.state) || (a.2.state == b.2.state && decide (a.1 ≤ b.1))))

/-- A draw put into its place in an ordered list of draws. -/
def insertDraw (d : Nat × Spot) : List (Nat × Spot) → List (Nat × Spot)
  | [] => [d]
  | e :: r => if Spot.before d e then d :: e :: r else e :: insertDraw d r

/-- Draws in their order. -/
def drawOrder : List (Nat × Spot) → List (Nat × Spot)
  | [] => []
  | d :: r => insertDraw d (drawOrder r)

/-- One piece for each draw of a list, in the order of the list, by element. -/
def Drawer.pieceAll (width : Nat) : List (Nat × Spot) → Drawer → Tab Nat × Drawer
  | [], x => ([], x)
  | (i, t) :: r, x =>
    let (p, x) := x.piece t.tile t.state width
    let (ps, x) := Drawer.pieceAll width r x
    ((i, p) :: ps, x)

/-- Pieces for elements 0 to n - 1. `at_` says where each is served. -/
def Drawer.pieces (at_ : Nat → Spot) (width n : Nat) (x : Drawer) : List Nat × Drawer :=
  let (ps, x) := x.pieceAll width (drawOrder ((List.range n).map fun i => (i, at_ i)))
  ((List.range n).map fun i => Tab.get ps i 0, x)

/-! ## The boot self-test (R125) -/

/-- The tests of the boot self-test: the numbers of the known-answer vectors, and of the draws that are checked. Neither
is published (DESIGN CHOICE, log 62). -/
def selfTests : List Nat := [0, 1]

/-- The expected words: class 0xFE of every test under seed 0, then draws of a table filled under R118. -/
def selfTestWords : List W32 :=
  selfTests.flatMap (fun t => (List.range 4).map (ctrWord 0#64 0xFE t 0)) ++ selfTests.map (fun t => tableDraw 0#64 0 0 0 t)

/-- A word as a tile's generators form it: a defective tile's differ in every bit (log 62). -/
def Fit.tileWord (f : Fit) (tile : Nat) (w : W32) : W32 := if f.badTiles.contains tile then ~~~w else w

/-- A tile passes the self-test when each of its words is the expected one. -/
def Fit.selfTest (f : Fit) (tile : Nat) : Bool := selfTestWords.all fun w => f.tileWord tile w == w

/-- The rounding bits of elements 0 to n - 1 of an output in deterministic mode (R117, R121): `width` is 3 or 4. -/
def detPieces (seed : W64) (seq ordinal width n : Nat) : List Nat :=
  (List.range n).map fun i =>
    pieceOf (ctrWord seed 2 seq (ordinal % 256) (i / pieceCount width)) width (i % pieceCount width)

/-- The same for elements lo to lo + n - 1. -/
def detPiecesFrom (seed : W64) (seq ordinal width lo n : Nat) : List Nat :=
  (List.range n).map fun i =>
    pieceOf (ctrWord seed 2 seq (ordinal % 256) ((lo + i) / pieceCount width)) width ((lo + i) % pieceCount width)

/-! ## Saved state (R129 to R131) -/

/-- The generator state in the layout of Table 5-5, for T tiles. -/
def genBytes (seed : W64) (det : Bool) (tiles : Nat) (gs : Tab Gen) : List Byte :=
  leBytes 8 seed.toNat ++ leBytes 4 (boolNat det + tiles * 2 ^ 16) ++ leBytes 4 0 ++
  (List.range tiles).flatMap fun i =>
    let x := (Tab.get gs i Gen.start).refill
    leBytes 4 x.g ++ leBytes 4 0 ++ leBytes 8 x.d ++
    (List.range 65).flatMap (fun l => leBytes 4 (Tab.get x.counts l 0)) ++ leBytes 12 0

/-- The fields of a saved state that must be zero, and the bounds of R130. -/
def genStateOk (bs : List Byte) : Bool :=
  let n := fun o k => leNat ((bs.drop o).take k)
  let t := n 10 1
  decide (16 ≤ bs.length) && decide (1 ≤ t) && decide (t ≤ 128) && decide (n 8 1 < 2) && n 9 1 == 0 && n 11 1 == 0 &&
  n 12 4 == 0 && decide (16 + 288 * t ≤ bs.length) &&
  (List.range t).all fun i =>
    let b := 16 + 288 * i
    n (b + 4) 4 == 0 && decide (n (b + 8) 8 < 2 ^ 32) && n (b + 276) 12 == 0

/-- A valid saved state as seed, mode, its number of tiles and its generators. -/
def genParse (bs : List Byte) : W64 × Bool × Nat × Tab Gen :=
  let n := fun o k => leNat ((bs.drop o).take k)
  let t := n 10 1
  (BitVec.ofNat 64 (n 0 8), n 8 1 % 2 == 1, t,
    (List.range t).map fun i =>
      let b := 16 + 288 * i
      (i, { g := n b 4, d := n (b + 8) 8,
            counts := (List.range 65).filterMap fun l => let c := n (b + 16 + 4 * l) 4; if c = 0 then none else some (l, c) }))

/-- Generators of a saved state taken over by a partition of `tiles` tiles: unchanged for the same number, re-derived
otherwise (R130, R131). -/
def genReshape (saved tiles : Nat) (gs : Tab Gen) : Tab Gen :=
  if saved = tiles then gs
  else
    let top := gs.foldl (fun m e => if e.2.g > m then e.2.g else m) 0
    (List.range tiles).map fun i => (i, { g := (top + 1) % 2 ^ 32, d := 0, counts := [] })

end Sys2Proof.Machine
end

