-- ==== Sys2Proof/Machine/Operands.lean ====
section
/-!
DEFINITION. The operand forms: the packet header (spec 11 R282), the parameters of every opcode under R472, tensor references
(R285), arrays (R286), byte buffers (R478) and token tensors (R479), and the checks that give BAD_PACKET its INDEX (R287).
The order of the parameters is the order in which the opcode's description lists them (log 10).
-/
namespace Sys2Proof.Machine

/-! ## Parameters (R472) -/

/-- The kinds of parameter: a word, a 64-bit value, a tensor reference, an array. -/
inductive Par where
  | w | d | t | a
deriving DecidableEq, Repr, Inhabited

def Par.room : Par → Nat | .w => 4 | .d => 8 | .t => 32 | .a => 16
def Par.align : Par → Nat | .w => 4 | _ => 8

/-- The parameters of an opcode; none for an opcode that is not defined (R290). -/
def params (op : Nat) : Option (List Par) :=
  match op with
  | 0x0101 => some []
  | 0x0102 => some [.w, .w]
  | 0x0103 => some [.w]
  | 0x0104 => some [.w, .w]
  | 0x0201 => some [.d, .w, .w, .w, .w, .w, .w, .w, .w]
  | 0x0202 => some [.w]
  | 0x0203 => some [.w]
  | 0x0204 => some [.a, .w, .w]
  | 0x0205 => some [.w, .t]
  | 0x0206 => some [.w]
  | 0x0207 => some [.w]
  | 0x0301 => some [.t, .t, .t, .t, .t, .t, .t, .t, .t, .w, .w, .w, .w, .w]
  | 0x0302 => some [.w, .t, .t, .t, .t]
  | 0x0303 => some [.w, .t, .t]
  | 0x0304 => some [.t, .t, .w, .w, .w]
  | 0x0305 => some [.t, .t, .t, .t, .t, .t, .w, .w, .w]
  | 0x0306 => some [.t, .t, .t, .t, .t, .t, .w, .w]
  | 0x0307 => some [.t, .t, .t, .t, .t, .t, .w, .w]
  | 0x0308 => some [.t, .t, .t, .t, .t, .w, .w]
  | 0x0309 => some [.w, .a]
  | 0x030A => some [.w, .t]
  | 0x0401 => some [.a, .w, .w, .w, .w, .w, .w, .w]
  | 0x0402 => some [.a, .a]
  | 0x0403 => some [.w, .w, .w]
  | 0x0404 => some [.w]
  | 0x0405 => some [.w, .w, .w, .w, .w, .w, .w]
  | 0x0406 => some [.w, .w]
  | 0x0501 => some [.a, .a, .w, .w]
  | 0x0502 => some ([.w, .w, .a] ++ List.replicate 14 .w ++ [.a])
  | 0x0503 => some [.w, .a, .w, .w, .w, .w, .a, .w]
  | 0x0504 => some [.w, .a]
  | 0x0505 => some ([.w] ++ List.replicate 16 .w ++ [.w, .w, .w, .a, .w])
  | 0x0506 => some [.a, .w, .w, .w, .a, .w]
  | 0x0507 => some [.w, .t]
  | 0x0601 => some [.a]
  | 0x0602 => some [.a]
  | 0x0603 => some [.w, .w, .w, .a, .w]
  | 0x0604 => some [.w]
  | 0x0605 => some []
  | 0x0701 => some [.w, .a]
  | 0x0702 => some [.w, .w, .w, .w]
  | 0x0703 => some [.w, .w, .w, .t, .w, .t, .w]
  | 0x0704 => some [.w, .w, .w, .w, .w]
  | 0x0705 => some [.w]
  | 0x0801 => some [.w, .w, .w]
  | 0x0802 => some [.w, .w]
  | 0x0803 => some [.w, .w]
  | 0x0804 => some [.w, .w]
  | 0x0805 => some [.w, .w]
  | 0x0901 => some [.a, .a, .w, .a, .a, .a, .a, .w, .w, .w, .w, .w]
  | 0x0902 => some [.w, .d]
  | 0x0903 => some [.a, .w, .d, .a, .a, .w]
  | 0x0904 => some [.t]
  | 0x0A01 => some [.d, .w]
  | 0x0A02 => some [.w, .t, .w, .d, .w]
  | 0x0A03 => some [.w]
  | 0x0A04 => some [.w]
  | 0x0B01 => some [.w, .w]
  | 0x0B02 => some [.w]
  | 0x0B03 => some [.w, .w]
  | 0x0B04 => some [.w]
  | _ => none

/-- Offsets of parameters laid out from a byte offset, and the end. -/
def layoutFrom : Nat → List Par → List Nat × Nat
  | o, [] => ([], o)
  | o, p :: r =>
    let s := roundUp o p.align
    let (l, e) := layoutFrom (s + p.room) r
    (s :: l, e)

/-- The units a packet of an opcode occupies: what its parameters need, and no more (R283, R472). -/
def packetLen (ps : List Par) : Nat := ((layoutFrom 64 ps).2 + 63) / 64

/-- The offset of parameter i of an opcode. -/
def parOffset (op i : Nat) : Nat := (layoutFrom 64 ((params op).getD [])).1.getD i 0

/-! ## Words of a packet -/

def wordAt (ws : List W32) (off : Nat) : W32 := ws.getD (off / 4) 0#32
def dwordAt (ws : List W32) (off : Nat) : Nat := (wordAt ws off).toNat + (wordAt ws (off + 4)).toNat * 2 ^ 32

/-- A tensor reference (Table 11-3). -/
structure TRef where
  handle : W32
  fmt : Byte
  conv : Nat
  off : Nat
  ds : W32
  count : Nat
  zero : Bool
deriving DecidableEq, Repr, Inhabited

def trefAt (ws : List W32) (off : Nat) : TRef :=
  let ctrl := wordAt ws (off + 4)
  { handle := wordAt ws off, fmt := BitVec.ofNat 8 (field ctrl 7 0), conv := field ctrl 15 8, off := dwordAt ws (off + 8),
    ds := wordAt ws (off + 16), count := dwordAt ws (off + 24)
    zero := (List.range 8).all fun i => wordAt ws (off + 4 * i) == 0#32 }

/-- The reserved fields of a tensor reference are zero. -/
def trefReserved (ws : List W32) (off : Nat) : Bool :=
  decide ((wordAt ws (off + 4)).toNat < 65536) && wordAt ws (off + 20) == 0#32

/-- An array (R286). -/
structure ARef where
  handle : W32
  count : Nat
  off : Nat
deriving DecidableEq, Repr, Inhabited

def arefAt (ws : List W32) (off : Nat) : ARef :=
  { handle := wordAt ws off, count := (wordAt ws (off + 4)).toNat, off := dwordAt ws (off + 8) }

def ARef.absent (r : ARef) : Bool := r.handle == 0#32 && r.count == 0 && r.off == 0

/-- Parameter i of a command, as a word, a 64-bit number, a reference, an array. -/
def Cmd.w (c : Cmd) (i : Nat) : W32 := wordAt c.words (parOffset c.opcode i)
def Cmd.n (c : Cmd) (i : Nat) : Nat := (c.w i).toNat
def Cmd.d (c : Cmd) (i : Nat) : Nat := dwordAt c.words (parOffset c.opcode i)
def Cmd.t (c : Cmd) (i : Nat) : TRef := trefAt c.words (parOffset c.opcode i)
def Cmd.a (c : Cmd) (i : Nat) : ARef := arefAt c.words (parOffset c.opcode i)
def Cmd.off (c : Cmd) (i : Nat) : Nat := parOffset c.opcode i

/-! ## The header (Table 11-1) -/

def hdrOpcode (ws : List W32) : Nat := field (wordAt ws 0) 15 0
def hdrLen (ws : List W32) : Nat := field (wordAt ws 0) 19 16
def hdrSeq (ws : List W32) : Nat := field (wordAt ws 0x0C) 23 0
def lenOk (l : Nat) : Bool := decide (1 ≤ l) && decide (l ≤ 8)

/-- Opcodes that accept ATOMIC (Table 11-6). -/
def atomicOk (op : Nat) : Bool := op == 0x0302 || op == 0x0505

/-- Dependency i of a packet: kind, queue, sequence number or event, value. -/
structure DepField where
  kind : Nat
  queue : Nat
  seq : Nat
  value : W32
deriving DecidableEq, Repr, Inhabited

def depField (ws : List W32) (i : Nat) : DepField :=
  let w := wordAt ws (0x18 + 8 * i)
  { kind := field w 2 0, queue := field w 7 4, seq := field w 31 8, value := wordAt ws (0x1C + 8 * i) }

/-- A dependency's own fields obey Table 11-2 (not yet that it names a command). -/
def depFieldOk (ws : List W32) (i : Nat) : Bool :=
  let w := wordAt ws (0x18 + 8 * i)
  let d := depField ws i
  !bitAt w 3 &&
  (match d.kind with
  | 0 => w == 0#32 && d.value == 0#32
  | 1 => d.value == 0#32
  | 2 => d.value == 0#32
  | 3 => d.queue == 0 && decide (d.seq < 256)
  | _ => false)

/-- A check: the byte offset of a field and whether it obeys its rule. -/
abbrev Check := Nat × Bool

/-- The lowest offset whose check fails. -/
def firstBad (cs : List Check) : Option Nat :=
  cs.foldl (fun m c => if c.2 then m else match m with
    | none => some c.1
    | some o => if c.1 < o then some c.1 else m) none

/-- The fetch-time checks of a packet that its own words decide (R283, R472). -/
def headerChecks (ws : List W32) : List Check :=
  let op := hdrOpcode ws
  let flags := wordAt ws 4
  [ (0x00, (match params op with
      | some ps => hdrLen ws == packetLen ps
      | none => false)),
    (0x00, decide ((wordAt ws 0).toNat < 2 ^ 20)),
    (0x04, decide (flags.toNat < 16)),
    (0x04, !bitAt flags 0 || atomicOk op),
    (0x08, decide ((wordAt ws 8).toNat < 4096)),
    (0x0C, decide ((wordAt ws 0x0C).toNat < 2 ^ 24)),
    (0x14, decide ((wordAt ws 0x14).toNat < 256)),
    (0x18, depFieldOk ws 0), (0x20, depFieldOk ws 1), (0x28, depFieldOk ws 2), (0x30, depFieldOk ws 3),
    (0x38, wordAt ws 0x38 == 0#32), (0x3C, wordAt ws 0x3C == 0#32) ] ++
  (match params op with
  | none => []
  | some ps =>
    let (offs, stop) := layoutFrom 64 ps
    ((offs.zip ps).map fun (o, p) => (o, p != .t || trefReserved ws o)) ++
    ((List.range (16 * hdrLen ws)).filterMap fun i =>
      if 4 * i ≥ stop then some (4 * i, wordAt ws (4 * i) == 0#32) else none) ++
    ((offs.zip ((offs.drop 1) ++ [stop])).zip ps).filterMap fun ((o, nx), p) =>
      if o + p.room < nx then some (o + p.room, wordAt ws (o + p.room) == 0#32) else none)

/-! ## What a running command works on -/

/-- The units a running command belongs to, the contents it sees (R295), those of its first dispatch, and the coefficient
set of the running image (spec 04 R88). -/
structure Env where
  part : Part
  iface : Iface
  ctx : Ctx
  view : View
  first : View
  coef : W16
  fw : W32
deriving Repr, Inhabited

/-- A dispatched command of an opcode, with what it works on. -/
def State.env? (s : State) (op : Nat) (id : CmdId) : Option (Cmd × Env) :=
  match s.cmd? id with
  | none => none
  | some c =>
    if c.opcode = op ∧ c.phase = .dispatched then
      match s.iface? id.iface, c.view, c.first with
      | some i, some v, some f =>
        match s.part? i.part, v.ctx with
        | some p, some x => some (c, { part := p, iface := i, ctx := x, view := v, first := f, coef := s.mgt.coefVer, fw := s.mgt.fwVer })
        | _, _ => none
      | _, _, _ => none
    else none

/-- A command has finished its work and its waits with a result; it is taken for commit in the order in which commands
become ready (R295). -/
def State.markReady (s : State) (id : CmdId) (r : Result) : State :=
  { s with cmds := modWhere (·.id == id) (fun c => { c with phase := .ready r, order := s.stamp }) s.cmds
           stamp := s.stamp + 1 }

/-- The opcodes a partition's role accepts (spec 01 R19; 07 R174; 08 R209; 10 R253). -/
def roleAccepts (role op : Nat) : Bool :=
  match op / 256 with
  | 4 => (role == roleGenerate && op != 0x0405) || (role == rolePrefill && (op == 0x0401 || op == 0x0405))
  | 5 => role == roleLearn
  | 6 => role != roleLearn || decide (op ≤ 0x0603)
  | 7 => if op = 0x0704 then role == roleLearn else role == roleGenerate
  | _ => true

/-! ## The copy-on-write reserve (spec 13 R342) -/

def pageBytes : Nat := 2 * mib

/-- The pages that bits lo to hi - 1 of an allocation touch. -/
def pagesOf (lo hi : Nat) : List Nat :=
  if hi ≤ lo then [] else (List.range ((hi - 1) / 8 / pageBytes + 1 - lo / 8 / pageBytes)).map (lo / 8 / pageBytes + ·)

/-- The pages a write touches. -/
def TWrite.pages (w : TWrite) (a : Alloc) : List Nat :=
  let elems := w.elems.flatMap fun (k, _) => pagesOf (a.elemBit k) (a.elemBit k + fmtBits a.code)
  (elems ++ w.scales.map (fun x : Nat × Byte => x.1 / pageBytes)).foldl (fun l x => addOnce x l) []

/-- The undrained snapshot pages that writes change and the reserve does not keep. -/
def State.reserveNeed (s : State) (p : Nat) (ws : List TWrite) : List (W32 × Nat) :=
  match (s.part? p).bind (·.ckp.drain) with
  | none => []
  | some d =>
    (ws.flatMap fun w => match d.allocs.find? (·.handle == w.handle) with
      | some a => (w.pages a).map fun g => (w.handle, g)
      | none => []).foldl
      (fun l x => if d.pages.contains x && !d.reserve.any (fun k => k.handle == x.1 && k.page == x.2) then addOnce x l else l) []

/-- Reserve pages of a drain that are free. -/
def Ckp.reserveFree (k : Ckp) : Nat := k.reserve - ((k.drain.map (·.reserve.length)).getD 0)

/-- The reserve keeps pages for a command. -/
def Ckp.keepPages (k : Ckp) (owner : Option CmdId) (need : List (W32 × Nat)) : Ckp :=
  { k with drain := k.drain.map fun d => { d with reserve := d.reserve ++ need.map fun (h, g) => { handle := h, page := g, owner := owner } }
           peak := max k.peak (((k.drain.map (·.reserve.length)).getD 0) + need.length) }

/-- A command takes the reserve pages that its writes need; none when too few are free. -/
def State.takeReserve (s : State) (c : Cmd) (owner : Option CmdId) (need : List (W32 × Nat)) : Option State :=
  let p := s.cmdPart c.id
  match s.part? p with
  | none => some s
  | some q =>
    if need.length ≤ q.ckp.reserveFree then
      let waited := match c.stallSince with | some t => s.clk.localUs - t | none => 0
      some ((s.modPart p fun q => { q with ckp := { q.ckp.keepPages owner need with stallUs := sat64 (q.ckp.stallUs + waited) } }).modCmd c.id
        fun k => { k with stallSince := none, needs := [] })
    else none

/-- A write waits for reserve pages. -/
def State.stall (s : State) (c : CmdId) (need : List (W32 × Nat)) : State :=
  s.modCmd c fun k => { k with stallSince := some (k.stallSince.getD s.clk.localUs), needs := need }

/-- A command becomes ready with a result once the reserve keeps the pages its writes change. -/
def finishRow (t : State) (c : Cmd) (r : Result) : State :=
  let need := if r.status = stOK ∨ r.always = true then t.reserveNeed (t.cmdPart c.id) r.writes else []
  if need.isEmpty then t.markReady c.id r
  else match t.takeReserve c (some c.id) need with
    | some t => t.markReady c.id r
    | none => t.stall c.id need

/-! ## Tiles that are failing (spec 15 R404, R406) -/

/-- The opcodes with work on tiles: the compute family, batch and learning steps, prefills, rules and fills (log 12). -/
def onTiles (op : Nat) : Bool :=
  op / 256 == 3 || op == 0x0403 || op == 0x0405 || op == 0x0502 || op == 0x0505 || op == 0x0A02

/-- The parameter words of a command: what follows its header. -/
def Cmd.args (c : Cmd) : List W32 := c.words.drop 16

/-- A command has work on a tile of its partition: one of those it engages (R476). -/
def Cmd.usesTile (c : Cmd) (fw : W32) (p : Part) (t : Nat) : Bool :=
  onTiles c.opcode && (tilesOf fw c.opcode c.args p.tiles).any fun i => p.firstTile + i == t

/-- Where element i of output `ordinal` of a command is served. -/
def Cmd.spot (c : Cmd) (e : Env) (ordinal i : Nat) : Spot :=
  assignTo e.fw c.opcode c.args e.part.tiles (ordinal * 2 ^ 40 + i) (ordinal * 2 ^ 40 + i)

/-- The same for an output of a row command, with `per` elements of a row: the row names the tile (spec 04 R90). -/
def Cmd.rowSpot (c : Cmd) (e : Env) (per : Nat → Nat) (ordinal i : Nat) : Spot :=
  assignTo e.fw c.opcode c.args e.part.tiles (i / per ordinal) (ordinal * 2 ^ 40 + i)

/-- Runs an opcode: `f` gives the new state and, when the command has nothing left to run, its result. A command that is
not dispatched, and every command while the engines are stopped, leaves the state as it is (log 4). Work on a failing tile
is held, and work on a tile with no seed left fails. -/
def runOp (op : Nat) (id : CmdId) (s : State) (f : State → Cmd → Env → State × Option Result) : Answer :=
  match (if s.awake then s.env? op id else none) with
  | none => .next s
  | some (c, e) =>
    if !roleAccepts e.part.role op then .next (s.markReady id Result.badState)
    else if s.maint.dead.any (fun t => e.part.ownsTile t && c.usesTile e.fw e.part t) then .next (s.markReady id (Result.bare stUNCORRECTABLE))
    else if s.maint.failing.any (fun t => e.part.ownsTile t && c.usesTile e.fw e.part t) then .next s
    else
      match f s c e with
      | (t, none) => .next t
      | (t, some r) => .next (finishRow t c r)

/-! ## Allocations a command names -/

/-- A handle as the command's view holds it. -/
def Env.alloc? (e : Env) (h : W32) : Option Alloc := e.view.allocs.find? (·.handle == h)
def Env.firstAlloc? (e : Env) (h : W32) : Option Alloc := e.first.allocs.find? (·.handle == h)

/-- The elements a reference covers. -/
def TRef.len (r : TRef) (a : Alloc) : Nat := if r.count = 0 then a.elements - r.off else r.count

/-- The fields of an input reference (R285). -/
def inputChecks (e : Env) (off : Nat) (r : TRef) : List Check :=
  match e.alloc? r.handle with
  | none => [(off, false)]
  | some a => [(off + 4, r.fmt == a.fmt && r.conv == 0), (off + 8, decide (r.off ≤ a.elements)),
      (off + 16, r.ds == 0#32), (off + 24, decide (r.off + r.len a ≤ a.elements))]

/-- The fields of an output reference: a decode scale is positive, normal and finite (R71), and only a tensor without
block scaling takes one; a block-scaled output covers whole groups (log 28). A trajectory ring is written only by its
own family (spec 08 R210). -/
def outputChecks (e : Env) (off : Nat) (r : TRef) : List Check :=
  match e.alloc? r.handle with
  | none => [(off, false)]
  | some a => [(off, (match a.role with | .ring _ => false | _ => true)),
      (off + 4, r.fmt == a.fmt && convOk r.conv), (off + 8, decide (r.off ≤ a.elements)),
      (off + 16, r.ds == 0#32 || (posNormal r.ds && !a.block)),
      (off + 24, decide (r.off + r.len a ≤ a.elements) && (!a.block || wholeGroups a r.off (r.len a)))]

/-- An optional reference is absent when its handle is 0 and every other field is zero (R285). -/
def optional (cs : List Check) (off : Nat) (r : TRef) : List Check :=
  if r.handle = 0#32 then [(off, r.zero)] else cs

/-- The number of elements of a reference, 0 when it names nothing. -/
def Env.len (e : Env) (r : TRef) : Nat := ((e.alloc? r.handle).map fun a => r.len a).getD 0

/-- The values a reference reads (R475). -/
def Env.values (e : Env) (r : TRef) : List W32 :=
  match e.alloc? r.handle with
  | some a => a.values r.off (r.len a)
  | none => []

def Env.block (e : Env) (r : TRef) : Bool := ((e.alloc? r.handle).map (·.block)).getD false

/-- A handle names a byte buffer of at least n bytes from byte `from_` (R478). -/
def Env.bufferOk (e : Env) (h : W32) (from_ n : Nat) : Bool :=
  match e.alloc? h with
  | some a => a.fmt == int8Field && decide (from_ + n ≤ a.size)
  | none => false

/-- The entries of an array, as the first dispatch read them (R286): `size` bytes each. -/
def Env.entries (e : Env) (r : ARef) (size : Nat) : List (List W32) :=
  match e.firstAlloc? r.handle with
  | some a => (List.range r.count).map fun i => a.words (r.off + size * i) (size / 4)
  | none => []

/-- An array's handle, and its room in that allocation; an absent array has no entries. -/
def Env.arrayOk (e : Env) (r : ARef) (size : Nat) : Bool :=
  r.absent ||
  match e.firstAlloc? r.handle with
  | some a => a.fmt == int8Field && decide (r.off + size * r.count ≤ a.size)
  | none => false

/-- Tokens of a token tensor (R479). -/
def Alloc.tokens (a : Alloc) (off n : Nat) : List W32 := (List.range n).map fun i => a.word (4 * (off + i))
def tokenOk (a : Alloc) (off n : Nat) : Bool := a.fmt == int8Field && decide (4 * (off + n) ≤ a.size)

/-! ## Reads and their errors (spec 06 R165, R166; 15 R391, R393) -/

/-- A read of bytes lo to hi - 1 of an allocation of a partition, for a command or none: corrected errors are recorded and
written back, uncorrectable ones recorded. Answers whether the read fails. -/
def State.readFor (s : State) (part info : Nat) (cmd : Option CmdId) (p : Nat) (h : W32) (lo hi : Nat) : State × Bool :=
  match s.contents p h with
  | none => (s, false)
  | some a =>
    let ces := unitsHit a a.corr lo hi
    let ues := unitsHit a a.uncorr lo hi
    let unit := fun (u : Nat) => a.unitAt (s.span p) u
    let source := fun (ue : Bool) (u : Nat) => readSource a.home (unit u) ue
    let note := fun (s : State) (ue : Bool) (u : Nat) =>
      (s.record { source := source ue u, inst := unit u, part := some part, info := info, cmd := cmd }).noteRow (source ue u) (unit u) (a.rowAt u)
    let hard := fun (u : Nat) => decide (sevContain ≤ s.severity (source false u))
    let s1 := ces.foldl (fun t u => note t false u) s
    let s2 := ues.foldl (fun t u => note t true u) s1
    let fatal := fun (ue : Bool) (u : Nat) => decide (sevFatal ≤ s.severity (source ue u))
    let s2 := if ces.any (fatal false) || ues.any (fatal true) then s2.enterSafe else s2
    (s2.modContents p h fun a => { a with corr := a.corr.filter fun u => !ces.contains u },
      !ues.isEmpty || ces.any hard)

def State.readUnits (s : State) (c : Cmd) (p : Nat) (h : W32) (lo hi : Nat) : State × Bool :=
  s.readFor (s.cmdPart c.id) c.opcode (some c.id) p h lo hi

/-- Whether bytes of an allocation read without an error. -/
def Alloc.readsWell (a : Alloc) (lo hi : Nat) : Bool := (unitsHit a a.corr lo hi).isEmpty && (unitsHit a a.uncorr lo hi).isEmpty

/-- The same, of the copy that the command's handles name (spec 10 R252). -/
def State.readBytesAt (s : State) (c : Cmd) (p : Nat) (h : W32) (lo hi : Nat) : State × Bool :=
  let i := if p = s.cmdPart c.id then s.copyIndex c else none
  if (((s.facedTo p i).contents p h).map (·.readsWell lo hi)).getD true then (s, false)
  else (s.facing p i fun t => (t.readUnits c p h lo hi).1, ((s.facedTo p i).readUnits c p h lo hi).2)

/-- A read by a command of bytes of an allocation of its own partition. -/
def State.readBytes (s : State) (c : Cmd) (h : W32) (lo hi : Nat) : State × Bool := s.readBytesAt c (s.cmdPart c.id) h lo hi

/-- The bytes a reference reads: its elements' rows of bytes, and its block scales. -/
def refRanges (a : Alloc) (off n : Nat) : List (Nat × Nat) :=
  if n = 0 then []
  else (a.elemBit off / 8, (a.elemBit (off + n - 1) + fmtBits a.code + 7) / 8) ::
    (if a.block then [(a.scaleBase, shapeBytes a.fmt a.rows a.cols)] else [])

def State.readRanges (s : State) (c : Cmd) (h : W32) : List (Nat × Nat) → State × Bool
  | [] => (s, false)
  | (lo, hi) :: r =>
    let (s, b) := s.readBytes c h lo hi
    let (s, b') := State.readRanges s c h r
    (s, b || b')

/-- Reads by a command of the references it names. -/
def State.readRefs (s : State) (c : Cmd) (e : Env) : List TRef → State × Bool
  | [] => (s, false)
  | t :: r =>
    let (s, b) := match e.alloc? t.handle with
      | some a => s.readRanges c t.handle (refRanges a t.off (t.len a))
      | none => (s, false)
    let (s, b') := State.readRefs s c e r
    (s, b || b')

/-- Reads by a command of whole byte ranges. -/
def State.readBuffers (s : State) (c : Cmd) : List (W32 × Nat × Nat) → State × Bool
  | [] => (s, false)
  | (h, lo, n) :: r =>
    let (s, b) := s.readBytes c h lo (lo + n)
    let (s, b') := State.readBuffers s c r
    (s, b || b')

def uncorrectable : Option Result := some (Result.bare stUNCORRECTABLE)

/-- The first byte of the parameter that a byte offset lies in (spec 11 R472). -/
def paramStart (op off : Nat) : Nat :=
  (layoutFrom 64 ((params op).getD [])).1.foldl (fun m o => if m < o ∧ o ≤ off then o else m) 64

/-- The shape of every opcode: field checks in offset order, then checks of what the packet points to and of the module's
state, then reads; `k` does the rest. -/
def checked (s : State) (c : Cmd) (fields : List Check) (state : Bool) (reads : List (W32 × Nat × Nat)) (refs : List TRef)
    (e : Env) (k : State → State × Option Result) : State × Option Result :=
  match firstBad fields with
  | some o => (s, some (Result.bad (paramStart c.opcode o)))
  | none =>
    if !state then (s, some Result.badState)
    else
      let (s, b1) := s.readBuffers c reads
      let (s, b2) := s.readRefs c e refs
      if b1 || b2 then (s, uncorrectable) else k s

/-! ## Outputs (R81 to R83, R285) -/

/-- The random bits of an output's elements: none without STOCH, else by the context's mode (R69, R121). -/
def roundBits (c : Cmd) (e : Env) (at_ : Nat → Nat → Spot) (ordinal : Nat) (a : Alloc) (r : TRef) (n : Nat) (x : Drawer) :
    List (Option Nat) × Drawer :=
  if !convStoch r.conv || a.code = 0 then (List.replicate n none, x)
  else
    let width := stochBits a.code
    match e.first.ctx with
    | some ctx =>
      if ctx.det then ((detPieces ctx.seed c.seq ordinal width n).map some, x)
      else
        let (ps, x) := x.pieces (at_ ordinal) width n
        (ps.map some, x)
    | none => (List.replicate n none, x)

/-- An output to encode: its ordinal, its reference, its values. -/
structure OutSpec where
  ordinal : Nat
  ref : TRef
  vals : List W32
deriving Repr, Inhabited

/-- Encodes the outputs of a command in order. An absent output takes its place and writes nothing. -/
def encodeOuts (c : Cmd) (e : Env) (at_ : Nat → Nat → Spot) : List OutSpec → Drawer → List (Nat × Bool × TWrite) × Drawer
  | [], x => ([], x)
  | o :: r, x =>
    match e.alloc? o.ref.handle with
    | none => encodeOuts c e at_ r x
    | some a =>
      let vs := o.vals.take (o.ref.len a)
      let (bits, x) := roundBits c e at_ o.ordinal a o.ref vs.length x
      let tw := encodeInto a o.ref.conv (if o.ref.ds = 0#32 then none else some o.ref.ds) o.ref.off bits (vs.map decode32)
      let (ws, x) := encodeOuts c e at_ r x
      ((o.ordinal, guardedFmt a, tw) :: ws, x)

/-- The threshold a command's guard uses: QCF.FMT_GUARD when the command began (R82). -/
def guardOf (c : Cmd) : Nat := c.guardLog2

/-- The first guarded output past the threshold: SCALE_RANGE with its ordinal and its observed maximum (R82, R83). -/
def guardResult (c : Cmd) (ws : List (Nat × Bool × TWrite)) : Option Result :=
  match ws.find? fun (_, g, w) => g && guardTrips (guardOf c) w.stats with
  | some (o, _, w) => some { Result.bare stSCALE_RANGE with index := BitVec.ofNat 32 o, detail := w.stats.amax }
  | none => none

/-- The draws of a command begin from its context's committed generators (spec 05 R122) under the seed of its first
dispatch (R127). -/
def State.drawer (s : State) (e : Env) : Drawer :=
  { seed := (e.first.ctx.map (·.seed)).getD 0#64, gens := ((s.ctx? e.ctx.id).map (·.gens)).getD [], cur := [] }

/-- The result of a command that writes outputs: SCALE_RANGE, or OK with every write. -/
def outputsResult (c : Cmd) (ws : List (Nat × Bool × TWrite)) (gens : Option (Tab Gen)) (r : Result) : Result :=
  match guardResult c ws with
  | some bad => bad
  | none => { r with writes := r.writes ++ ws.map (fun (_, _, w) => w), gens := gens }

/-- Whether an output asks for stochastic rounding. -/
def TRef.stoch (r : TRef) : Bool := r.handle != 0#32 && convStoch r.conv

/-- The learning plan of a command's context at its first dispatch asks for stochastic write-backs (spec 09 Table 9-2). -/
def Cmd.planStoch (c : Cmd) : Bool :=
  (((c.first.bind (·.ctx)).bind (·.learn)).map fun l => l.entries.any fun p => bitAt p.ctrl 1 || bitAt p.ctrl 2).getD false

/-- The learning plan of a command's context at its first dispatch has a stochastic output in its layers (spec 09
R231): only layers with KEEP set may have one. -/
def Cmd.layersStoch (c : Cmd) : Bool :=
  (((c.first.bind (·.ctx)).bind (·.learn)).map fun l => ((List.range l.entries.length).zip l.entries).any fun (k, p) =>
    bitAt p.ctrl 0 && convStoch (Config.layerConv l.commands k)).getD false

/-- A command that draws from the table generators in normal mode: fills, batch steps with rows to sample, learning steps
with stochastic outputs, stochastic write-backs, and stochastic outputs. -/
def Cmd.mayDraw (c : Cmd) : Bool :=
  let ps := (params c.opcode).getD []
  c.opcode == 0x0A02 || (c.opcode == 0x0403 && (c.batch.map fun b => !b.outs.isEmpty).getD true) ||
  (c.opcode == 0x0502 && c.layersStoch) || (c.opcode == 0x0505 && c.planStoch) ||
  ((List.range ps.length).zip ps).any fun (i, p) => p == .t && (c.t i).stoch

/-- The tile indices whose generators a command draws from: the lowest-numbered tile of each clover for the sampler, else
the tiles it engages (spec 05 R119, R138). -/
def Cmd.drawTiles (c : Cmd) (fw : W32) (tiles : Nat) : List Nat :=
  if c.opcode = 0x0403 then (List.range tiles).filter fun i => i % 4 == 0 else tilesOf fw c.opcode c.args tiles

/-- Another command of the context holds the generator of a tile that this one draws from, or takes it first: it was
dispatched earlier and has not completed (spec 05 R123). -/
def State.generatorHeld (s : State) (c : Cmd) (tiles : Nat) : Bool :=
  s.cmds.any fun k => k.boundCtx == c.boundCtx && k.id != c.id &&
    (k.drawTiles s.mgt.fwVer tiles).any (fun i => (c.drawTiles s.mgt.fwVer tiles).contains i) &&
    (match k.phase with
     | .ready r => r.gens.isSome
     | .dispatched => decide (k.disp < c.disp) && k.mayDraw && !(((k.first.bind (·.ctx)).map (·.det)).getD false)
     | .fetched => false)

/-- The context's mode, as the command bound it. -/
def Env.det (e : Env) : Bool := (e.first.ctx.map (·.det)).getD false
def Env.seed (e : Env) : W64 := (e.first.ctx.map (·.seed)).getD 0#64

end Sys2Proof.Machine
end

