-- ==== Sys2Proof/Machine/Room.lean ====
section
/-!
DEFINITION. The room of each tier (spec 06 R145, R147, R149, R154; 12 R314, R315; 02 R46; 10 R255; 11 R278; 13 R334).
All sizes are in bytes.
-/
namespace Sys2Proof.Machine

/-- The rounding of a size in a home (R145). -/
def roundHome (h : Home) (n : Nat) : Nat :=
  match h with
  | .tile => roundUp n (4 * kib)
  | .commons => roundUp n (4 * kib)
  | .hbm => roundUp n (2 * mib)
  | .ddr => roundUp n (2 * mib)

def Alloc.stream (a : Alloc) : Bool := flagBit a.flags 3
def Alloc.cow (a : Alloc) : Bool := flagBit a.flags 6

/-- The shadow of a SHADOW4 tensor homed in DDR5: half a byte per element, 4 bytes per column, rounded (R145, R163). -/
def shadowRoom (a : Alloc) : Nat :=
  if a.shadow4 ∧ a.home = .ddr then roundUp (a.elements / 2 + a.elements % 2 + 4 * a.cols) (2 * mib) else 0

/-- How many copies of an allocation exist: the copy areas of an epoch handle, else one, and the provisional copy of a
weight that a learner's load fetches (spec 10 R252, R274). -/
def copiesOf (e : Epo) (a : Alloc) : Nat :=
  match a.role with
  | .epoch _ => e.areas.length
  | _ => if e.areas.isEmpty && e.load.isSome && e.map.any (·.handle == a.handle) then 2 else 1

/-- What an allocation takes of its home, its transposed copy included (spec 02 R46). -/
def homeRoom (e : Epo) (a : Alloc) : Nat :=
  roundHome a.home a.size * (copiesOf e a + if a.tcopy.isSome then 1 else 0)

/-- The save image of a context of footprint f KiB (spec 12 R315). -/
def saveImage (p : Part) (f : Nat) : Nat := if p.foot = 0 then 0 else roundUp ((f + 128) * kib * p.tiles) (2 * mib)

def sumBy {α : Type} (f : α → Nat) (l : List α) : Nat := l.foldl (fun n x => n + f x) 0

/-- The largest DDR5-homed entry of a sequence of handles. -/
def largestDdr (as : List Alloc) (hs : List W32) : Nat :=
  (as.filter fun a => hs.contains a.handle && a.home == .ddr).foldl (fun m a => if a.size > m then a.size else m) 0

/-- The largest entry of a sequence of handles. -/
def largestEntry (as : List Alloc) (hs : List W32) : Nat :=
  (as.filter fun a => hs.contains a.handle).foldl (fun m a => if a.size > m then a.size else m) 0

/-- The plans of a context: the committed one, and those replaced that a command still binds (R155). -/
def Ctx.plans (x : Ctx) : List LayerPlan := x.plan.toList ++ x.oldPlans

/-- The staging slots of plans: P times the largest DDR5-homed entry of each (R145). -/
def stagingRoom (as : List Alloc) (ls : List LayerPlan) : Nat := sumBy (fun l => l.p * largestDdr as l.handles) ls

/-- The window buffers of plans on each tile: (W + 1) × B of each (R154). -/
def windowRoom (p : Part) (as : List Alloc) (ls : List LayerPlan) : Nat :=
  sumBy (fun l => (l.w + 1) * roundUp ((largestEntry as l.handles + p.tiles - 1) / p.tiles) (4 * kib)) ls

/-- What the HBM slice of a partition holds (R145; queue areas, save images, staging slots, shadows, the reserve). -/
def State.hbmUsed (s : State) (p : Part) : Nat :=
  let as := s.partAllocs p.num
  let cs := s.partCtxs p.num
  sumBy (fun a => if a.home = .hbm then homeRoom p.epo a else 0) as +
  sumBy (fun a => shadowRoom a * copiesOf p.epo a) as + 2 * mib * (s.partIfaces p.num).length +
  sumBy (fun c => saveImage p c.foot + stagingRoom as c.plans) cs + p.ckp.reserve * 2 * mib

def State.hbmFree (s : State) (p : Part) : Nat := p.hbmGib * gib - s.hbmUsed p

def State.ddrFree (s : State) (p : Part) : Nat :=
  p.ddrGib * gib - sumBy (fun a => if a.home = .ddr then homeRoom p.epo a else 0) (s.partAllocs p.num)

/-- The 4 KiB granules of n bytes interleaved over k units that fall on unit i. -/
def spreadShare (n k i : Nat) : Nat := ((n + 4 * kib - 1) / (4 * kib) + k - 1 - i) / k * (4 * kib)

/-- What on-chip allocations of a context take on the ith tile of its partition (R147). -/
def State.tileUsed (s : State) (p : Part) (ctx i : Nat) : Nat :=
  sumBy (fun a => if a.home = .tile ∧ a.ctx = some ctx then
    (if a.spread then spreadShare a.size p.tiles i * (copiesOf p.epo a + boolNat a.tcopy.isSome)
     else if a.tile = p.firstTile + i then roundHome .tile a.size * (copiesOf p.epo a + boolNat a.tcopy.isSome) else 0)
    else 0) (s.partAllocs p.num)

/-- What SCOPE 1 allocations take on the ith commons share of a partition (R147). -/
def State.commonsUsed (s : State) (p : Part) (i : Nat) : Nat :=
  sumBy (fun a => if a.home = .commons then
    (if a.spread then spreadShare a.size p.n i * (copiesOf p.epo a + boolNat a.tcopy.isSome)
     else if a.tile / 4 = p.c0 + i then roundHome .commons a.size * (copiesOf p.epo a + boolNat a.tcopy.isSome) else 0)
    else 0) (s.partAllocs p.num)

def commonsShare : Nat := 16 * mib

/-- The footprint a context has left on the ith tile (R149, spec 12 R314). -/
def State.tileFree (s : State) (p : Part) (c : Ctx) (i : Nat) : Nat :=
  c.foot * kib - (s.tileUsed p c.id i + windowRoom p (s.partAllocs p.num) c.plans)

def State.commonsFree (s : State) (p : Part) (i : Nat) : Nat := commonsShare - s.commonsUsed p i

/-- Everything fits its tiers (spec 01 R20). -/
def State.slicesOk (s : State) (p : Part) : Bool :=
  decide (s.hbmUsed p ≤ p.hbmGib * gib) &&
  decide (sumBy (fun a => if a.home = .ddr then homeRoom p.epo a else 0) (s.partAllocs p.num) ≤ p.ddrGib * gib) &&
  (List.range p.n).all (fun i => decide (s.commonsUsed p i ≤ commonsShare)) &&
  (s.partCtxs p.num).all fun x => (List.range p.tiles).all fun i =>
    decide (s.tileUsed p x.id i + windowRoom p (s.partAllocs p.num) x.plans ≤ x.foot * kib)

/-- The index below n with the most of `f`; the lowest of equals (R147). -/
def mostFree (f : Nat → Nat) : Nat → Nat
  | 0 => 0
  | n + 1 => let m := mostFree f n; if f n > f m then n else m

/-- The sum of the footprints of the resident contexts of a partition. -/
def State.footprints (s : State) (p : Part) : Nat := sumBy (·.foot) (s.partCtxs p.num)

/-- The memory a command may use for a row and its working space on a tile (spec 12 R314). -/
def State.rowRoom (s : State) (p : Part) (c : Ctx) : Nat :=
  let i := mostFree (fun i => s.tileFree p c i) p.tiles
  if p.foot = 0 then s.tileFree p c i + (16 * mib - s.footprints p * kib)
  else p.foot * kib - (s.tileUsed p c.id i + windowRoom p (s.partAllocs p.num) c.plans)

/-- A row of n entries of a format and w bytes of working space per entry fit (spec 04 R90). -/
def State.rowFits (s : State) (e : Env) (fmt : Byte) (n w : Nat) : Bool :=
  decide (rowBytes fmt n + w * n ≤ s.rowRoom e.part e.ctx)

/-- On-chip room unallocated, over every tile and commons share, in KiB (TIER.ONCHIP_FREE). A tile holds what the
footprints of every context of the partition do not cover, and what they leave free. -/
def State.onchipFree (s : State) (p : Part) : Nat :=
  let tiles := sumBy (fun i => 16 * mib - sumBy (fun c => s.tileUsed p c.id i) (s.partCtxs p.num)) (List.range p.tiles)
  let commons := sumBy (fun i => s.commonsFree p i) (List.range p.n)
  (tiles + commons) / kib

/-- Where a new allocation lives (R144, R147): its home and tile, or none for want of room. -/
def State.placeFor (s : State) (p : Part) (c : Ctx) (flags : W16) (size affinity : Nat) (shadow : Nat) : Option (Home × Nat) :=
  if flagBit flags 0 then
    if flagBit flags 8 then
      if flagBit flags 5 then
        if (List.range p.n).all fun i => decide (spreadShare size p.n i ≤ s.commonsFree p i) then
          some (.commons, 4 * p.c0) else none
      else
        let i := if affinity = 0xFF then mostFree (s.commonsFree p) p.n else affinity / 4
        if roundHome .commons size ≤ s.commonsFree p i then some (.commons, 4 * (p.c0 + i)) else none
    else if flagBit flags 5 then
      if (List.range p.tiles).all fun i => decide (spreadShare size p.tiles i ≤ s.tileFree p c i) then
        some (.tile, p.firstTile) else none
    else
      let i := if affinity = 0xFF then mostFree (s.tileFree p c) p.tiles else affinity
      if roundHome .tile size ≤ s.tileFree p c i then some (.tile, p.firstTile + i) else none
  else
    let n := roundHome .hbm size
    let hbm := decide (n ≤ s.hbmFree p)
    let ddr := s.ddrUp && decide (n ≤ s.ddrFree p) && decide (shadow ≤ s.hbmFree p)
    if flagBit flags 1 && hbm then some (.hbm, 0)
    else if flagBit flags 2 then
      if ddr then some (.ddr, 0)
      else if !s.ddrUp && hbm then some (.hbm, 0)
      else none
    else none

end Sys2Proof.Machine
end

