-- ==== Sys2Proof/Machine/Sched.lean ====
section
/-!
DEFINITION. What the scheduler goes by: which commands may be dispatched, which contexts are blocked or runnable, and which
acquires call for a donation (spec 11 R294, R300, R301; 12 R318, R325, R327).
-/
namespace Sys2Proof.Machine

/-! ## Dependencies and order (R294) -/

/-- A dependency is satisfied: its command has completed, or its event has reached the value (R294, R300). -/
def State.depMet (s : State) (i : Nat) (d : Dep) : Bool :=
  match d.kind with
  | .event => decide (d.value.toNat ≤ (s.event i d.queue).toNat)
  | .never => false
  | _ =>
    ((s.queue? i d.queue).map fun q => decide (d.ord < q.next)).getD false &&
    !(s.cmds.any fun c => c.id == { iface := i, queue := d.queue, ord := d.ord })

/-- Earlier packets of a command's queue that have not completed. -/
def State.earlier (s : State) (c : Cmd) : List Cmd :=
  s.cmds.filter fun k => k.id.iface == c.id.iface && k.id.queue == c.id.queue && decide (k.id.ord < c.id.ord)

/-- The conditions of R294. -/
def State.dispatchable (s : State) (c : Cmd) : Bool :=
  c.phase == .fetched && c.deps.all (s.depMet c.id.iface) && (s.earlier c).all (fun k => decide (0 < k.attempts)) &&
  (!bitAt c.flags 1 || (s.earlier c).isEmpty)

/-! ## Semaphores (R301) -/

def Ctx.held (x : Ctx) (m : Nat) : Nat := Tab.get x.sems m 0

/-- The SEM_ACQUIREs of a partition on a semaphore that have been dispatched and have not completed. -/
def State.semWaiters (s : State) (p m : Nat) : List Cmd :=
  (s.partCmds p).filter fun k => k.opcode == 0x0804 && k.phase != .fetched && k.n 0 == m

def State.semCount (s : State) (p m : Nat) : Nat := ((s.part? p).map fun q => Tab.get q.sems m 0).getD 0

/-! ## Blocked and runnable (spec 12 R318) -/

/-- A dispatched command waits on an event or a semaphore grant. -/
def State.waitsSync (s : State) (c : Cmd) : Bool :=
  (c.opcode == 0x0802 && decide ((s.event c.id.iface (c.n 0)).toNat < c.n 1)) ||
  (c.opcode == 0x0804 &&
    let p := s.cmdPart c.id
    decide (s.semCount p (c.n 0) < c.n 1) || (s.semWaiters p (c.n 0)).any fun k => decide (k.disp < c.disp))

/-- A command of a resident context runs, or would be dispatched. -/
def State.runs (s : State) (c : Cmd) : Bool :=
  match c.phase with
  | .ready _ => true
  | .dispatched => !s.waitsSync c
  | .fetched => s.dispatchable c

def State.blocked (s : State) (x : Ctx) : Bool := (s.cmds.filter (·.ctx == x.id)).all fun c => !s.runs c
def State.runnable (s : State) (x : Ctx) : Bool := (s.cmds.filter (·.ctx == x.id)).any s.dispatchable

/-! ## Acquires that call for a donation (R325, R327) -/

def State.residents (s : State) (p : Part) : List Ctx := (s.partCtxs p.num).filter (·.st == .resident)

/-- An acquire of a resident context that waits as the oldest on its semaphore, below its units, while a swapped-out
context holds units: the acquire and the lowest holder. -/
def State.donationFor (s : State) (p : Part) (c : Cmd) : Option (Cmd × Nat) :=
  if c.opcode = 0x0804 ∧ c.phase = .dispatched ∧ (s.residents p).any (·.id == c.ctx) = true ∧
      s.semCount p.num (c.n 0) < c.n 1 ∧ (s.semWaiters p.num (c.n 0)).all (fun k => decide (c.disp ≤ k.disp)) = true then
    ((minBy (·.id) ((s.partCtxs p.num).filter fun x => x.st == .swapped && decide (0 < x.held (c.n 0)))).map fun x => (c, x.id))
  else none

/-- The acquires of a partition that call for a donation, in the order in which their conditions arose (R327); of those that
arise at one time, the one dispatched first. -/
def State.callers (s : State) (p : Part) : List CmdId :=
  let now := (s.partCmds p.num).filter fun c => (s.donationFor p c).isSome
  let kept := p.callers.filter fun i => now.any (·.id == i)
  kept ++ (orderBy (·.disp) (now.filter fun c => !kept.contains c.id)).map (·.id)

/-- Notes since when each context is blocked (resident) or runnable (swapped out): 0 when it is not, else 1 + the clock; and
the acquires that call for a donation. -/
def State.noteSched (s : State) : State :=
  let us := s.clk.localUs + 1
  { s with
    ctxs := s.ctxs.map fun x => { x with
      blockedSince := if x.inTile && s.blocked x then (if x.blockedSince = 0 then us else x.blockedSince) else 0
      runnableSince := if x.st == .swapped && s.runnable x then (if x.runnableSince = 0 then us else x.runnableSince) else 0 }
    parts := modWhere (·.foot != 0) (fun p => { p with callers := s.callers p }) s.parts }

end Sys2Proof.Machine
end

