-- ==== Sys2Proof/Machine/Control.lean ====
section
/-!
DEFINITION. Query and control, events and semaphores (spec 11 R278, R291, R298, R300, R301). A command's row makes it ready;
its commit is applied by the completion (log 1).
-/
namespace Sys2Proof.Machine

/-! ## CTL_NOP (0x0101) -/

def execCtlNop (c : CmdId) (s : State) : Answer := runOp 0x0101 c s fun s _ _ => (s, some (Result.bare stOK))

/-! ## QUE_CREATE (0x0102): QUEUE, K -/

/-- The lowest unit offset that is a multiple of 2^k and free in the queue area of 32,768 units (R278). -/
def Iface.ringPlace (f : Iface) (k : Nat) : Option Nat :=
  let taken := f.queues.filter (·.2.present)
  ((List.range (32768 / 2 ^ k)).map (· * 2 ^ k)).find? fun b =>
    taken.all fun (_, q) => decide (b + 2 ^ k ≤ q.base) || decide (q.base + 2 ^ q.log2 ≤ b)

def Iface.queuePresent (f : Iface) (q : Nat) : Bool := ((f.queue? q).map (·.present)).getD false

def Queue.absent : Queue :=
  { present := false, base := 0, log2 := 0, head := 0#32, tail := 0#32, next := 0, bells := [], done := [], stopped := false,
    rrAddr := 0#64, rrKey := 0#32, rrCfg := 0#32, rrWr := 0#32, rrHead := 0#32, dying := false }

/-- A queue as it is created. -/
def Queue.new (base k next : Nat) : Queue := { Queue.absent with present := true, base := base, log2 := k, next := next }

def runQueCreate (s : State) (c : Cmd) (e : Env) : State × Option Result :=
  checked s c [(c.off 0, decide (1 ≤ c.n 0) && decide (c.n 0 ≤ 15)), (c.off 1, decide (6 ≤ c.n 1) && decide (c.n 1 ≤ 13))]
    (!e.iface.queuePresent (c.n 0)) [] [] e fun s => (s, some (Result.ok (.queCreate (c.n 0) (c.n 1))))

def execQueCreate (c : CmdId) (s : State) : Answer := runOp 0x0102 c s runQueCreate

/-- The queue is placed at commit; its place is the detail word. -/
def commitQueCreate (s : State) (c : Cmd) (q k : Nat) (r : Result) : State × Result :=
  match s.iface? c.id.iface with
  | none => (s, Result.badState)
  | some f =>
    if f.queuePresent q then (s, Result.badState)
    else match f.ringPlace k with
      | none => (s, Result.bare stNO_RESOURCE)
      | some b =>
        let next := ((f.queue? q).map (·.next)).getD 0
        (s.modIface c.id.iface fun f => { f with queues := Tab.set f.queues q (Queue.new b k next) },
          { r with detail := BitVec.ofNat 32 b })

/-! ## QUE_DESTROY (0x0103): QUEUE -/

/-- Another QUE_DESTROY of the queue has been dispatched and has not completed. -/
def State.destroying (s : State) (c : Cmd) (q : Nat) : Bool :=
  s.cmds.any fun k => k.id.iface == c.id.iface && k.id != c.id && k.opcode == 0x0103 && k.n 0 == q && k.started &&
    decide (k.disp < c.disp)

/-- The uncompleted commands of a queue, but for one. -/
def State.queueCmds (s : State) (i q : Nat) (except : CmdId) : List CmdId :=
  (s.cmds.filter fun k => k.id.iface == i && k.id.queue == q && k.id != except).map (·.id)

def runQueDestroy (s : State) (c : Cmd) (e : Env) : State × Option Result :=
  checked s c [(c.off 0, decide (1 ≤ c.n 0) && decide (c.n 0 ≤ 15))] true [] [] e fun s =>
    let q := c.n 0
    let i := c.id.iface
    if !e.iface.queuePresent q || s.destroying c q then (s, some (Result.bare stALREADY_DONE))
    else
      let s := (s.modQueue i q fun u => { u with dying := true }).modCmd c.id fun k => { k with stage := 1 }
      let s := (s.killAll (s.queueCmds i q c.id)).noteSched
      if (s.queueCmds i q c.id).isEmpty then (s, some (Result.ok (.queDestroy q))) else (s, none)

def execQueDestroy (c : CmdId) (s : State) : Answer := runOp 0x0103 c s runQueDestroy

/-- A dependency on a unit of a queue that is discarded unfetched: its command never completes, so it stays unsatisfied (R284;
log 31). -/
def Dep.unfetched (d : Dep) (q next : Nat) : Dep :=
  if (d.kind = .ok ∨ d.kind = .any) ∧ d.queue = q ∧ next ≤ d.ord then { d with kind := .never } else d

/-- The ring is freed; the ordinals of its unfetched units are passed over. The reply is written before (R298). -/
def freeQueue (s : State) (i q : Nat) : State :=
  let next := ((s.queue? i q).map (·.next)).getD 0
  { s with cmds := modWhere (·.id.iface == i) (fun c => { c with deps := c.deps.map fun d : Dep => d.unfetched q next }) s.cmds }.modQueue i q
    fun u => { Queue.absent with next := u.next + 8192 }

/-! ## CTL_KILL (0x0104): QUEUE, SEQ -/

/-- The most recently fetched command of a queue with a sequence number that has not completed (R298). -/
def State.killTarget (s : State) (c : Cmd) (q seq : Nat) : Option Cmd :=
  (s.cmds.filter fun k => k.id.iface == c.id.iface && k.id.queue == q && k.seq == seq && k.id != c.id).foldl
    (fun m k => match m with
      | none => some k
      | some o => if o.id.ord < k.id.ord then some k else some o) none

/-- A killed command has completed: the killer completes OK. A target that is ATOMIC and past its first write completes with
its own status, and the killer, which keeps that target, then answers ALREADY_DONE. -/
def runCtlKill (s : State) (c : Cmd) (e : Env) : State × Option Result :=
  checked s c [(c.off 0, decide (c.n 0 < 16)), (c.off 1, decide (c.n 1 < 2 ^ 24))] true [] [] e fun s =>
    match (match c.target with | some t => s.cmd? t | none => s.killTarget c (c.n 0) (c.n 1)) with
    | none => (s, some (Result.bare stALREADY_DONE))
    | some t =>
      if t.pastWrite then (s.modCmd c.id fun k => { k with target := some t.id }, none)
      else ((s.killAll [t.id]).noteSched, some (Result.bare stOK))

def execCtlKill (c : CmdId) (s : State) : Answer := runOp 0x0104 c s runCtlKill

/-! ## EVT_SET (0x0801): EVENT, MODE, VALUE; EVT_WAIT (0x0802): EVENT, VALUE -/

def runEvtSet (s : State) (c : Cmd) (e : Env) : State × Option Result :=
  checked s c [(c.off 0, decide (c.n 0 < 256)), (c.off 1, decide (c.n 1 < 2))] true [] [] e fun s =>
    (s, some (Result.ok (.evtSet (c.n 0) (c.n 1 == 1) (c.w 2))))

def execEvtSet (c : CmdId) (s : State) : Answer := runOp 0x0801 c s runEvtSet

def commitEvtSet (s : State) (i e : Nat) (add : Bool) (v : W32) : State :=
  if add then s.addEvent i e v.toNat else s.modIface i fun f => { f with events := Tab.set f.events e v }

def runEvtWait (s : State) (c : Cmd) (e : Env) : State × Option Result :=
  checked s c [(c.off 0, decide (c.n 0 < 256))] true [] [] e fun s =>
    if (c.n 1) ≤ (s.event c.id.iface (c.n 0)).toNat then (s, some (Result.bare stOK)) else (s, none)

def execEvtWait (c : CmdId) (s : State) : Answer := runOp 0x0802 c s runEvtWait

/-! ## SEM_INIT (0x0803): SEM, COUNT; SEM_ACQUIRE (0x0804), SEM_RELEASE (0x0805): SEM, UNITS -/

/-- A semaphore is in use: some context holds units, or some acquire waits (R301). -/
def State.semInUse (s : State) (p m : Nat) : Bool :=
  (s.partCtxs p).any (fun x => decide (0 < x.held m)) || !(s.semWaiters p m).isEmpty

def semOk (n : Nat) : Bool := decide (n < 4096)
def unitsOk (n : Nat) : Bool := decide (1 ≤ n) && decide (n ≤ 65535)

def runSemInit (s : State) (c : Cmd) (e : Env) : State × Option Result :=
  checked s c [(c.off 0, semOk (c.n 0)), (c.off 1, decide (c.n 1 ≤ 65535))] (!s.semInUse e.part.num (c.n 0)) [] [] e fun s =>
    (s, some (Result.ok (.semInit (c.n 0) (c.n 1))))

def execSemInit (c : CmdId) (s : State) : Answer := runOp 0x0803 c s runSemInit

def commitSemInit (s : State) (c : Cmd) (m n : Nat) (r : Result) : State × Result :=
  let p := s.cmdPart c.id
  if s.semInUse p m then (s, Result.badState)
  else (s.modPart p fun q => { q with sems := Tab.set q.sems m n }, r)

/-- Distinct semaphores a context holds. -/
def Ctx.semsHeld (x : Ctx) : Nat := x.sems.countP fun e => decide (0 < e.2)

/-- The context would hold more than 64 semaphores. -/
def Ctx.semsFull (x : Ctx) (m : Nat) : Bool := x.held m == 0 && decide (64 ≤ x.semsHeld)

/-- An acquire waits until it is the oldest waiter and the count covers its units (R301). -/
def runSemAcquire (s : State) (c : Cmd) (e : Env) : State × Option Result :=
  checked s c [(c.off 0, semOk (c.n 0)), (c.off 1, unitsOk (c.n 1))] true [] [] e fun s =>
    if ((s.ctx? c.ctx).map (·.semsFull (c.n 0))).getD false then (s, some (Result.bare stNO_RESOURCE))
    else if (s.semWaiters e.part.num (c.n 0)).any (fun k => decide (k.disp < c.disp)) then (s, none)
    else if s.semCount e.part.num (c.n 0) < c.n 1 then (s, none)
    else (s, some (Result.ok (.semAcquire (c.n 0) (c.n 1))))

def execSemAcquire (c : CmdId) (s : State) : Answer := runOp 0x0804 c s runSemAcquire

def commitSemAcquire (s : State) (c : Cmd) (m u : Nat) (r : Result) : State × Result :=
  let p := s.cmdPart c.id
  match s.ctx? c.ctx with
  | none => (s, Result.badState)
  | some x =>
    if x.semsFull m then (s, Result.bare stNO_RESOURCE)
    else
      ((s.modPart p fun q => { q with sems := Tab.set q.sems m (Tab.get q.sems m 0 - u) }).modCtx c.ctx fun x =>
        { x with sems := Tab.set x.sems m (x.held m + u) }, r)

def runSemRelease (s : State) (c : Cmd) (e : Env) : State × Option Result :=
  checked s c [(c.off 0, semOk (c.n 0)), (c.off 1, unitsOk (c.n 1))]
    (((s.ctx? c.ctx).map fun x => decide (c.n 1 ≤ x.held (c.n 0))).getD false) [] [] e fun s =>
    (s, some (Result.ok (.semRelease (c.n 0) (c.n 1))))

def execSemRelease (c : CmdId) (s : State) : Answer := runOp 0x0805 c s runSemRelease

/-- Units go back to the count of a semaphore. -/
def State.returnUnits (s : State) (p x m u : Nat) : State :=
  (s.modPart p fun q => { q with sems := Tab.set q.sems m (Tab.get q.sems m 0 + u) }).modCtx x fun x =>
    { x with sems := Tab.set x.sems m (x.held m - u) }

def commitSemRelease (s : State) (c : Cmd) (m u : Nat) (r : Result) : State × Result :=
  match s.ctx? c.ctx with
  | none => (s, Result.badState)
  | some x => if u ≤ x.held m then (s.returnUnits (s.cmdPart c.id) c.ctx m u, r) else (s, Result.badState)

end Sys2Proof.Machine
end

