-- ==== Sys2Proof/Machine/Board.lean ====
section
/-!
DEFINITION. Work items and the operand-ready scoreboards (spec 02 R51 to R53; 09 R229): how a product is cut into items, when
an item is ready, and which one a tile's array takes next. The order in which items run changes no result (R52); it
decides when a command has done its work.
-/
namespace Sys2Proof.Machine

/-- Blocks of 128 × 128 elements, numbered in row-major order (spec 02 R47). -/
def Alloc.blocksAcross (a : Alloc) : Nat := (a.cols + 127) / 128
def Alloc.blocksDown (a : Alloc) : Nat := (a.rows + 127) / 128
def Alloc.blockCount (a : Alloc) : Nat := a.blocksAcross * a.blocksDown

/-- A pair of operand formats accumulates in INT32: integers without block scaling (spec 02 R36). -/
def intPair (cx : Nat) (bx : Bool) (cw : Nat) (bw : Bool) : Bool := fmtIsInt cx && fmtIsInt cw && !bx && !bw

/-! ## Cutting a product -/

/-- K per pass: 256 for a pair of FP4 or of INT4, else 128 (Table 2-2). -/
def kPerPass (cx cw : Nat) : Nat := if cx = cw ∧ (cx = 7 ∨ cx = 9) then 256 else 128

/-- A product to cut: its class, the product whose outputs are its input rows, where its weight lies, and its shape with the
K of a pass. -/
structure Product where
  cls : ItemClass
  src : Option Nat
  weight : Nat → Nat → ItemWeight
  m : Nat
  k : Nat
  n : Nat
  kPass : Nat

/-- The passes of a product, each of one weight block over at most 512 input rows; those of one accumulator in increasing
K block (R37). -/
def Product.items (p : Product) (c : CmdId) (number : Nat) : List WorkItem :=
  (List.range ((p.n + 127) / 128)).flatMap fun j => (List.range ((p.m + 511) / 512)).flatMap fun r =>
    (List.range ((p.k + p.kPass - 1) / p.kPass)).map fun b =>
      { cmd := c, cls := p.cls, product := number, src := p.src, weight := p.weight b j, col := j, row := r, k := b }

/-- The items of a command's products, in the order of insertion. -/
def itemsOf (c : CmdId) (ps : List Product) : List WorkItem :=
  ((List.range ps.length).zip ps).flatMap fun (i, p) => p.items c i

/-- The blocks of the forward copy that hold pass b of column block j of a transposed copy. -/
def Alloc.passBlocks (a : Alloc) (kPass b j : Nat) : List Nat :=
  (List.range (kPass / 128)).filterMap fun i =>
    let d := b * (kPass / 128) + i
    if d < a.blocksAcross then some (j * a.blocksAcross + d) else none

/-! ## Readiness -/

/-- The items of a command that have not run. -/
def State.itemsLeft (s : State) (c : CmdId) : List WorkItem :=
  s.boards.flatMap fun b => (b.2.entries ++ b.2.held).filter (·.cmd == c)

/-- A block of a transposed copy carries the epoch of its forward block (R49). -/
def Alloc.tagCurrent (a : Alloc) (b : Nat) : Bool :=
  match a.tcopy with
  | some t => Tab.get t.tags b 0#32 == Tab.get a.blockEpochs b 0#32 && !t.queued.contains b
  | none => false

/-- The weight block of an item is there: the traversal has come past its entry, or its transposed blocks are current. -/
def State.weightReady (s : State) (i : WorkItem) : Bool :=
  match i.weight with
  | .home => true
  | .entry k => ((s.cmd? i.cmd).bind (·.nextEntry)).all fun n => decide (k < n)
  | .transposed h bs => ((s.alloc? (s.cmdPart i.cmd) h).map fun a => bs.all a.tagCurrent).getD false

/-- The input rows of an item: no item of the product that forms them is left. -/
def State.rowsReady (s : State) (i : WorkItem) : Bool :=
  i.src.all fun p => (s.itemsLeft i.cmd).all fun x => x.product != p

/-- The accumulator rows of an item: every earlier pass of its chain has run (R52). -/
def State.chainReady (s : State) (i : WorkItem) : Bool :=
  (s.itemsLeft i.cmd).all fun x => !(x.product == i.product && x.col == i.col && x.row == i.row && decide (x.k < i.k))

def State.itemReady (s : State) (i : WorkItem) : Bool := s.weightReady i && s.rowsReady i && s.chainReady i

/-! ## Insertion and issue -/

def Board.empty : Board := { entries := [], held := [] }

/-- An item goes to the end of a tile's scoreboard, or is held while that is full (R53). -/
def Board.insert (b : Board) (i : WorkItem) : Board := Board.topUp { b with held := b.held ++ [i] }

/-- The entry that the array takes next: the oldest that is ready (R51). -/
def Board.oldestReady (ready : WorkItem → Bool) (b : Board) : Option WorkItem := b.entries.find? ready

/-- An entry leaves the scoreboard, and one that was held takes its place. -/
def Board.issue (b : Board) (i : WorkItem) : Board := Board.topUp { b with entries := dropFirst (· == i) b.entries }

/-- The first tile whose array can take an item, with that item. -/
def State.nextItem (s : State) : Option (Nat × WorkItem) :=
  s.boards.findSome? fun (t, b) => (b.oldestReady s.itemReady).map fun i => (t, i)

/-- Scoreboards that hold nothing are not listed. -/
def Board.tidy (bs : Tab Board) : Tab Board := bs.filter fun b => !(b.2.entries.isEmpty && b.2.held.isEmpty)

/-- Every array takes items as long as one is ready. -/
def State.drainBoards : Nat → State → State
  | 0, s => s
  | n + 1, s =>
    match s.nextItem with
    | none => s
    | some (t, i) => State.drainBoards n { s with boards := Tab.mod s.boards t Board.empty (·.issue i) }

/-- The items of a command on the scoreboards of the tiles that serve them (spec 05 R476). -/
def State.insertItems (s : State) (c : Cmd) (e : Env) (is : List WorkItem) : State :=
  { s with boards := ((List.range is.length).zip is).foldl (fun bs (k, i) =>
      Tab.mod bs (e.part.firstTile + (assignTo e.fw c.opcode c.args e.part.tiles (2 ^ 50 + k) (2 ^ 50 + k)).tile) Board.empty (·.insert i)) s.boards }

/-- A command inserts its work items once, and the arrays run what is ready. -/
def State.runItems (s : State) (c : Cmd) (e : Env) (ps : List Product) : State :=
  let s := if ((s.cmd? c.id).map (·.inserted)).getD false then s
    else (s.insertItems c e (itemsOf c.id ps)).modCmd c.id fun k => { k with inserted := true }
  let s := State.drainBoards (sumBy (fun b => b.2.entries.length + b.2.held.length) s.boards) s
  { s with boards := Board.tidy s.boards }

/-- Every item of a command has run. -/
def State.itemsDone (s : State) (c : CmdId) : Bool := (s.itemsLeft c).isEmpty

end Sys2Proof.Machine
end

