-- ==== Sys2Proof/Machine/Sfu.lean ====
section
/-!
DEFINITION. The special functions (spec 04 R85-R88, Tables 4-1 and 4-2) and the custom activation tables (R105, R106).
The coefficient set fixes the value a function returns within the bounds of R87 and is not published: the value is free
within those bounds (log 6). The bounds are taken about an exact result formed here with far more bits than they need.
-/
namespace Sys2Proof.Machine

/-- ln 2 × 2^128. -/
def ln2Fixed : Nat := 235865763225513294137944142764154484399
/-- 1/√(2π) × 2^448. -/
def invSqrt2PiFixed : Nat := 289966698154557622423897300899371743398715276493948281784612146437488796727887355612092654034700939396199203072643816371333065762280723
/-- √(2/π) × 2^128. -/
def sqrt2OverPiFixed : Nat := 271506046879672464325182014351570923903

/-- Σ r^i / i! from term i on, with r and the terms scaled by 2^128. -/
def expSeries : Nat → Nat → Nat → Nat → Nat
  | 0, _, _, acc => acc
  | k + 1, r, term, acc => expSeries k r (term * r / 2 ^ 128 / (40 - k)) (acc + term)

/-- e^v for |v| ≤ 400, as a fraction; v is a fraction n / d with its sign. Beyond, e^±400. -/
def expFrac (neg : Bool) (n d : Nat) : Nat × Nat :=
  let x0 := n * 2 ^ 128 / d
  let x := if x0 > 400 * 2 ^ 128 then 400 * 2 ^ 128 else x0
  if neg then
    -- e^-x = e^r × 2^-k with r = k ln2 - x in [0, ln2)
    let k := (x + ln2Fixed - 1) / ln2Fixed
    let e := expSeries 40 (k * ln2Fixed - x) (2 ^ 128) 0
    (e, 2 ^ (128 + k))
  else
    let k := x / ln2Fixed
    let e := expSeries 40 (x - k * ln2Fixed) (2 ^ 128) 0
    (e * 2 ^ k, 2 ^ 128)

/-- Σ t^(2i+1) / (2i+1), terms scaled by 2^128; t2 is t². -/
def atanhSeries : Nat → Nat → Nat → Nat → Nat → Nat
  | 0, _, _, _, acc => acc
  | k + 1, t2, pow, i, acc => atanhSeries k t2 (pow * t2 / 2 ^ 128) (i + 2) (acc + pow / i)

/-- ln (n / d) × 2^128 for n and d positive. -/
def lnFixed (n d : Nat) : Int :=
  let e := floorLog2 n d
  let (a, b) := scaleBy n d e
  let t := (a - b) * 2 ^ 128 / (a + b)
  e * (ln2Fixed : Int) + (2 * atanhSeries 44 (t * t / 2 ^ 128) t 1 0 : Nat)

/-- A signed number over 2^128 as a value. -/
def fixedVal (x : Int) : Val := .num (decide (x < 0)) x.natAbs (2 ^ 128)

/-- 1/√(n/d). -/
def rsqrtVal (n d : Nat) : Val := .num false (isqrt (d * 2 ^ 320 / n)) (2 ^ 160)

/-- 1 / (1 + e^-v). -/
def sigmoidFrac (neg : Bool) (n d : Nat) : Nat × Nat :=
  let (e, f) := expFrac true n d
  if neg then (e, e + f) else (f, e + f)

def tanhVal (neg : Bool) (n d : Nat) : Val :=
  if n * 2 ^ 20 < d then
    -- z - z^3/3
    .num neg (n * (3 * d * d - n * n)) (3 * d * d * d)
  else
    let (e, f) := expFrac true (2 * n) d
    .num neg (f - e) (f + e)

/-- Σ (-1)^i z^(2i+1) / (i! 2^i (2i+1)), scaled by 2^448, for z = x / 2^448. -/
def phiSeries : Nat → Nat → Nat → Nat → Int → Int
  | 0, _, _, _, acc => acc
  | k + 1, z2, pow, i, acc =>
    phiSeries k z2 (pow * z2 / 2 ^ 448 / (2 * (i + 1))) (i + 1)
      (if i % 2 = 0 then acc + ((pow / (2 * i + 1) : Nat) : Int) else acc - ((pow / (2 * i + 1) : Nat) : Int))

/-- The normal distribution function at ± n / d, for n / d at most 15, scaled by 2^448. -/
def phiFixed (neg : Bool) (n d : Nat) : Nat :=
  let x := n * 2 ^ 448 / d
  let s := phiSeries 500 (x * x / 2 ^ 448) x 0 0
  let t := s * (invSqrt2PiFixed : Int) / 2 ^ 448
  let r : Int := if neg then 2 ^ 447 - t else 2 ^ 447 + t
  r.toNat

/-- z × Φ(z). Below -15 the result rounds to -0; above 15 to z. -/
def geluErf (neg : Bool) (n d : Nat) : Val :=
  if n ≥ 15 * d then (if neg then .num true 0 1 else .num false n d)
  else .num neg (n * phiFixed neg n d) (d * 2 ^ 448)

/-- z × ½(1 + tanh(u)) = z × sigmoid(2u), u = √(2/π)(z + 0.044715 z³). -/
def geluTanh (neg : Bool) (n d : Nat) : Val :=
  let un := 2 * sqrt2OverPiFixed * n * (1000000 * d * d + 44715 * n * n)
  let ud := 2 ^ 128 * 1000000 * d * d * d
  let (a, b) := sigmoidFrac neg un ud
  .num neg (n * a) (d * b)

/-- ln(1 + e^v). -/
def softplusVal (neg : Bool) (n d : Nat) : Val :=
  let (e, f) := expFrac true n d
  if neg ∧ e * 2 ^ 30 < f then .num false (e * (6 * f * f - 3 * e * f + 2 * e * e)) (6 * f * f * f)
  else
    let l := lnFixed (e + f) f
    if neg then fixedVal l else Val.add (.num false n d) (fixedVal l)

/-- The exact result of a function at a finite nonzero operand, to at least 80 bits; NaN outside its domain. -/
def sfuExact (code : Nat) (neg : Bool) (n d : Nat) : Val :=
  match code with
  | 0x00 => let (a, b) := expFrac neg n d; .num false a b
  | 0x01 => if neg then .nan else
    let l := lnFixed n d
    .num (decide (l < 0)) l.natAbs ln2Fixed
  | 0x02 => if neg then .nan else fixedVal (lnFixed n d)
  | 0x03 => .num neg d n
  | 0x04 => if neg then .nan else rsqrtVal n d
  | 0x05 => let (a, b) := sigmoidFrac neg n d; .num false a b
  | 0x06 => tanhVal neg n d
  | 0x07 => let (a, b) := sigmoidFrac neg n d; .num neg (n * a) (d * b)
  | 0x08 => geluErf neg n d
  | 0x09 => geluTanh neg n d
  | _ => softplusVal neg n d

/-- The error bound of an FP32 output in ulp (Table 4-1). -/
def sfuUlps (code : Nat) : Nat :=
  match code with
  | 0x00 => 2 | 0x02 => 2 | 0x03 => 2 | 0x04 => 2 | _ => 4

/-- Special operands and domain edges (Table 4-2). -/
def sfuSpecial (code : Nat) (v : Val) : Option W32 :=
  match v with
  | .nan => some nan32
  | .inf true =>
    some (match code with
      | 0x00 => zero32 false | 0x01 => nan32 | 0x02 => nan32 | 0x03 => zero32 true | 0x04 => nan32
      | 0x05 => zero32 false | 0x06 => 0xBF800000#32 | 0x0A => zero32 false | _ => zero32 true)
  | .inf false =>
    some (match code with
      | 0x03 => zero32 false | 0x04 => zero32 false | 0x05 => one32 | 0x06 => one32 | _ => inf32 false)
  | .num neg 0 _ =>
    match code with
    | 0x00 => some one32 | 0x01 => some (inf32 true) | 0x02 => some (inf32 true) | 0x03 => some (inf32 neg)
    | 0x04 => some (inf32 neg) | 0x05 => some 0x3F000000#32 | 0x0A => none | _ => some (zero32 neg)
  | .num .. => none

/-- |c - x| ≤ (k - 2^-60) × u, with u the FP32 spacing at x: the exact result is formed to within 2^-60 of a spacing. A
reciprocal is formed exactly and takes the whole bound. -/
def withinUlps (code k : Nat) (x c : Val) : Bool :=
  match x, x.sub c with
  | .num _ n d, .num _ a b =>
    let q := if n = 0 then -149 else spacing 23 (-126) n d
    let (a', b') := scaleBy a b q
    decide (a' * 2 ^ 60 ≤ (k * 2 ^ 60 - if code = 3 then 0 else 1) * b')
  | _, _ => false

/-- A function whose results for negative operands lie in [0, 1], or for all lie in [-1, 1], keeps that range. -/
def sfuInRange (code : Nat) (neg : Bool) (c : W32) : Bool :=
  if code = 0 ∧ neg then fle c one32 && !(bitTop c)
  else if code = 0 ∨ code = 5 ∨ code = 10 then !(bitTop c)
  else true
where bitTop (w : W32) : Bool := w.toNat / 2 ^ 31 == 1

/-- The special-function unit's result for an operand, in FP32, under the coefficient set of the running image, whose
tables boot loads (R86 to R88, R107). -/
def sfu (cv : W16) (code : Nat) (w : W32) : W32 :=
  match sfuSpecial code (decode32 w) with
  | some r => r
  | none =>
    let exact := match decode32 w with
      | .num _ 0 _ => fixedVal ln2Fixed
      | .num neg n d => sfuExact code neg n d
      | v => v
    let nearest := encode32 exact
    if isNan nearest || isInf nearest then nearest
    else
      let c := Config.sfu cv code w
      if withinUlps code (sfuUlps code) exact (decode32 c) && sfuInRange code (w.toNat / 2 ^ 31 == 1) c then c else nearest

def fexp (cv : W16) (w : W32) : W32 := sfu cv 0 w
def fln (cv : W16) (w : W32) : W32 := sfu cv 2 w
def frsqrt (cv : W16) (w : W32) : W32 := sfu cv 4 w

/-- A function code that Table 4-1 defines. -/
def sfuCodeOk (code : Nat) : Bool := decide (code ≤ 0x0A) || (decide (0x10 ≤ code) && decide (code ≤ 0x13))

/-! ## Custom activation tables -/

/-- The words of a slot that TABLE_LOAD accepts (R105): 1,030 of them. -/
def customOk (ws : List W32) : Bool :=
  ws.length == 1030 && (decode32 (ws.getD 0 0#32)).isFinite && posNormal (ws.getD 1 0#32) &&
  (ws.drop 2).all fun w => (decode32 w).isFinite

/-- A slot evaluated at an operand (R106). -/
def customEval (ws : List W32) (x : W32) : W32 :=
  let g := fun i => ws.getD i 0#32
  let line (slope icpt : W32) (side : Bool) : W32 :=
    if isZero slope then icpt else inf32 ((slope.toNat / 2 ^ 31 == 1) != side)
  if isNan x then nan32
  else match decode32 x with
    | .inf true => line (g 2) (g 3) true
    | .inf false => line (g 4) (g 5) false
    | _ =>
      let u := fmul (fsub x (g 0)) (g 1)
      match decode32 u with
      | .num neg n d =>
        if neg && n != 0 then ffma (g 2) x (g 3)
        else if n ≥ 256 * d then ffma (g 4) x (g 5)
        else
          let i := n / d
          let t := encode32 (.num false (n % d) d)
          let c := fun k => g (6 + 4 * i + k)
          ffma (ffma (ffma (c 3) t (c 2)) t (c 1)) t (c 0)
      | .inf true => ffma (g 2) x (g 3)
      | .inf false => ffma (g 4) x (g 5)
      | .nan => nan32

end Sys2Proof.Machine
end

