-- ==== Sys2Proof/Machine/Rows.lean ====
section
/-!
DEFINITION. The row operations and the loss operations on FP32 rows (spec 04 R89-R98, R110-R113), and the sampler's choice
from a score row (spec 05 R136-R139).
-/
namespace Sys2Proof.Machine

def negInf : W32 := inf32 true
def posInf : W32 := inf32 false

/-- A row scaled by c; skipped when c is 1.0 (R91). -/
def scaleRow (c : W32) (xs : List W32) : List W32 := if c = one32 then xs else xs.map fun x => fmul x c

/-- The largest entry of a row without NaN; −∞ of an empty row. -/
def rowMax (ys : List W32) : W32 := ys.foldl (fun m y => if flt m y then y else m) negInf

/-- How a row stands with respect to R92. -/
inductive RowKind where
  | hasNan | allNegInf | hasPosInf (k : Nat) | ordinary
deriving DecidableEq, Repr, Inhabited

def rowKind (ys : List W32) : RowKind :=
  if ys.any isNan then .hasNan
  else
    let k := ys.countP (· == posInf)
    if k ≠ 0 then .hasPosInf k
    else if ys.all (· == negInf) then .allNegInf
    else .ordinary

/-- Passes 1 and 2 of R91 on a scaled row: its maximum, the exponentials, their sum. -/
def passes (cv : W16) (ys : List W32) : W32 × List W32 × W32 :=
  let m := rowMax ys
  let es := ys.map fun y => if y = negInf then 0#32 else fexp cv (fsub y m)
  (m, es, pairSum es)

/-- The soft maximum of a row (R91, R92). -/
def softmaxRow (cv : W16) (c : W32) (xs : List W32) : List W32 :=
  let ys := scaleRow c xs
  match rowKind ys with
  | .hasNan => ys.map fun _ => nan32
  | .allNegInf => ys.map fun _ => 0#32
  | .hasPosInf k => ys.map fun y => if y = posInf then fdiv one32 (ofNat32 k) else 0#32
  | .ordinary =>
    let (_, es, t) := passes cv ys
    let q := fdiv one32 t
    es.map fun e => fmul e q

/-- The log soft maximum of a row (R94). -/
def logSoftmaxRow (cv : W16) (c : W32) (xs : List W32) : List W32 :=
  let ys := scaleRow c xs
  match rowKind ys with
  | .hasNan => ys.map fun _ => nan32
  | .allNegInf => ys.map fun _ => negInf
  | .hasPosInf k => ys.map fun y => if y = posInf then fln cv (fdiv one32 (ofNat32 k)) else negInf
  | .ordinary =>
    let (m, _, t) := passes cv ys
    let l := fln cv t
    ys.map fun y => if y = negInf then negInf else fsub (fsub y m) l

/-- Mean and variance of a row (R95, R96): an overflow of S2 gives a variance of +∞. -/
def meanVar (xs : List W32) : W32 × W32 :=
  if xs.any fun x => isNan x || isInf x then (nan32, nan32)
  else
    let x0 := xs.headD 0#32
    let n := ofNat32 xs.length
    let ds := xs.map fun x => fsub x x0
    let m1 := fdiv (pairSum ds) n
    let s2 := pairSum (ds.map fun d => fmul d d)
    (fadd x0 m1, if s2 = posInf then posInf else fmax 0#32 (fsub (fdiv s2 n) (fmul m1 m1)))

/-- Statistics and normalisation of a row with gain and bias (R97): mean, rstd, normalised values. -/
def normRow (cv : W16) (eps : W32) (gain bias : List W32) (xs : List W32) : W32 × W32 × List W32 :=
  let (mean, var) := meanVar xs
  let v := fadd var eps
  let rstd := if isZero v then 0#32 else frsqrt cv v
  (mean, rstd, (List.range xs.length).map fun j =>
    if isNan mean then nan32
    else if isZero v then bias.getD j 0#32
    else ffma (fmul (fsub (xs.getD j 0#32) mean) rstd) (gain.getD j one32) (bias.getD j 0#32))

/-- The root-mean-square statistic and normalisation of a row (R98). -/
def rmsRow (cv : W16) (eps : W32) (gain : List W32) (xs : List W32) : W32 × List W32 :=
  if xs.any fun x => isNan x || isInf x then (nan32, xs.map fun _ => nan32)
  else
    let v := fadd (fdiv (pairSum (xs.map fun x => fmul x x)) (ofNat32 xs.length)) eps
    let rstd := if isZero v then 0#32 else frsqrt cv v
    (rstd, (List.range xs.length).map fun j =>
      if isZero v then 0#32 else fmul (fmul (xs.getD j 0#32) rstd) (gain.getD j one32))

/-- The log-softmax gather and entropy of a row at a target (R110, R111): lp, m, ln s, H. -/
def gatherRow (cv : W16) (c : W32) (target : Nat) (xs : List W32) : W32 × W32 × W32 × W32 :=
  let ys := scaleRow c xs
  let m := rowMax ys
  match rowKind ys with
  | .hasNan => (nan32, nan32, nan32, nan32)
  | .allNegInf => (if target < ys.length then negInf else nan32, negInf, negInf, 0#32)
  | .hasPosInf k =>
    let q := fln cv (fdiv one32 (ofNat32 k))
    let lp := if target < ys.length then (if ys.getD target 0#32 = posInf then q else negInf) else nan32
    (lp, m, fln cv (ofNat32 k), fln cv (ofNat32 k))
  | .ordinary =>
    let (m, es, t) := passes cv ys
    let l := fln cv t
    let lp := if target < ys.length then
      (let y := ys.getD target 0#32; if y = negInf then negInf else fsub (fsub y m) l) else nan32
    let tsum := pairSum ((es.zip ys).map fun (e, y) => if y = negInf then 0#32 else fmul e (fsub y m))
    (lp, m, l, fmax 0#32 (fsub l (fdiv tsum t)))

/-- The clipped policy ratio of a token (R112): loss, dloss/dlp, clipped. Where lp − b is NaN though none of lp, b and A
is, `u <= w` fails and the second branch is taken. -/
def clipToken (cv : W16) (eps dual lp b a : W32) : W32 × W32 × Bool :=
  if isNan lp || isNan b || isNan a then (nan32, nan32, false)
  else if isZero a then (0#32, 0#32, false)
  else
    let rho := fexp cv (fsub lp b)
    let u := fmul rho a
    let w := fmul (fmin (fmax rho (fsub one32 eps)) (fadd one32 eps)) a
    let (term, g, cl) := if fle u w then (u, u, false) else (w, 0#32, true)
    let (term, g, cl) :=
      if flt 0#32 dual && flt a 0#32 && flt term (fmul dual a) then (fmul dual a, 0#32, true) else (term, g, cl)
    (if isZero term then 0#32 else fneg term, if isZero g then 0#32 else fneg g, cl)

/-- The weighted reduction (R113): L and the gradients. `mode`: 0 sum of weights, 1 tokens of nonzero weight, 2 the constant
k. -/
def reduceLoss (mode : Nat) (k : W32) (ls gs ws : List W32) : W32 × List W32 :=
  let skip := ws.map isZero
  let terms := ((ls.zip ws).zip skip).map fun ((l, w), z) => if z then 0#32 else fmul w l
  let n := match mode with
    | 0 => pairSum (ws.map fun w => if isZero w then 0#32 else w)
    | 1 => ofNat32 (skip.countP (!·))
    | _ => k
  if isZero n then (0#32, gs.map fun _ => 0#32)
  else (fdiv (pairSum terms) n,
    ((gs.zip ws).zip skip).map fun ((g, w), z) => if z then 0#32 else fdiv (fmul w g) n)

/-! ## The sampler (spec 05 R136 to R139) -/

/-- Sampling parameters: the coefficient set, the bound temperature entry, LP_MODE, TOPK, TOPP. -/
structure Sampling where
  cv : W16
  c : W32
  lpAll : Bool
  topk : Nat
  topp : W32
deriving DecidableEq, Repr, Inhabited

/-- A row made ready for a choice (R136, R137): none for a row that yields no token; else the kept entries' weights (0
where not kept), which entries are kept, the sum of the kept, the maximum, the scaled row, and the sum over all entries. -/
structure Prepared where
  es : List W32
  keep : List Bool
  s : W32
  m : W32
  ys : List W32
  sAll : W32
  infs : Nat
deriving DecidableEq, Repr, Inhabited

/-- A list of finite FP32 values sorted from the largest down, by insertion. -/
def insertDesc (x : W32) : List W32 → List W32
  | [] => [x]
  | y :: r => if flt x y then y :: insertDesc x r else x :: y :: r

def sortDesc (l : List W32) : List W32 := l.foldr insertDesc []

/-- e_i = exp(y_i − m), with the cases of R137. -/
def sampleExp (cv : W16) (m : W32) (infs : Nat) (y : W32) : W32 :=
  if infs ≠ 0 then (if y = posInf then one32 else 0#32)
  else if y = negInf then 0#32 else fexp cv (fsub y m)

def prepare (p : Sampling) (xs : List W32) : Option Prepared :=
  let ys := if isZero p.c then xs else xs.map fun x => fmul x p.c
  match rowKind ys with
  | .hasNan => none
  | .allNegInf => none
  | _ =>
    let infs := ys.countP (· == posInf)
    let m := rowMax ys
    let keep1 := if p.topk > 0 ∧ p.topk < ys.length then
      (let v := (sortDesc ys).getD (p.topk - 1) negInf; ys.map fun y => fle v y) else ys.map fun _ => true
    let all := ys.map (sampleExp p.cv m infs)
    let e1 := (all.zip keep1).map fun (e, k) => if k then e else 0#32
    let keep := if flt p.topp one32 then
      (let need := fmul p.topp (pairSum e1)
       let mass := fun (th : W32) => pairSum (e1.map fun e => if fle th e then e else 0#32)
       let cands := sortDesc ((e1.zip keep1).filterMap fun (e, k) => if k then some e else none)
       let th := (cands.find? fun th => fle need (mass th)).getD 0#32
       (e1.zip keep1).map fun (e, k) => k && fle th e) else keep1
    let es := (all.zip keep).map fun (e, k) => if k then e else 0#32
    some { es := es, keep := keep, s := pairSum es, m := m, ys := ys, sAll := pairSum all, infs := infs }

/-- The choice of R136 with the word w: the token's index. An entry of −∞ is never chosen (R137). -/
def choose (p : Sampling) (r : Prepared) (w : W32) : Nat :=
  if isZero p.c then (r.ys.findIdx? (fun y => feq y r.m)).getD 0
  else
    let t := fmul (encode32 (.num false w.toNat (2 ^ 32))) r.s
    let rec go : List (W32 × Bool) → Nat → W32 → Nat → Nat
      | [], _, _, last => last
      | (e, k) :: rest, i, acc, last =>
        if k then
          let acc := fadd acc e
          if flt t acc then i else go rest (i + 1) acc i
        else go rest (i + 1) acc last
    go (r.es.zip ((r.keep.zip r.ys).map fun (k, y) => k && y != negInf)) 0 0#32 0

/-- The log-probability recorded for entry j (R139). -/
def logProb (p : Sampling) (r : Prepared) (j : Nat) : W32 :=
  if isZero p.c then 0#32
  else if r.infs ≠ 0 then fneg (fln p.cv r.s)
  else fsub (fsub (r.ys.getD j 0#32) r.m) (fln p.cv (if p.lpAll then r.sAll else r.s))

/-- One decision: token and log-probability; none for a row of R137 that yields no token. -/
def sampleRow (p : Sampling) (xs : List W32) (w : W32) : Option (Nat × W32) :=
  (prepare p xs).map fun r => let j := choose p r w; (j, logProb p r j)

end Sys2Proof.Machine
end

