-- ==== Sys2Proof/Machine/Compute.lean ====
section
/-!
DEFINITION. The compute family but for the matrix product: element-wise operations, function evaluation, row and loss
operations, and the loads of scales and tables (spec 04; 03 R74-R77; 05 R135; 11 Table 11-7).
-/
namespace Sys2Proof.Machine

/-- Splits a list into rows of n. -/
def rowsOf (n : Nat) : Nat → List W32 → List (List W32)
  | 0, _ => []
  | k + 1, l => l.take n :: rowsOf n k (l.drop n)

/-- The row length of R90, dividing the elements read. -/
def rowLenOk (n len : Nat) : Bool := decide (1 ≤ n) && decide (n ≤ 1048576) && len % n == 0

/-- A command of the context holds the generators and this one would draw from them. -/
def mustWait (s : State) (c : Cmd) (e : Env) (outs : List TRef) : Bool :=
  outs.any (·.stoch) && !((e.first.ctx.map (·.det)).getD false) && s.generatorHeld c e.part.tiles

/-- Completes with encoded outputs, whose elements `at_` assigns: waits for the generators when it draws (spec 05 R123). -/
def finishAt (s : State) (c : Cmd) (e : Env) (at_ : Nat → Nat → Spot) (outs : List OutSpec) (r : Result) : State × Option Result :=
  if mustWait s c e (outs.map (·.ref)) then (s, none)
  else
    let (ws, x) := encodeOuts c e at_ outs (s.drawer e)
    let drew := (outs.any (·.ref.stoch)) && !((e.first.ctx.map (·.det)).getD false)
    (s, some (outputsResult c ws (if drew then some x.gens else none) r))

/-- The outputs of an element-wise command. -/
def finishOuts (s : State) (c : Cmd) (e : Env) (outs : List OutSpec) (r : Result) : State × Option Result :=
  finishAt s c e (c.spot e) outs r

/-- The outputs of a row command; `per` gives the elements of a row in each output. -/
def finishRows (s : State) (c : Cmd) (e : Env) (per : Nat → Nat) (outs : List OutSpec) (r : Result) : State × Option Result :=
  finishAt s c e (c.rowSpot e per) outs r

/-! ## VEC_EWISE (0x0302): OP, A, B, C, OUT -/

/-- The value of an element-wise operation: code 0 copies and converts; what another code computes is free (log 9). -/
def vecValue (op : Nat) (a b c : W32) : W32 := if op = 0 then a else Config.vecOp op a b c

/-- Element i of an operand: an absent operand reads +0. -/
def nth (l : List W32) (i : Nat) : W32 := l.getD i 0#32

/-- Whether element k of an allocation, as it stands, or its block scale, lies in an uncorrectable check unit. -/
def elemBad (a : Alloc) (k : Nat) : Bool :=
  !(unitsHit a a.uncorr (a.elemBit k / 8) ((a.elemBit k + fmtBits a.code + 7) / 8)).isEmpty ||
  (a.block && !(unitsHit a a.uncorr (a.scaleAddr k) (a.scaleAddr k + 1)).isEmpty)

def Alloc.blockOf (a : Alloc) (k : Nat) : Nat := k / a.cols / 128 * a.blocksAcross + k % a.cols / 128

/-- The element indices of a block. -/
def Alloc.blockElems (a : Alloc) (b : Nat) : List Nat :=
  let r0 := b / a.blocksAcross * 128
  let c0 := b % a.blocksAcross * 128
  (List.range 128).flatMap fun i => (List.range 128).filterMap fun j =>
    if r0 + i < a.rows ∧ c0 + j < a.cols then some ((r0 + i) * a.cols + c0 + j) else none

/-- Queues the transposes of blocks (R47), each with an epoch for its forward contents. The commit of the command gives them
their job; before it no engine takes them (R48). -/
def Alloc.queueBlocks (a : Alloc) (bs : List Nat) (epoch : Option W32) : Alloc :=
  match a.tcopy with
  | none => a
  | some t =>
    { a with
      tcopy := some { t with queued := bs.foldl (fun q b => addOnce b q) t.queued, jobs := t.jobs.filter fun j => !bs.contains j.1 }
      blockEpochs := match epoch with
        | some e => bs.foldl (fun m b => Tab.set m b e) a.blockEpochs
        | none => a.blockEpochs }

/-- The blocks in which a write changes an element; none for elements of a frozen parameter block (09 R249). -/
def Alloc.changedBlocks (a : Alloc) (w : TWrite) : List Nat :=
  let moved := (w.scales.filter fun (p, b) => Mem.get a.mem a.dflt p != b).map fun x : Nat × Byte => x.1
  w.elems.foldl (fun l (k, x) =>
    if a.frozen.contains (k / 64) = true then l
    else if a.pattern k = x ∧ (a.block = false ∨ moved.contains (a.scaleAddr k) = false) then l else addOnce (a.blockOf k) l) []

/-- The bytes that a write changes: of its elements and its scales. -/
def TWrite.ranges (w : TWrite) (a : Alloc) : List (Nat × Nat) :=
  (w.elems.map fun (k, _) => (a.elemBit k / 8, (a.elemBit k + fmtBits a.code + 7) / 8)) ++
  (w.scales.map fun x : Nat × Byte => (x.1, x.1 + 1))

/-- A write: elements, decode scale and fresh check bits; the changed blocks of a learner's weight queue for transposition
(spec 11 R297; 06 R166; 02 R47). An armed injection damages what it selects. -/
def State.writeNow (s : State) (p : Nat) (w : TWrite) : State :=
  let us := match s.contents p w.handle with | some a => a.unitsOf (w.ranges a) | none => []
  (s.modContents p w.handle fun a =>
    let blocks := if a.tcopy.isSome then a.changedBlocks w else []
    let a := ((a.putElems w.elems).putScales w.scales).queueBlocks blocks none
    { a with dscale := w.dscale.getD a.dscale, uncorr := a.uncorr.filter fun u => !us.contains u,
             corr := a.corr.filter fun u => !us.contains u }).strike p w.handle us

/-- Whether an operand of element i of an element-wise command lies in an uncorrectable unit of the contents now. -/
def operandBad (s : State) (p : Nat) (rs : List TRef) (i : Nat) : Bool :=
  rs.any fun r => ((s.contents p r.handle).map fun b => elemBad b (r.off + i)).getD false

/-- An ATOMIC element-wise command: it writes what it can in place, and completes with UNCORRECTABLE and the count of
unwritten elements in DETAIL when an input element cannot be read (spec 11 R297). A command that ends so leaves the
generators where they were (spec 05 R122). -/
def vecAtomic (s : State) (c : Cmd) (e : Env) (spec : OutSpec) (a : Alloc) : State × Option Result :=
  if mustWait s c e [spec.ref] then (s, none)
  else
    let vs := spec.vals.take (spec.ref.len a)
    let p := e.part.num
    let copy := s.copyIndex c
    let seen := s.facedTo p copy
    let good := fun (i : Nat) => !operandBad seen p [c.t 1, c.t 2, c.t 3] i
    let (bits, x) := roundBits c e (c.spot e) 0 a spec.ref vs.length (s.drawer e)
    let w := encodeSome a spec.ref.conv (if spec.ref.ds = 0#32 then none else some spec.ref.ds)
      (((List.range vs.length).filter good).map fun i => (spec.ref.off + i, decode32 (nth vs i), bits.getD i none))
    let missed := (List.range vs.length).countP fun i => !good i
    let drew := spec.ref.stoch && !e.det && missed == 0
    let need := s.reserveNeed p [w]
    match s.takeReserve c (some c.id) need with
    | none => (s.stall c.id need, none)
    | some s =>
      (s.facing p copy fun s => s.writeNow p w, some { Result.bare stOK with
        status := if missed = 0 then stOK else stUNCORRECTABLE
        detail := BitVec.ofNat 32 missed
        writes := [{ w with elems := [], scales := [] }]
        gens := if drew then some x.gens else none
        always := true })

def vecFields (c : Cmd) (e : Env) : List Check :=
  let n := e.len (c.t 4)
  inputChecks e (c.off 1) (c.t 1) ++ optional (inputChecks e (c.off 2) (c.t 2)) (c.off 2) (c.t 2) ++
  optional (inputChecks e (c.off 3) (c.t 3)) (c.off 3) (c.t 3) ++ outputChecks e (c.off 4) (c.t 4) ++
  [ (c.off 1 + 24, e.len (c.t 1) == n),
    (c.off 2 + 24, (c.t 2).handle == 0#32 || e.len (c.t 2) == n),
    (c.off 3 + 24, (c.t 3).handle == 0#32 || e.len (c.t 3) == n),
    (c.off 4 + 24, !bitAt c.flags 0 || decide (n ≤ 2 ^ 22)) ]

/-- The output of VEC_EWISE: the operation on each element of its operands. -/
def vecOut (c : Cmd) (e : Env) : OutSpec :=
  let va := e.values (c.t 1)
  let vb := e.values (c.t 2)
  let vc := e.values (c.t 3)
  { ordinal := 0, ref := c.t 4, vals := (List.range va.length).map fun i => vecValue (c.n 0) (nth va i) (nth vb i) (nth vc i) }

def runVecEwise (s : State) (c : Cmd) (e : Env) : State × Option Result :=
  let refs := [c.t 1, c.t 2, c.t 3]
  checked s c (vecFields c e) true [] (if bitAt c.flags 0 then [] else refs) e fun s =>
    let spec := vecOut c e
    if bitAt c.flags 0 then
      match e.alloc? (c.t 4).handle with
      | some a => vecAtomic ((s.readRefs c e refs).1.modCmd c.id fun c => { c with atomic := true }) { c with guardLog2 := 0 } e spec a
      | none => (s, some Result.badState)
    else finishOuts s c e [spec] (Result.bare stOK)

def execVecEwise (c : CmdId) (s : State) : Answer := runOp 0x0302 c s runVecEwise

/-! ## SFU_EVAL (0x0303): CODE, IN, OUT -/

/-- The live bank of a table. -/
def Banks.bank (b : Banks) : Bank := if b.live then b.b else b.a
def Banks.shadow (b : Banks) : Bank := if b.live then b.a else b.b

/-- The words of a bank, none when it holds none. -/
def Bank.words : Bank → Option (List W32)
  | .loaded ws => some ws
  | _ => none

/-- The custom table bound at first dispatch for a code 0x10 to 0x13 (R103). -/
def boundCustom (e : Env) (code : Nat) : Option (List W32) :=
  (e.first.ctx.bind fun x => x.custom[code - 0x10]?).bind fun b => b.bank.words

def sfuFields (c : Cmd) (e : Env) : List Check :=
  [(c.off 0, sfuCodeOk (c.n 0))] ++ inputChecks e (c.off 1) (c.t 1) ++ outputChecks e (c.off 2) (c.t 2) ++
  [(c.off 2 + 24, e.len (c.t 2) == e.len (c.t 1))]

/-- The output of SFU_EVAL: the function of a code below 0x10, else the bound custom table's. -/
def sfuOuts (c : Cmd) (e : Env) : List OutSpec :=
  let code := c.n 0
  let f := match boundCustom e code with
    | some ws => if 0x10 ≤ code then customEval ws else sfu e.coef code
    | none => sfu e.coef code
  [{ ordinal := 0, ref := c.t 2, vals := (e.values (c.t 1)).map f }]

def runSfuEval (s : State) (c : Cmd) (e : Env) : State × Option Result :=
  let code := c.n 0
  checked s c (sfuFields c e) (decide (code < 0x10) || (boundCustom e code).isSome) [] [c.t 1] e fun s =>
    finishOuts s c e (sfuOuts c e) (Result.bare stOK)

def execSfuEval (c : CmdId) (s : State) : Answer := runOp 0x0303 c s runSfuEval

/-! ## ROW_SOFTMAX (0x0304): IN, OUT, ROW, C, LOG -/

def softmaxFields (c : Cmd) (e : Env) : List Check :=
  inputChecks e (c.off 0) (c.t 0) ++ outputChecks e (c.off 1) (c.t 1) ++
  [(c.off 1 + 24, e.len (c.t 1) == e.len (c.t 0)), (c.off 2, rowLenOk (c.n 2) (e.len (c.t 0))), (c.off 3, posNormal (c.w 3)),
   (c.off 4, decide (c.n 4 < 2))]

/-- The output of ROW_SOFTMAX: the softmax of each row, or its logarithm. -/
def softmaxOuts (c : Cmd) (e : Env) : List OutSpec :=
  let f := if c.n 4 = 1 then logSoftmaxRow e.coef (c.w 3) else softmaxRow e.coef (c.w 3)
  [{ ordinal := 0, ref := c.t 1, vals := (rowsOf (c.n 2) (e.len (c.t 0) / c.n 2) (e.values (c.t 0))).flatMap f }]

def runRowSoftmax (s : State) (c : Cmd) (e : Env) : State × Option Result :=
  checked s c (softmaxFields c e) true [] [c.t 0] e fun s =>
    if !s.rowFits e (c.t 0).fmt (c.n 2) 4 then (s, some (Result.bare stNO_RESOURCE))
    else finishRows s c e (fun _ => c.n 2) (softmaxOuts c e) (Result.bare stOK)

def execRowSoftmax (c : CmdId) (s : State) : Answer := runOp 0x0304 c s runRowSoftmax

/-! ## ROW_NORM (0x0305): IN, MEAN, RSTD, OUT, GAIN, BIAS, ROW, EPS, MODE (0 statistics of R95, 1 root mean square) -/

/-- An epsilon is non-negative and finite (R97). -/
def epsOk (w : W32) : Bool := (decode32 w).isFinite && !(flt w 0#32)

def normFields (c : Cmd) (e : Env) : List Check :=
  let n := c.n 6
  let len := e.len (c.t 0)
  let rows := len / n
  inputChecks e (c.off 0) (c.t 0) ++
  (if c.n 8 = 0 then outputChecks e (c.off 1) (c.t 1) else optional (outputChecks e (c.off 1) (c.t 1)) (c.off 1) (c.t 1)) ++
  outputChecks e (c.off 2) (c.t 2) ++ optional (outputChecks e (c.off 3) (c.t 3)) (c.off 3) (c.t 3) ++
  optional (inputChecks e (c.off 4) (c.t 4)) (c.off 4) (c.t 4) ++
  optional (inputChecks e (c.off 5) (c.t 5)) (c.off 5) (c.t 5) ++
  [(c.off 1 + 4, (c.t 1).handle == 0#32 || (c.t 1).fmt == 0#8), (c.off 2 + 4, (c.t 2).fmt == 0#8),
   (c.off 1 + 24, (c.t 1).handle == 0#32 || e.len (c.t 1) == rows), (c.off 2 + 24, e.len (c.t 2) == rows),
   (c.off 3 + 24, (c.t 3).handle == 0#32 || e.len (c.t 3) == len),
   (c.off 4 + 4, (c.t 4).handle == 0#32 || (c.t 4).fmt == 0#8), (c.off 5 + 4, (c.t 5).handle == 0#32 || (c.t 5).fmt == 0#8),
   (c.off 4 + 24, (c.t 4).handle == 0#32 || e.len (c.t 4) == n),
   (c.off 5 + 24, (c.t 5).handle == 0#32 || e.len (c.t 5) == n),
   (c.off 6, rowLenOk n len), (c.off 7, epsOk (c.w 7)), (c.off 8, decide (c.n 8 < 2))]

/-- The outputs of ROW_NORM: mean, reciprocal deviation, and the normalised rows. -/
def normOuts (c : Cmd) (e : Env) : List OutSpec :=
  let n := c.n 6
  let rs := rowsOf n (e.len (c.t 0) / n) (e.values (c.t 0))
  let gain := e.values (c.t 4)
  let bias := e.values (c.t 5)
  let res := rs.map fun r =>
    if c.n 8 = 0 then normRow e.coef (c.w 7) gain bias r
    else let (d, o) := rmsRow e.coef (c.w 7) gain r; ((0#32 : W32), d, o)
  [{ ordinal := 0, ref := c.t 1, vals := res.map (·.1) }, { ordinal := 1, ref := c.t 2, vals := res.map (·.2.1) },
   { ordinal := 2, ref := c.t 3, vals := res.flatMap (·.2.2) }]

def runRowNorm (s : State) (c : Cmd) (e : Env) : State × Option Result :=
  checked s c (normFields c e) true [] [c.t 0, c.t 4, c.t 5] e fun s =>
    if !s.rowFits e (c.t 0).fmt (c.n 6) 0 then (s, some (Result.bare stNO_RESOURCE))
    else finishRows s c e (fun o => if o = 2 then c.n 6 else 1) (normOuts c e) (Result.bare stOK)

def execRowNorm (c : CmdId) (s : State) : Answer := runOp 0x0305 c s runRowNorm

/-! ## LOSS_GATHER (0x0306): IN, TARGET, LP, M, LNS, H, ROW, C -/

/-- A token tensor that a reference names: an INT8 allocation whose offsets and counts are tokens (spec 11 R479). -/
def tokenChecks (e : Env) (off : Nat) (r : TRef) (n : Nat) : List Check :=
  match e.alloc? r.handle with
  | none => [(off, false)]
  | some a => [(off + 4, r.fmt == a.fmt && a.fmt == int8Field && r.conv == 0), (off + 16, r.ds == 0#32),
      (off + 24, tokenOk a r.off n && (r.count == 0 || r.count == n))]

def lossGatherFields (c : Cmd) (e : Env) : List Check :=
  let n := c.n 6
  let len := e.len (c.t 0)
  let rows := len / n
  let opt := fun i => optional (outputChecks e (c.off i) (c.t i)) (c.off i) (c.t i) ++
    [(c.off i + 4, (c.t i).handle == 0#32 || (c.t i).fmt == 0#8),
     (c.off i + 24, (c.t i).handle == 0#32 || e.len (c.t i) == rows)]
  inputChecks e (c.off 0) (c.t 0) ++ tokenChecks e (c.off 1) (c.t 1) rows ++
  outputChecks e (c.off 2) (c.t 2) ++ [(c.off 2 + 4, (c.t 2).fmt == 0#8), (c.off 2 + 24, e.len (c.t 2) == rows)] ++
  opt 3 ++ opt 4 ++ opt 5 ++ [(c.off 6, rowLenOk n len), (c.off 7, posNormal (c.w 7))]

/-- The outputs of LOSS_GATHER: log-probability, maximum, logarithm of the sum, and entropy of each row. -/
def lossGatherOuts (c : Cmd) (e : Env) : List OutSpec :=
  let n := c.n 6
  let rows := e.len (c.t 0) / n
  let targets := ((e.alloc? (c.t 1).handle).map fun a => a.tokens (c.t 1).off rows).getD []
  let res := ((rowsOf n rows (e.values (c.t 0))).zip targets).map fun (r, t) => gatherRow e.coef (c.w 7) t.toNat r
  [{ ordinal := 0, ref := c.t 2, vals := res.map (·.1) }, { ordinal := 1, ref := c.t 3, vals := res.map (·.2.1) },
   { ordinal := 2, ref := c.t 4, vals := res.map (·.2.2.1) }, { ordinal := 3, ref := c.t 5, vals := res.map (·.2.2.2) }]

def runLossGather (s : State) (c : Cmd) (e : Env) : State × Option Result :=
  checked s c (lossGatherFields c e) true [((c.t 1).handle, 4 * (c.t 1).off, 4 * (e.len (c.t 0) / c.n 6))] [c.t 0] e fun s =>
    if !s.rowFits e (c.t 0).fmt (c.n 6) 4 then (s, some (Result.bare stNO_RESOURCE))
    else finishRows s c e (fun _ => 1) (lossGatherOuts c e) (Result.bare stOK)

def execLossGather (c : CmdId) (s : State) : Answer := runOp 0x0306 c s runLossGather

/-! ## LOSS_CLIP (0x0307): LP, B, A, LOSS, DLP, CLIPPED, EPS, DUAL -/

/-- 0 ≤ ε < 1, and the dual bound is 0 or greater than 1 (R112). -/
def clipOk (eps : W32) : Bool := fle 0#32 eps && flt eps one32
def dualOk (d : W32) : Bool := isZero d || flt one32 d

def lossClipFields (c : Cmd) (e : Env) : List Check :=
  let n := e.len (c.t 0)
  inputChecks e (c.off 0) (c.t 0) ++ inputChecks e (c.off 1) (c.t 1) ++ inputChecks e (c.off 2) (c.t 2) ++
      outputChecks e (c.off 3) (c.t 3) ++ outputChecks e (c.off 4) (c.t 4) ++ outputChecks e (c.off 5) (c.t 5) ++
      [(c.off 1 + 24, e.len (c.t 1) == n), (c.off 2 + 24, e.len (c.t 2) == n),
       (c.off 3 + 4, (c.t 3).fmt == 0#8), (c.off 3 + 24, e.len (c.t 3) == n), (c.off 4 + 4, (c.t 4).fmt == 0#8),
       (c.off 4 + 24, e.len (c.t 4) == n), (c.off 5 + 24, e.len (c.t 5) == n),
       (c.off 6, clipOk (c.w 6)), (c.off 7, dualOk (c.w 7))]

/-- What LOSS_CLIP gives for each token: the loss, its gradient, and whether it was clipped. -/
def lossClipTokens (c : Cmd) (e : Env) : List (W32 × W32 × Bool) :=
  (List.range (e.len (c.t 0))).map fun i =>
    clipToken e.coef (c.w 6) (c.w 7) (nth (e.values (c.t 0)) i) (nth (e.values (c.t 1)) i) (nth (e.values (c.t 2)) i)

def lossClipOuts (c : Cmd) (e : Env) : List OutSpec :=
  let res := lossClipTokens c e
  [{ ordinal := 0, ref := c.t 3, vals := res.map (·.1) }, { ordinal := 1, ref := c.t 4, vals := res.map (·.2.1) },
   { ordinal := 2, ref := c.t 5, vals := res.map fun r => if r.2.2 then one32 else 0#32 }]

def runLossClip (s : State) (c : Cmd) (e : Env) : State × Option Result :=
  checked s c (lossClipFields c e) true [] [c.t 0, c.t 1, c.t 2] e fun s =>
    finishOuts s c e (lossClipOuts c e)
      { Result.bare stOK with
        aux0 := BitVec.ofNat 32 (e.len (c.t 0)), aux1 := BitVec.ofNat 32 ((lossClipTokens c e).countP (·.2.2)) }

def execLossClip (c : CmdId) (s : State) : Answer := runOp 0x0307 c s runLossClip

/-! ## LOSS_REDUCE (0x0308): LOSS, GRAD, W, L, G, MODE, K -/

def lossReduceFields (c : Cmd) (e : Env) : List Check :=
  let n := e.len (c.t 0)
  inputChecks e (c.off 0) (c.t 0) ++ inputChecks e (c.off 1) (c.t 1) ++ inputChecks e (c.off 2) (c.t 2) ++
      outputChecks e (c.off 3) (c.t 3) ++ outputChecks e (c.off 4) (c.t 4) ++
      [(c.off 1 + 24, e.len (c.t 1) == n), (c.off 2 + 24, e.len (c.t 2) == n),
       (c.off 0 + 24, rowLenOk n n), (c.off 2 + 4, (c.t 2).fmt == 0#8), (c.off 3 + 4, (c.t 3).fmt == 0#8), (c.off 3 + 24, e.len (c.t 3) == 1), (c.off 4 + 4, (c.t 4).fmt == 0#8),
       (c.off 4 + 24, e.len (c.t 4) == n), (c.off 5, decide (c.n 5 < 3)), (c.off 6, c.n 5 != 2 || posNormal (c.w 6))]

/-- The outputs of LOSS_REDUCE: the reduced loss, and the gradients. -/
def lossReduceOuts (c : Cmd) (e : Env) : List OutSpec :=
  let r := reduceLoss (c.n 5) (c.w 6) (e.values (c.t 0)) (e.values (c.t 1)) (e.values (c.t 2))
  [{ ordinal := 0, ref := c.t 3, vals := [r.1] }, { ordinal := 1, ref := c.t 4, vals := r.2 }]

def runLossReduce (s : State) (c : Cmd) (e : Env) : State × Option Result :=
  checked s c (lossReduceFields c e) true [] [c.t 0, c.t 1, c.t 2] e fun s =>
    if !s.rowFits e (c.t 0).fmt (e.len (c.t 0)) 0 then (s, some (Result.bare stNO_RESOURCE))
    else finishRows s c e (fun _ => e.len (c.t 0)) (lossReduceOuts c e) (Result.bare stOK)

def execLossReduce (c : CmdId) (s : State) : Answer := runOp 0x0308 c s runLossReduce

/-! ## SCALE_LOAD (0x0309): BASE, ENTRIES (spec 03 R74 to R77)

The spec lays out the entries of a checkpointed file only (Table 13-2): an entry of SCALE_LOAD takes 8 bytes, m and then a
word that holds s, and an s of 64 or more gives BAD_PACKET (DESIGN CHOICE, log 61). -/

/-- Stage 2 takes the accumulators: they are INT32, and the output format is an integer without block scaling
(spec 02 Table 2-4). A block-scaled INT8 output leaves by stage 6 (DESIGN CHOICE, log 61). -/
def requantises (x w out : Alloc) : Bool := intPair x.code x.block w.code w.block && fmtIsInt out.code && !out.block

/-- The scale entries that a matrix command reads, as the first and the number: one for each output channel, of the forward
weight or of its transposed copy (spec 03 R74). -/
def Cmd.scaleEntries (k : Cmd) : Option (Nat × Nat) :=
  let find := fun (h : W32) => k.view.bind fun v => v.allocs.find? (·.handle == h)
  match find (k.t 0).handle, find (k.t 1).handle, find (k.t 6).handle with
  | some x, some w, some out =>
    if requantises x w out then some (k.n 11, if k.n 13 = 1 then w.rows else w.cols) else none
  | _, _, _ => none

/-- A matrix command of the context that has begun and not finished reads one of the entries lo to hi - 1 (R76). -/
def scaleBusy (s : State) (c : Cmd) (lo hi : Nat) : Bool :=
  s.cmds.any fun k => k.ctx == c.ctx && k.opcode == 0x0301 && k.phase == .dispatched &&
    (match k.scaleEntries with
     | some (b, n) => decide (b < hi) && decide (lo < b + n)
     | none => false)

def runScaleLoad (s : State) (c : Cmd) (e : Env) : State × Option Result :=
  let r := c.a 1
  let es := e.entries r 8
  checked s c [(c.off 0, decide (c.n 0 < 8192)), (c.off 1, e.arrayOk r 8), (c.off 1 + 4, decide (c.n 0 + r.count ≤ 8192))]
    (es.all fun w => decide ((w.getD 1 0#32).toNat < 64)) [(r.handle, r.off, 8 * r.count)] [] e fun s =>
    if scaleBusy s c (c.n 0) (c.n 0 + r.count) then (s, none) else
    (s, some (Result.ok (.scale (((List.range r.count).map (c.n 0 + ·)).zip es |>.map fun (k, w) =>
      (k, w.getD 0 0#32, BitVec.ofNat 6 (w.getD 1 0#32).toNat)))))

def execScaleLoad (c : CmdId) (s : State) : Answer := runOp 0x0309 c s runScaleLoad

/-- The written entries take effect on every tile of the partition, once no command that reads them is running
(R76, log 33). -/
def commitScale (s : State) (x : Nat) (es : List (Nat × W32 × BitVec 6)) : State :=
  s.modCtx x fun c =>
    let put := fun (t : Tab (W32 × BitVec 6)) => es.foldl (fun t (k, m, sh) => Tab.set t k (m, sh)) t
    { c with scale := (if c.scale.isEmpty then [(0, [])] else c.scale).map fun (i, t) => (i, put t) }

/-- The scale register file of a tile: its own, or the one that tile 0 shares with it. -/
def Ctx.file (x : Ctx) (tile : Nat) : Tab (W32 × BitVec 6) := Tab.get x.scale tile (Tab.get x.scale 0 [])

/-! ## TABLE_LOAD (0x030A): TABLE, DATA (R101 to R105; spec 05 R135) -/

/-- A temperature table's data: 1,024 entries, each +0 or positive, normal and finite. -/
def tempOk (ws : List W32) : Bool := ws.length == 1024 && ws.all fun w => w == 0#32 || posNormal w

def tableSelOk (n : Nat) : Bool := n == 0 || (decide (0x10 ≤ n) && decide (n ≤ 0x13))

/-- A table's raw FP32 words, as the reference names them. -/
def Env.rawWords (e : Env) (r : TRef) : List W32 :=
  match e.alloc? r.handle with
  | some a => (List.range (r.len a)).map fun i => BitVec.ofNat 32 (a.pattern (r.off + i))
  | none => []

/-- The banks a selector names. -/
def Ctx.banks (x : Ctx) (sel : Nat) : Banks :=
  if sel = 0 then x.temp else x.custom.getD (sel - 0x10) { a := .never, b := .never, live := false }

/-- A command may read a table: a batch step the temperature table; an evaluation the slot it names; the layers of a model,
whose functions their compiled commands choose, any slot (R103). -/
def Cmd.mayReadTable (k : Cmd) (sel : Nat) : Bool :=
  if sel = 0 then k.opcode == 0x0403
  else (k.opcode == 0x0303 && k.n 0 == sel) || traverses k.opcode

/-- An unfinished command of the context that may read the table bound the bank that is now the shadow (R104). -/
def shadowBound (s : State) (c : Cmd) (sel : Nat) : Bool :=
  match s.ctx? c.ctx with
  | none => false
  | some x => s.cmds.any fun k => k.ctx == c.ctx && k.id != c.id && k.mayReadTable sel &&
      ((k.first.bind (·.ctx)).map fun y => (y.banks sel).live != (x.banks sel).live).getD false

def runTableLoad (s : State) (c : Cmd) (e : Env) : State × Option Result :=
  let sel := c.n 0
  let ws := e.values (c.t 1)
  checked s c ([(c.off 0, tableSelOk sel)] ++ inputChecks e (c.off 1) (c.t 1) ++ [(c.off 1 + 4, (c.t 1).fmt == 0#8),
      (c.off 1 + 24, e.len (c.t 1) == if sel = 0 then 1024 else 1030)])
    (if sel = 0 then tempOk ws else customOk ws) [] [c.t 1] e fun s =>
    if shadowBound s c sel then (s, none) else (s, some (Result.ok (.table sel ws)))

def execTableLoad (c : CmdId) (s : State) : Answer := runOp 0x030A c s runTableLoad

/-- The shadow bank takes the data and becomes live (R102). -/
def Banks.load (b : Banks) (ws : List W32) : Banks :=
  if b.live then { a := .loaded ws, b := b.b, live := false } else { a := b.a, b := .loaded ws, live := true }

def commitTable (s : State) (x sel : Nat) (ws : List W32) : State :=
  s.modCtx x fun c =>
    if sel = 0 then { c with temp := c.temp.load ws }
    else { c with custom := (List.range 4).map fun i =>
      let b := c.banks (0x10 + i)
      if 0x10 + i = sel then b.load ws else b }

/-- An entry of the bound temperature bank (spec 05 R135): 1.0 when it has never been loaded, none when it was emptied. -/
def tempEntry (b : Banks) (i : Nat) : Option W32 :=
  match b.bank with
  | .never => some one32
  | .emptied => none
  | .loaded ws => some (ws.getD i one32)

end Sys2Proof.Machine
end

