-- ==== Sys2Proof/Machine/Matmul.lean ====
section
/-!
DEFINITION. MATMUL (0x0301): operand pairs, summation order, the output path and its epilogues (spec 02 R32-R49; 03 R73-R76).
Parameters: X, W, ACC, CSCALE, BIAS, SCALE, OUT, SIDE_ACT, SIDE_UP, then the words EPI (0 none, 1 gate × activation, 2 SQ3),
ACT, BASE, TRANS (transposed store), WT (read W's transposed copy) (log 10). What the spec leaves open in the product
is settled in log 61.
-/
namespace Sys2Proof.Machine

/-! ## Operand pairs (R32, Table 2-2) -/

def is16 (c : Nat) : Bool := c == 1 || c == 2
def isSmallFloat (c : Nat) : Bool := decide (3 ≤ c) && decide (c ≤ 7)

def pairOk (cx : Nat) (bx : Bool) (cw : Nat) (bw : Bool) : Bool :=
  (isSmallFloat cx && isSmallFloat cw) || (fmtIsInt cx && fmtIsInt cw) ||
  (is16 cx && is16 cw && cx == cw) ||
  (is16 cx && isSmallFloat cw && !bw) || (isSmallFloat cx && is16 cw && !bx)

/-! ## Accumulation (R36 to R39) -/

/-- An operand element without block scale and without decode scale. -/
def Alloc.raw (a : Alloc) (k : Nat) : Val := decodeElem a.code a.block (a.pattern k)
def Alloc.scaleVal (a : Alloc) (k : Nat) : Val :=
  if a.block then decodeScale (Mem.get a.mem a.dflt (a.scaleAddr k)) else .num false 1 1

/-- The exact sum of a list of values. -/
def sumVals (l : List Val) : Val := l.foldl Val.add (.num false 0 1)

/-- A group of at most 32 products: their exact sum with the two block scales (R37). -/
def groupTotal (x w : Alloc) (xi wj : Nat) (ks : List Nat) : Val :=
  let total := sumVals (ks.map fun k => (x.raw (xi + k)).mul (w.raw (k * w.cols + wj)))
  match ks with
  | [] => .num false 0 1
  | k :: _ => (total.mul (x.scaleVal (xi + k))).mul (w.scaleVal (k * w.cols + wj))

/-- Aligned groups of 32 of the k values below n. -/
def kGroups (n : Nat) : List (List Nat) :=
  (List.range ((n + 31) / 32)).map fun g => (List.range 32).filterMap fun i => if 32 * g + i < n then some (32 * g + i) else none

/-- An FP32 accumulation in the order of R37. -/
def accumulate (x w : Alloc) (xi wj n : Nat) : Val :=
  if is16 x.code || is16 w.code then
    decode32 ((List.range n).foldl (fun acc k =>
      encode32 ((decode32 acc).add ((x.raw (xi + k)).mul (w.raw (k * w.cols + wj))))) 0#32)
  else
    decode32 ((kGroups n).foldl (fun acc ks => encode32 ((decode32 acc).add (groupTotal x w xi wj ks))) 0#32)

/-- An INT32 accumulation: the sum, and whether it saturated (R39). The spec gives no order for the sums of integer
products: each product is added in increasing k and the accumulator saturates after every addition (DESIGN CHOICE,
log 61). -/
def accumulateInt (x w : Alloc) (xi wj n : Nat) : Int × Bool :=
  (List.range n).foldl (fun (acc, sat) k =>
    let z := acc + twosInt (fmtBits x.code) (x.pattern (xi + k)) * twosInt (fmtBits w.code) (w.pattern (k * w.cols + wj))
    if z > 2147483647 then (2147483647, true) else if z < -2147483648 then (-2147483648, true) else (z, sat)) (0, false)

/-! ## The output path -/

/-- Stage 2 (R75): the clamped result, whether it overflowed, whether it vanished, and the value before the clamp. -/
def requantise (code : Nat) (m : W32) (sh : Nat) (a : Int) : Int × Bool × Bool × Int :=
  let p := a * m.toInt
  let y : Int :=
    if sh = 0 then p
    else if p ≥ 0 then (((p.toNat + 2 ^ (sh - 1)) / 2 ^ sh : Nat) : Int)
    else -((((-p).toNat + 2 ^ (sh - 1)) / 2 ^ sh : Nat) : Int)
  let high : Int := (fmtTop code : Nat)
  let low := -high - 1
  let z := if y > high then high else if y < low then low else y
  (z, decide (y > high) || decide (y < low), y = 0 && p != 0, y)

/-- The activations of Table 2-5. -/
def activation (cv : W16) (code : Nat) (x : W32) : W32 :=
  match code with
  | 1 => if isNan x then nan32 else if flt 0#32 x then x else 0#32
  | 2 => sfu cv 7 x
  | 3 => sfu cv 8 x
  | 4 => sfu cv 9 x
  | 5 => sfu cv 5 x
  | 6 => sfu cv 6 x
  | _ => x

def actOk (epi act : Nat) : Bool :=
  match epi with
  | 1 => decide (act ≤ 5)
  | 2 => act == 0 || act == 1 || act == 5 || act == 6
  | _ => act == 0

/-- Stage 3 (R73): the factor of a column, rounded once; exactly 1.0 passes the accumulator unchanged. -/
def stage3 (x w : Alloc) (cs : Option W32) (acc : Val) : Val :=
  let dx := if x.block then Val.num false 1 1 else decode32 x.dscale
  let dw := if w.block then Val.num false 1 1 else decode32 w.dscale
  let f := encode32 ((dx.mul dw).mul (match cs with | some c => decode32 c | none => .num false 1 1))
  if f = one32 then acc else decode32 (encode32 (acc.mul (decode32 f)))

/-! ## The transposed copy (R46 to R49) -/

/-- The transposed copy of a weight, read as a tensor. -/
def Alloc.transposed (a : Alloc) : Option Alloc :=
  a.tcopy.map fun t => { a with mem := t.mem, rank := 2, dims := [a.cols, a.rows] }

/-- Every block of the transposed copy carries the epoch of the forward block (R49). -/
def tagsCurrent (a : Alloc) : Bool :=
  match a.tcopy with
  | some t => (List.range a.blockCount).all fun b => Tab.get t.tags b 0#32 == Tab.get a.blockEpochs b 0#32 && !t.queued.contains b
  | none => false

/-! ## The command -/

/-- Whole rows of a matrix operand: offset and length in rows. -/
def rowAligned (a : Alloc) (r : TRef) : Bool := a.cols != 0 && r.off % a.cols == 0 && r.len a % a.cols == 0

/-- The geometry of a product: M, K, N, output columns. -/
structure MShape where
  m : Nat
  k : Nat
  n : Nat
  cols : Nat
deriving DecidableEq, Repr, Inhabited

def mShape (c : Cmd) (x w : Alloc) : MShape :=
  { m := (c.t 0).len x / x.cols, k := x.cols, n := w.cols, cols := if c.n 9 = 1 then w.cols / 2 else w.cols }

/-- The accumulators of a row: one value per weight column, and how many saturated. -/
def rowAccs (x w : Alloc) (int : Bool) (xi woff k n : Nat) : List (Val × Int × Bool) :=
  (List.range n).map fun j =>
    if int then
      let (z, b) := accumulateInt x w xi (woff + j) k
      (.num (decide (z < 0)) z.natAbs 1, z, b)
    else (accumulate x w xi (woff + j) k, 0, false)

/-- Stages 3 and 4 on a row of accumulators: the outputs, the activation side output, the up side output. Where the SQ3
epilogue has no bias reference it adds +0, and where it has no scale reference it multiplies by 1.0 (DESIGN CHOICE,
log 61). -/
def epilogue (cv : W16) (c : Cmd) (x w : Alloc) (cs bias sc : List W32) (accs : List Val) : List Val × List W32 × List W32 :=
  let a3 := (List.range accs.length).map fun j => stage3 x w (cs[j]?) (accs.getD j (.num false 0 1))
  match c.n 9 with
  | 1 =>
    let js := List.range (accs.length / 2)
    let gate := js.map fun i => encode32 (a3.getD (i / 64 * 128 + i % 64) (.num false 0 1))
    let up := js.map fun i => encode32 (a3.getD (i / 64 * 128 + 64 + i % 64) (.num false 0 1))
    let acts := gate.map (activation cv (c.n 10))
    let out := (acts.zip up).map fun (p, q) => decode32 (fmul p q)
    let pre := decide (2 ≤ c.n 10) && decide (c.n 10 ≤ 4)
    (out, if pre then gate else acts, up)
  | 2 =>
    ((List.range accs.length).map fun j =>
      decode32 (fmul (activation cv (c.n 10) (fadd (encode32 (a3.getD j (.num false 0 1))) (nth bias j))) (sc.getD j one32)),
      [], [])
  | _ => (a3, [], [])

/-- A matrix of rows as one list, in row order or transposed (stage 7). -/
def layoutRows {α : Type} (trans : Bool) (cols : Nat) (d : α) (rows : List (List α)) : List α :=
  if trans then (List.range cols).flatMap fun j => rows.map fun r => r.getD j d
  else rows.flatMap fun r => r

/-- Where an output element is served: its tile, and the state of its output-path column modulo 64 (spec 05 R119). -/
def matAt (c : Cmd) (e : Env) (sh : MShape) (ordinal i : Nat) : Spot :=
  let col := if c.n 12 = 1 then (if sh.m = 0 then 0 else i / sh.m) else if sh.cols = 0 then 0 else i % sh.cols
  { c.spot e ordinal i with state := col % 64 }

/-- The fields of a MATMUL. The spec does not say how M, K and N come from the references, nor what a gate epilogue over
part of a gate and up block does, nor the SQ3 epilogue over INT32 accumulators: X covers whole rows of its allocation
and W its whole allocation, and the other forms complete with BAD_PACKET (DESIGN CHOICE, log 61). -/
def matFields (c : Cmd) (e : Env) : List Check :=
  let vec := fun (i n : Nat) => optional (inputChecks e (c.off i) (c.t i)) (c.off i) (c.t i) ++
    [(c.off i + 24, (c.t i).handle == 0#32 || e.len (c.t i) == n)]
  match e.alloc? (c.t 0).handle, e.alloc? (c.t 1).handle with
  | some x, some w0 =>
    let w := if c.n 13 = 1 then w0.transposed.getD w0 else w0
    let sh := mShape c x w
    let int := intPair x.code x.block w.code w.block
    let stage2 := int && fmtIsInt (fmtCode (c.t 6).fmt) && !fmtBlock (c.t 6).fmt
    let sides := fun (i : Nat) (f : Byte) =>
      optional (outputChecks e (c.off i) (c.t i)) (c.off i) (c.t i) ++
      [(c.off i, (c.t i).handle == 0#32 || c.n 9 == 1), (c.off i + 4, (c.t i).handle == 0#32 || (c.t i).fmt == f),
       (c.off i + 24, (c.t i).handle == 0#32 || e.len (c.t i) == sh.m * sh.cols)]
    inputChecks e (c.off 0) (c.t 0) ++ inputChecks e (c.off 1) (c.t 1) ++
    [ (c.off 0 + 8, rowAligned x (c.t 0)), (c.off 1 + 4, pairOk x.code x.block w.code w.block),
      (c.off 0 + 4, !x.block || !fmtRowK x.fmt), (c.off 1 + 4, !w.block || fmtRowK w.fmt),
      (c.off 1 + 8, (c.t 1).off == 0), (c.off 1 + 24, (c.t 1).len w0 == w.elements && w.rows == sh.k),
      (c.off 9, decide (c.n 9 < 3) && !(int && c.n 9 != 0)), (c.off 9, c.n 9 != 1 || sh.n % 128 == 0),
      (c.off 10, actOk (c.n 9) (c.n 10)),
      (c.off 11, !stage2 || decide (c.n 11 + sh.n ≤ 8192)), (c.off 12, decide (c.n 12 < 2)),
      (c.off 13, decide (c.n 13 < 2) && (c.n 13 == 0 || (e.part.role == roleLearn && w0.tcopy.isSome))) ] ++
    optional (inputChecks e (c.off 2) (c.t 2)) (c.off 2) (c.t 2) ++
    [(c.off 2 + 24, (c.t 2).handle == 0#32 || e.len (c.t 2) == sh.m * sh.cols)] ++
    vec 3 sh.n ++ vec 4 sh.n ++ vec 5 sh.n ++ outputChecks e (c.off 6) (c.t 6) ++
    [(c.off 6 + 24, e.len (c.t 6) == sh.m * sh.cols)] ++
    sides 7 (if decide (2 ≤ c.n 10) && decide (c.n 10 ≤ 4) then 3#8 else (c.t 6).fmt) ++ sides 8 (c.t 6).fmt
  | none, _ => [(c.off 0, false)]
  | _, none => [(c.off 1, false)]

/-- The requantised output, each element by the file of the tile that serves it: patterns written as they are. Where the
command accumulates, the element adds what the output held and saturates again. A clamp by stage 2 adds to the count of
R39, which `addSaturated` makes, and the observed maximum is of y before the clamp (R75; R78; DESIGN CHOICE, log 61). -/
def requantWrite (c : Cmd) (e : Env) (out : Alloc) (sh : MShape) (scale : Nat → Tab (W32 × BitVec 6))
    (rows : List (List (Val × Int × Bool))) : TWrite :=
  let old : Option Alloc := e.alloc? (c.t 2).handle
  let rs := ((List.range rows.length).zip rows).map fun (i, r) => (List.range r.length).map fun j =>
    let (_, z, _) := r.getD j default
    let at_ := if c.n 12 = 1 then j * sh.m + i else i * sh.cols + j
    let (m, s) := Tab.get (scale at_) (c.n 11 + j) (0#32, 0#6)
    let (y, o, v, full) := requantise out.code m s.toNat z
    match old with
    | none => (y, o, v, full)
    | some a =>
      let t := y + Val.toInt (decode32 (a.value ((c.t 2).off + at_)))
      let (t', _, _, _) := requantise out.code 1#32 0 t
      (t', o || t' != t, v, full)
  let flat := layoutRows (c.n 12 = 1) sh.cols (0, false, false, 0) rs
  { handle := out.handle
    elems := ((List.range flat.length).map ((c.t 6).off + ·)).zip
      (flat.map fun (y, _) => intPattern out.code (decide (y < 0)) y.natAbs)
    scales := []
    stats := { elements := flat.length, overflowed := flat.countP (·.2.1), vanished := flat.countP (·.2.2.1), nans := 0,
               amax := amaxOf (flat.map fun (_, _, _, full) => .num (decide (full < 0)) full.natAbs 1) }
    dscale := if (c.t 6).ds = 0#32 then none else some (c.t 6).ds
    count := some out.code }

/-- Adds saturated accumulators to the overflow count of the first output (R39). -/
def addSaturated (n : Nat) (ws : List (Nat × Bool × TWrite)) : List (Nat × Bool × TWrite) :=
  ws.map fun (o, g, w) => if o = 0 then (o, g, { w with stats := { w.stats with overflowed := w.stats.overflowed + n } }) else (o, g, w)

/-- What a MATMUL of operands x and w answers: the accumulators requantised, which takes no decode scale and no CSCALE
(Table 2-4 gives stage 3 to FP32 accumulators; DESIGN CHOICE, log 61), or the epilogue's values with what the
output held (ACC), and the side outputs; products that saturated count against the output. -/
def matResult (s : State) (c : Cmd) (e : Env) (x w out : Alloc) : Result :=
  let sh := mShape c x w
  let int := intPair x.code x.block w.code w.block
  let rows := (List.range sh.m).map fun i => rowAccs x w int ((c.t 0).off + i * x.cols) 0 sh.k sh.n
  let sats := sumBy (fun r => List.countP (fun t => t.2.2) r) rows
  if requantises x w out then
    { Result.bare stOK with
      writes := (addSaturated sats [(0, false, requantWrite c e out sh (fun i => e.ctx.file (matAt c e sh 0 i).tile) rows)]).map
        fun (_, _, w) => w }
  else
    let cs := e.values (c.t 3)
    let bias := e.values (c.t 4)
    let sc := e.values (c.t 5)
    let eps := rows.map fun r => epilogue e.coef c x w cs bias sc (r.map (·.1))
    let old := e.values (c.t 2)
    let base := layoutRows (c.n 12 = 1) sh.cols (Val.num false 0 1) (eps.map (·.1))
    let sum := if (c.t 2).handle = 0#32 then base
      else (List.range base.length).map fun i => decode32 (encode32 ((base.getD i (.num false 0 1)).add (decode32 (nth old i))))
    let (bits, d) := roundBits c e (matAt c e sh) 0 out (c.t 6) sum.length (s.drawer e)
    let w0 := (0, guardedFmt out, encodeInto out (c.t 6).conv (if (c.t 6).ds = 0#32 then none else some (c.t 6).ds) (c.t 6).off bits sum)
    let (ws, d) := encodeOuts c e (matAt c e sh)
      [{ ordinal := 1, ref := c.t 7, vals := layoutRows (c.n 12 = 1) sh.cols 0#32 (eps.map (·.2.1)) },
       { ordinal := 2, ref := c.t 8, vals := layoutRows (c.n 12 = 1) sh.cols 0#32 (eps.map (·.2.2)) }] d
    let drew := [c.t 6, c.t 7, c.t 8].any (·.stoch) && !((e.first.ctx.map (·.det)).getD false)
    outputsResult c (addSaturated sats (w0 :: ws)) (if drew then some d.gens else none) (Result.bare stOK)

def matBody (s : State) (c : Cmd) (e : Env) (x w out : Alloc) : State × Option Result :=
  if requantises x w out = false ∧ mustWait s c e [c.t 6, c.t 7, c.t 8] = true then (s, none) else (s, some (matResult s c e x w out))

/-- The product of a matrix command. -/
def matProduct (c : Cmd) (x w0 : Alloc) : Product :=
  let w := if c.n 13 = 1 then w0.transposed.getD w0 else w0
  let kp := kPerPass x.code w.code
  { cls := .forward, src := none
    weight := fun b j => if c.n 13 = 1 then .transposed w0.handle (w0.passBlocks kp b j) else .home
    m := (mShape c x w).m, k := x.cols, n := w.cols, kPass := kp }

def runMatmul (s : State) (c : Cmd) (e : Env) : State × Option Result :=
  checked s c (matFields c e) true [] [c.t 0, c.t 1, c.t 2, c.t 3, c.t 4, c.t 5] e fun s =>
    match e.alloc? (c.t 0).handle, e.alloc? (c.t 1).handle, e.alloc? (c.t 6).handle with
    | some x, some w0, some out =>
      let s := s.runItems c e [matProduct c x w0]
      if !s.itemsDone c.id then (s, none)
      else if c.n 13 = 1 then
        match (s.alloc? e.part.num w0.handle).map tagsCurrent, w0.transposed with
        | some true, some w =>
          match (s.alloc? e.part.num w0.handle).bind (·.transposed) with
          | some w' => matBody s c e x { w with mem := w'.mem } out
          | none => matBody s c e x w out
        | _, _ => (s, none)
      else matBody s c e x w0 out
    | _, _, _ => (s, some Result.badState)

def execMatmul (c : CmdId) (s : State) : Answer := runOp 0x0301 c s runMatmul

end Sys2Proof.Machine
end

