-- ==== Sys2Proof/Machine/Memory.lean ====
section
/-!
DEFINITION. The memory family (spec 06; 11 R292, R293), the shadows and transposed copies that a commit leaves behind, and
the staging slots of layer plans (spec 06 R154-R163; 02 R46-R50).
-/
namespace Sys2Proof.Machine

/-! ## MEM_ALLOC (0x0201): SIZE, FLAGS, format, RANK, d0 to d3, AFFINITY -/

/-- R142, R143: no reserved flag, some home, and no combination that R143 excludes. -/
def flagsOk (f : W16) (fmt : Byte) (rank : Nat) : Bool :=
  let b := flagBit f
  (f &&& 0xFE80#16 == 0#16) && (b 0 || b 1 || b 2) &&
  !(b 0 && (b 1 || b 2 || b 3 || b 4 || b 6)) && (!b 4 || (b 2 && b 3)) &&
  (!b 4 || (rank == 2 && fmtCode fmt != 9))

/-- The extents of a shape: those below RANK are not 0, the others are (R481). -/
def dimOk (rank i d : Nat) : Bool := if i < rank then d != 0 else d == 0

/-- The K extent of a block-scaled shape is a multiple of 32 (spec 03 R61); a shapeless one is a single
row of whole groups, so it fails under KAXIS 1. -/
def kExtentOk (fmt : Byte) (rank : Nat) (dims : List Nat) : Bool :=
  !fmtBlock fmt ||
  (if fmtRowK fmt then shapeRows rank dims % 32 == 0 else rank == 0 || dims.getD (rank - 1) 0 % 32 == 0)

def affinityOk (p : Part) (flags : W16) (n : Nat) : Bool :=
  decide (n < 256) && (!flagBit flags 0 || flagBit flags 5 || n == 0xFF || decide (n < p.tiles))

def allocDims (c : Cmd) : List Nat := [c.n 4, c.n 5, c.n 6, c.n 7]

def allocFields (c : Cmd) (p : Part) : List Check :=
  let flags := BitVec.ofNat 16 (c.n 1)
  let fmt := BitVec.ofNat 8 (c.n 2)
  let dims := allocDims c
  [ (c.off 0, decide (0 < c.d 0)), (c.off 1, decide (c.n 1 < 65536) && flagsOk flags fmt (c.n 3)),
    (c.off 2, decide (c.n 2 < 256) && fmtOk fmt), (c.off 3, decide (c.n 3 ≤ 4)) ] ++
  ((List.range 4).map fun i => (c.off (4 + i), dimOk (c.n 3) i (dims.getD i 0))) ++
  [ (c.off 4, !fmtOk fmt || kExtentOk fmt (c.n 3) dims),
    (c.off 0, !fmtOk fmt || decide (shapeBytes fmt (shapeRows (c.n 3) dims) (shapeCols fmt (c.n 3) dims (c.d 0)) ≤ c.d 0)),
    (c.off 8, affinityOk p flags (c.n 8)) ]

def runMemAlloc (s : State) (c : Cmd) (e : Env) : State × Option Result :=
  checked s c (allocFields c e.part) true [] [] e fun s =>
    (s, some (Result.ok (.alloc { size := c.d 0, flags := BitVec.ofNat 16 (c.n 1), fmt := BitVec.ofNat 8 (c.n 2), rank := c.n 3,
                                  dims := allocDims c, affinity := c.n 8 })))

def execMemAlloc (c : CmdId) (s : State) : Answer := runOp 0x0201 c s runMemAlloc

/-- A handle of a partition that is free: the module's choice (log 11). -/
def State.newHandle (s : State) (p : Nat) : W32 :=
  let used := fun (h : W32) => h == 0#32 || (s.alloc? p h).isSome
  let h := Config.handle s.fresh
  if used h then
    (((List.range ((s.partAllocs p).length + 1)).map fun i => BitVec.ofNat 32 (i + 1)).find? fun h => !used h).getD 0#32
  else h

/-- A new allocation: zeros, D of 1.0, statistics of zeros (R480). -/
def Alloc.fresh (r : AllocReq) (h : W32) (p : Nat) (x : Option Nat) (home : Home) (tile : Nat) : Alloc :=
  { handle := h, part := p, ctx := x, size := r.size, flags := r.flags, fmt := r.fmt, rank := r.rank, dims := r.dims,
    affinity := r.affinity, home := home, tile := tile, dscale := one32, stats := Stats.zero, mem := [], key := none, keyIface := 0,
    role := .plain, shadow := none, uncorr := [], corr := [], presence := none, frozen := [], blockEpochs := [], epoch := 0#32, tcopy := none,
    version := 0 }

/-- Places the allocation at commit (R144, R145); the handle is the detail word. -/
def commitAlloc (s : State) (c : Cmd) (q : AllocReq) (r : Result) : State × Result :=
  match s.part? (s.cmdPart c.id), s.ctx? c.ctx with
  | some p, some x =>
    let scope := flagBit q.flags 8
    let a0 := Alloc.fresh q 0#32 p.num (if scope then none else some c.ctx) .ddr 0
    match s.placeFor p x q.flags q.size q.affinity (shadowRoom a0) with
    | none => (s, Result.bare stNO_RESOURCE)
    | some (home, tile) =>
      let h := s.newHandle p.num
      let s := s.useFresh
      ({ s with allocs := s.allocs ++ [{ a0 with handle := h, home := home, tile := tile }] }, { r with detail := h })
  | _, _ => (s, Result.badState)

/-! ## Which handles a command names (R148) -/

/-- The word parameters of an opcode that are handles. -/
def handleWords (op : Nat) : List Nat :=
  match op with
  | 0x0202 => [0]
  | 0x0203 => [0]
  | 0x0205 => [0]
  | 0x0206 => [0]
  | 0x0207 => [0]
  | 0x0401 => [5]
  | 0x0405 => [3]
  | 0x0406 => [0]
  | 0x0501 => [2]
  | 0x0502 => [0]
  | 0x0503 => [7]
  | 0x0505 => [18]
  | 0x0603 => [4]
  | 0x0701 => [0]
  | 0x0704 => [4]
  | 0x0903 => [5]
  | 0x0A03 => [0]
  | 0x0A04 => [0]
  | _ => []

/-- The bytes of an entry of an array parameter, and the word of the entry's handles. -/
def arrayHandles (op i : Nat) : Nat × List Nat :=
  match op, i with
  | 0x0204, 0 => (4, [0])
  | 0x0401, 0 => (4, [0])
  | 0x0402, 0 => (64, [2])
  | 0x0501, 0 => (32, [0, 1, 2, 3, 4, 5, 6])
  | 0x0502, 2 => (16, [0])
  | 0x0601, 0 => (32, [6])
  | 0x0901, 0 => (32, [6])
  | _, _ => (4, [])

/-- The plans that an opcode binds: the layer plan, the learning plan. -/
def bindsLearning (op : Nat) : Bool :=
  op == 0x0502 || op == 0x0503 || op == 0x0505 || op == 0x0506 || op == 0x0507 || op == 0x0603

def PlanEntry.handles (p : PlanEntry) : List W32 :=
  ([p.weight, p.master, p.grad, p.ctrl] ++ p.states).filter (· != 0#32)

/-- Every handle a dispatched command names: in its words, in the arrays it reads, in the plans it binds. -/
def Cmd.handles (c : Cmd) : List W32 :=
  let ps := (params c.opcode).getD []
  let is := (List.range ps.length).zip ps
  let arrs := is.filterMap fun (i, p) => if p = .a then some (i, c.a i) else none
  (is.filterMap fun (i, p) => if p = .t then some (c.t i).handle else none) ++ (arrs.map fun (_, r) => r.handle) ++
  ((handleWords c.opcode).map c.w) ++
  (match c.first with
  | none => []
  | some v =>
    (arrs.flatMap fun (i, r) =>
      let (size, ks) := arrayHandles c.opcode i
      match v.allocs.find? (·.handle == r.handle) with
      | some a => (List.range r.count).flatMap fun n => ks.map fun k => a.word (r.off + size * n + 4 * k)
      | none => []) ++
    (match v.ctx with
    | none => []
    | some x =>
      (if traverses c.opcode then (x.plan.map (·.handles)).getD [] else []) ++
      (if bindsLearning c.opcode then (x.learn.map fun l => l.pool :: l.entries.flatMap PlanEntry.handles).getD [] else [])))

/-- A command dispatched before `c`, uncompleted, that names the handle. -/
def State.namedBefore (s : State) (c : Cmd) (h : W32) : Bool :=
  (s.partCmds (s.cmdPart c.id)).any fun k => k.id != c.id && k.started && decide (k.disp < c.disp) && k.handles.contains h

/-! ## MEM_FREE (0x0202): HANDLE -/

/-- The committed checkpoint plan of a partition names the handle (spec 13 R335). -/
def State.checkpointed (s : State) (p : Nat) (h : W32) : Bool := ((s.part? p).map fun q => q.ckp.plan.any (·.handle == h)).getD false

def runMemFree (s : State) (c : Cmd) (e : Env) : State × Option Result :=
  checked s c [(c.off 0, ((e.alloc? (c.w 0)).map fun a => match a.role with | .plain => true | _ => false).getD false)]
    (!s.checkpointed e.part.num (c.w 0)) [] [] e fun s =>
    if s.namedBefore c (c.w 0) then (s, none) else (s, some (Result.ok (.free (c.w 0))))

def execMemFree (c : CmdId) (s : State) : Answer := runOp 0x0202 c s runMemFree

/-- The handle is released, with its shadow, its transposed copy, its staging and window copies, its key, and a reduction
that its bytes held (Table 6-4). -/
def freeHandle (s : State) (p : Nat) (h : W32) : State :=
  let s := s.unstage p h
  { s with allocs := s.allocs.filter fun a => !(a.part == p && a.handle == h) }.modPart p fun q =>
    { q with reduced := q.reduced.filter (·.buffer != h) }

def commitFree (s : State) (c : Cmd) (h : W32) (r : Result) : State × Result :=
  let p := s.cmdPart c.id
  if (s.alloc? p h).isSome && !s.checkpointed p h then (freeHandle s p h, r) else (s, Result.badState)

/-! ## MEM_PLACE (0x0203): HANDLE -/

def Home.code : Home → Nat
  | .tile => 0
  | .commons => 1
  | .hbm => 2
  | .ddr => 3

def placeDetail (a : Alloc) : W32 := BitVec.ofNat 32 (a.home.code + 4 * boolNat a.shadow.isSome)

def runMemPlace (s : State) (c : Cmd) (e : Env) : State × Option Result :=
  checked s c [(c.off 0, (e.alloc? (c.w 0)).isSome)] true [] [] e fun s =>
    (s, some (Result.okDetail (((e.alloc? (c.w 0)).map placeDetail).getD 0#32)))

def execMemPlace (c : CmdId) (s : State) : Answer := runOp 0x0203 c s runMemPlace

/-! ## LAYER_PLAN (0x0204): HANDLES, W, P -/

def runLayerPlan (s : State) (c : Cmd) (e : Env) : State × Option Result :=
  let r := c.a 0
  let hs := (e.entries r 4).map fun w => w.getD 0 0#32
  checked s c [(c.off 0, decide (1 ≤ r.count) && decide (r.count ≤ 4096) && e.arrayOk r 4), (c.off 1, decide (c.n 1 < 16)),
      (c.off 2, decide (c.n 2 < 16))]
    (hs.all fun h => ((e.firstAlloc? h).map (·.stream)).getD false) [(r.handle, r.off, 4 * r.count)] [] e fun s =>
    (s, some (Result.ok (.plan hs (c.n 1) (c.n 2))))

def execLayerPlan (c : CmdId) (s : State) : Answer := runOp 0x0204 c s runLayerPlan

/-- A depth that a plan leaves to TIER.WIN_DEFAULT (R154, Table 6-12). -/
def depthOr (n deflt : Nat) : Nat := if n = 0 then (if deflt = 0 then 1 else deflt) else n

/-- The plan is set at commit, when its windows and staging slots fit (R154). A plan that it replaces keeps its schedule and
its room while a command binds it (R155; DESIGN CHOICE, log 63). -/
def commitPlan (s : State) (c : Cmd) (hs : List W32) (w p : Nat) (r : Result) : State × Result :=
  match s.part? (s.cmdPart c.id), s.ctx? c.ctx, s.iface? c.id.iface with
  | some q, some x, some f =>
    let as := s.partAllocs q.num
    if !(hs.all fun h => as.any (·.handle == h)) then (s, Result.badState)
    else
      let l : LayerPlan := { serial := s.fresh, handles := hs, w := depthOr w (field f.winDefault 3 0),
                             p := depthOr p (field f.winDefault 11 8), at_ := 0, slots := [], bad := [], halted := [], window := [] }
      let old := (x.plan.filter fun m => s.planShared c m.serial).toList ++ x.oldPlans
      let s := s.useFresh
      let s0 := s.modCtx c.ctx fun x => { x with plan := none, oldPlans := old }
      let fits := (List.range q.tiles).all (fun i =>
          decide (windowRoom q as (l :: old) ≤ x.foot * kib - s0.tileUsed q c.ctx i)) &&
        decide (stagingRoom as [l] ≤ s0.hbmFree q)
      if fits then (s0.modCtx c.ctx fun x => { x with plan := some ((l.refill as).load as 0) }, r) else (s, Result.bare stNO_RESOURCE)
  | _, _, _ => (s, Result.badState)

/-! ## MEM_STATS (0x0205): SOURCE, OUT -/

/-- The record of Table 11-8. -/
def statsBytes (t : Stats) : List Byte :=
  leBytes 8 t.elements ++ leBytes 8 t.overflowed ++ leBytes 8 t.vanished ++ leBytes 8 t.nans ++ leBytes 4 t.amax.toNat ++
  leBytes 4 0

/-- A reference that names a byte buffer for output (R478): INT8, and room for n bytes from its OFFSET. -/
def bufferChecks (e : Env) (off : Nat) (r : TRef) (n : Nat) : List Check :=
  outputChecks e off r ++ [(off, r.conv == 0 && r.ds == 0#32 && e.bufferOk r.handle r.off n && decide (n ≤ e.len r))]

def runMemStats (s : State) (c : Cmd) (e : Env) : State × Option Result :=
  checked s c ([(c.off 0, (e.alloc? (c.w 0)).isSome)] ++ bufferChecks e (c.off 1) (c.t 1) 40) true [] [] e fun s =>
    (s, some (Result.bare stOK))

def execMemStats (c : CmdId) (s : State) : Answer := runOp 0x0205 c s runMemStats

/-! ## MEM_EXPOSE (0x0206), MEM_UNEXPOSE (0x0207): HANDLE -/

def runMemExpose (s : State) (c : Cmd) (e : Env) : State × Option Result :=
  checked s c [(c.off 0, (e.alloc? (c.w 0)).isSome)] true [] [] e fun s => (s, some (Result.ok (.expose (c.w 0))))

def execMemExpose (c : CmdId) (s : State) : Answer := runOp 0x0206 c s runMemExpose

/-- The keys in use: of the proxy mailbox, the control windows, the queue areas and the exposed allocations. -/
def State.liveKeys (s : State) : List W32 :=
  s.mgt.proxyKey :: s.ifaces.flatMap (fun f => [f.windowKey, f.qareaKey]) ++ s.allocs.filterMap (·.key)

/-- The keys remembered, with those that have ended since the last issue marked as withdrawn at the present count of issues,
and without those that 2^24 others have followed (R293). -/
def State.keysNow (s : State) : List (W32 × Option Nat) :=
  let live := s.liveKeys
  (s.keys.map fun (k, t) => (k, if live.contains k then none else some (t.getD s.issued))).filter fun (_, t) =>
    (t.map fun n => decide (s.issued < n + 2 ^ 24)).getD true

/-- A remote key that the module issues: nonzero, not live, and no withdrawn key that fewer than 2^24 others have followed
(R293). The module's choice (log 11). -/
def State.newKey (s : State) : W32 :=
  let bad := fun (k : W32) => k == 0#32 || s.liveKeys.contains k || s.keysNow.any (·.1 == k)
  let k := Config.rkey s.fresh
  if bad k then
    (((List.range (s.keysNow.length + s.liveKeys.length + 1)).map fun i => BitVec.ofNat 32 (i + 1)).find? fun k => !bad k).getD 0#32
  else k

/-- Issues a key, and remembers it. -/
def State.issueKey (s : State) : W32 × State :=
  let k := s.newKey
  (k, { s with keys := s.keysNow ++ [(k, none)], issued := s.issued + 1 }.useFresh)

def commitExpose (s : State) (c : Cmd) (h : W32) (r : Result) : State × Result :=
  let p := s.cmdPart c.id
  match s.alloc? p h with
  | none => (s, Result.badState)
  | some a =>
    match a.key with
    | some k => (s, { r with detail := k })
    | none =>
      let (k, s) := s.issueKey
      (s.modAlloc p h fun a => { a with key := some k, keyIface := c.id.iface }, { r with detail := k })

def runMemUnexpose (s : State) (c : Cmd) (e : Env) : State × Option Result :=
  checked s c [(c.off 0, (e.alloc? (c.w 0)).isSome)] true [] [] e fun s =>
    match (s.alloc? e.part.num (c.w 0)).bind (·.key) with
    | none => (s, some (Result.bare stALREADY_DONE))
    | some _ => (s, some (Result.ok (.unexpose (c.w 0))))

def execMemUnexpose (c : CmdId) (s : State) : Answer := runOp 0x0207 c s runMemUnexpose

def commitUnexpose (s : State) (p : Nat) (h : W32) : State := s.modAlloc p h fun a => { a with key := none }

/-! ## What a commit of a write leaves behind -/

/-- The bytes of a shadow in HBM: half a byte per element, 4 bytes per column (R145). -/
def Shadow.size (h : Shadow) : Nat := (h.elems.length + 1) / 2 + 4 * h.scales.length

/-- An armed injection damages the check units of a shadow that a commit has written to HBM (spec 15 R402). -/
def State.strikeShadow (s : State) (p : Nat) (h : W32) : State :=
  match (if s.flt.armed then (s.contents p h).bind fun a => a.shadow.map fun d => (a, d) else none) with
  | none => s
  | some (a, d) =>
    (List.range ((d.size + 63) / 64)).foldl (fun (s : State) u =>
      if s.flt.selects 3 ({ a with home := .hbm }.unitAt (s.span p) u) (some p) then
        let bad := maskOutcome .hbm s.flt.injMask s.fresh == 2
        (s.injected.modContents p h fun b => { b with shadow := b.shadow.map fun d =>
          { d with uncorr := if bad then addOnce u d.uncorr else d.uncorr } }).useFresh
      else s) s

/-- A committed write: elements, scales, decode scale, statistics, fresh check bits (spec 11 R295; 06 R158, R163, R166;
02 R47). -/
def State.commitWrite (s : State) (p : Nat) (w : TWrite) : State :=
  match s.alloc? p w.handle with
  | none => s
  | some _ =>
    (((s.writeNow p w).modContents p w.handle fun a =>
      { a with stats := w.stats, version := a.version + 1 }.reshadow).strikeShadow p w.handle).unstage p w.handle

/-- The format counters of the issuing interface (spec 03 R79). -/
def Cnv.add (c : Cnv) (t : Stats) : Cnv :=
  { total := sat64 (c.total + t.elements), ovf := sat64 (c.ovf + t.overflowed), van := sat64 (c.van + t.vanished) }

def State.countWrite (s : State) (i : Nat) (w : TWrite) : State :=
  match w.count with
  | none => s
  | some f => s.modIface i fun x => { x with cnv := Tab.mod x.cnv f { total := 0, ovf := 0, van := 0 } (·.add w.stats) }

def State.commitWrites (s : State) (p i : Nat) : List TWrite → State
  | [] => s
  | w :: r => State.commitWrites ((s.commitWrite p w).countWrite i w) p i r

/-! ## Transposes (spec 02 R47 to R50) -/

/-- The transposed copy with one block rebuilt from the committed forward contents: bit patterns for formats without block
scaling, else values re-encoded under new scales. -/
def Alloc.transposeBlock (a : Alloc) (b : Nat) : Alloc :=
  match a.tcopy, a.transposed with
  | some t, some v =>
    let ks := a.blockElems b
    let image : Alloc :=
      if a.block then
        let rows := a.rows
        let heads := ks.filter fun k => k % a.cols % 32 == 0
        heads.foldl (fun (v : Alloc) k =>
          let src := (List.range 32).map fun j => k + j
          let (sc, es) := encodeBlock a.code false (src.map fun _ => none) (src.map a.exact)
          let dst := src.map fun k => k % a.cols * rows + k / a.cols
          (v.putElems (dst.zip (es.map (·.1)))).putScales [(v.scaleAddr (dst.headD 0), sc)]) v
      else v.putElems (ks.map fun k => (k % a.cols * a.rows + k / a.cols, a.pattern k))
    { a with tcopy := some { t with mem := image.mem, tags := Tab.set t.tags b (Tab.get a.blockEpochs b 0#32),
                                    queued := t.queued.filter (· != b), jobs := t.jobs.filter (·.1 != b), inProgress := none } }
  | _, _ => a

/-- The compute dies that a partition has clovers of; each has four clovers (spec 00 Table 0-6). -/
def Part.dies (p : Part) : List Nat := (List.range (max 1 ((p.c0 + p.n - 1) / 4 + 1 - p.c0 / 4))).map (p.c0 / 4 + ·)

/-- The die whose transpose engine rebuilds a block: the blocks of a weight go round the dies of the partition (DESIGN CHOICE,
log 67). -/
def Part.engineOf (p : Part) (b : Nat) : Nat := p.dies.getD (b % p.dies.length) 0

/-- The blocks of a partition that committed commands have queued for the engine of a die: job, handle, block. -/
def State.transposes (s : State) (p : Part) (die : Nat) : List (Nat × W32 × Nat) :=
  (s.partAllocs p.num).flatMap fun a => match a.tcopy with
    | some t => (t.jobs.filter fun j => t.queued.contains j.1 && p.engineOf j.1 == die).map fun j => (j.2, a.handle, j.1)
    | none => []

/-- The partition and the job that a die's engine serves next: it finishes the job it serves, then turns to the next partition of
the die in increasing cyclic order that has work there, and takes that one's oldest job (spec 01 R17). -/
def State.engineTurn (s : State) (die : Nat) : Option (Nat × Nat) :=
  let work := s.parts.filterMap fun p => (minBy id ((s.transposes p die).map (·.1))).map fun j => (p, j)
  let last := Tab.get s.shared.turns die (0, 0)
  let goes := work.any fun (p, _) => p.num == last.1 && (s.transposes p die).any fun x => x.1 == last.2
  if goes then some last
  else
    let next := (minBy (fun x : Part × Nat => x.1.num) (work.filter fun x => decide (last.1 < x.1.num))).or
      (minBy (fun x : Part × Nat => x.1.num) work)
    next.map fun (p, j) => (p.num, j)

/-- TRANSPOSE_BLOCK: an engine rebuilds a queued block of a weight of its partition, when it is that command's turn. -/
def execTransposeBlock (part : Nat) (handle : W32) (block : Nat) (s : State) : Answer :=
  match (if s.awake then s.part? part else none) with
  | none => .next s
  | some p =>
    let die := p.engineOf block
    match s.engineTurn die with
    | none => .next s
    | some (n, j) =>
      if n = part ∧ (s.transposes p die).contains (j, handle, block) = true then
        .next ({ s with shared := { s.shared with turns := Tab.set s.shared.turns die (n, j) } }.modAlloc part handle (·.transposeBlock block))
      else .next s

/-- The blocks that a commit has queued become its job (R47, R48); those of tensors that an ATOMIC command is still writing wait
for its own. -/
def State.numberJobs (s : State) (p : Nat) (writing : List W32) : State :=
  { s with
    allocs := modWhere (fun a => a.part == p && !writing.contains a.handle) (fun a => { a with tcopy := a.tcopy.map fun t =>
      { t with jobs := t.jobs ++ (t.queued.filter fun b => !t.jobs.any (·.1 == b)).map fun b => (b, s.stamp) } }) s.allocs
    stamp := s.stamp + 1 }

/-! ## Staging (R156, R157, R159, R162) -/

/-- The entry being fetched: the first slot whose copy is not complete and has met no uncorrectable
read and whose fetch has not stopped. -/
def LayerPlan.fetching (l : LayerPlan) : Option Nat := (l.slots.find? fun (i, d) => !d && !l.bad.contains i && !l.halted.contains i).map (·.1)

def LayerPlan.staged (l : LayerPlan) (i : Nat) : LayerPlan :=
  { l with slots := l.slots.map fun (j, d) => (j, d || j == i) }

def LayerPlan.spoiled (l : LayerPlan) (i : Nat) : LayerPlan := { l with bad := addOnce i l.bad }

/-- A change of the plan of a context that a number names. -/
def State.modPlanNo (s : State) (x serial : Nat) (f : LayerPlan → LayerPlan) : State :=
  s.modCtx x (·.modPlans fun m => if m.serial = serial then f m else m)

/-- Reads by a staging fetch: corrected errors are recorded and written back; an uncorrectable one is recorded and fails no
command by itself (R162, R165). -/
def stageErrors (s : State) (p : Nat) (a : Alloc) : State :=
  let note := fun (s : State) (ue : Bool) (u : Nat) =>
    s.detect { source := readSource a.home (a.unitAt (s.span p) u) ue, inst := a.unitAt (s.span p) u, part := some p, info := 0, cmd := none }
  let s := a.corr.foldl (fun t u => note t false u) s
  (a.uncorr.take 1).foldl (fun t u => note t true u) (s.modContents p a.handle fun b => { b with corr := [] })

/-- The fetch of a context that is in progress: replaced plans first, each in sequence order. -/
def Ctx.fetch (x : Ctx) : Option (LayerPlan × Nat) :=
  (x.oldPlans ++ x.plan.toList).findSome? fun l => l.fetching.map fun i => (l, i)

def stagingFetch (s : State) (x : Ctx) : State :=
  match x.fetch with
  | none => s
  | some (l, i) =>
    match s.contents x.part (l.handles.getD i 0#32) with
    | none => s
    | some a =>
      let s := s.modPlanNo x.id l.serial fun m => if a.uncorr.isEmpty then m.staged i else m.spoiled i
      stageErrors s x.part a

/-- STAGING_FETCH_COMPLETE: the fetch in progress ends, in sequence order. -/
def execStagingFetchComplete (ctx : Nat) (s : State) : Answer :=
  match (if s.awake then s.ctx? ctx else none) with
  | some x => .next (stagingFetch s x)
  | none => .next s

/-- The entries of the plan that a command binds are allocations of its partition (R148). -/
def Env.planOk (e : Env) : Bool :=
  ((e.first.ctx.bind (·.plan)).map fun l => l.handles.all fun h => (e.firstAlloc? h).isSome).getD true

/-- A traversal comes to entry k: earlier uses end, and the window moves on. -/
def State.arriveAt (s : State) (c : Cmd) (k : Nat) : State :=
  let as := s.partAllocs (s.cmdPart c.id)
  s.modSchedule c fun m => (m.arrive as k).load as k

/-- A traversing command goes on to its next DDR5-homed entry, or to the end of the sequence; whether it has ended. -/
def State.traverse (s : State) (c : Cmd) : State × Bool :=
  match c.plan, c.nextEntry with
  | none, _ => (s, true)
  | some _, some i => (s.arriveAt c i, false)
  | some l, none => (s.arriveAt c l.handles.length, true)

/-- A batch step of a GENERATE partition whose context is in normal mode computes an entry that has a shadow from it
(Table 6-5). -/
def shadowPath (p : Part) (c : Cmd) (a : Alloc) : Bool :=
  c.opcode == 0x0403 && p.role == roleGenerate && a.shadow4 && a.home == .ddr &&
  !(((c.first.bind (·.ctx)).map (·.det)).getD false)

/-- A command fails on a read. -/
def State.failRead (s : State) (c : Cmd) : State :=
  let t := s.endWith c (Result.bare stUNCORRECTABLE)
  t.cascade t.cmds.length

/-- The use of entry i begins, from its staging copy or, late, from its shadow, whose fetch stops (R159). -/
def State.useEntry (s : State) (c : Cmd) (i : Nat) (late : Bool) : State :=
  let as := s.partAllocs (s.cmdPart c.id)
  let s := (s.endWait c).modCmd c.id fun k =>
    { k with stage := i + 1, waitSince := none, late := if late then addOnce i k.late else k.late }
  s.modSchedule c fun m => { m with halted := if late then addOnce i m.halted else m.halted }.load as i

/-- The deadline of an entry: used from its staging copy, from its shadow, or waited for (R159, R162). -/
def weightDeadline (s : State) (c : Cmd) (p : Part) (l : LayerPlan) (i : Nat) : State :=
  let s := s.arriveAt c i
  match s.contents p.num (l.handles.getD i 0#32), s.schedule c with
  | some a, some m =>
    if m.slots.contains (i, true) then s.useEntry c i false
    else if shadowPath p c a then
      let bad := (a.shadow.map (·.uncorr)).getD []
      if bad.isEmpty then
        (s.modIface c.id.iface fun f => { f with lateUses := satNat32 (f.lateUses + 1) }).useEntry c i true
      else
        let unit := { a with home := .hbm }.unitAt (s.span p.num) (bad.headD 0)
        (s.record { source := readSource .hbm unit true, inst := unit, part := some p.num, info := c.opcode, cmd := some c.id }).failRead c
    else if m.bad.contains i then s.failRead c
    else s.modCmd c.id fun k => { k with waitSince := some (k.waitSince.getD s.clk.localUs) }
  | _, _ => s.useEntry c i false

/-- WEIGHT_DEADLINE: the command processor would dispatch the first work item that reads the entry (R159). -/
def execWeightDeadline (c : CmdId) (index : Nat) (s : State) : Answer :=
  match (if s.awake then s.cmd? c else none) with
  | none => .next s
  | some k =>
    match s.part? (s.cmdPart c), k.plan with
    | some p, some l =>
      if k.phase = .dispatched ∧ traverses k.opcode = true ∧ k.inserted = true ∧ k.nextEntry = some index then
        .next (weightDeadline s k p l index) else .next s
    | _, _ => .next s

end Sys2Proof.Machine
end

