-- ==== Sys2Proof/Machine/Passes.lean ====
section
/-!
DEFINITION. A pass of a model over its layer plan (spec 07 R183, R184; 06 R155, R164): the product of each entry, from its
weights or from its shadow, the keys and values of a position, and its score row. What stands between the products is
open (log 7).
-/
namespace Sys2Proof.Machine

/-! ## Tensors that a command holds while it runs -/

/-- A tensor without a handle: format, decode scale, extents. -/
def scratch (fmt : Byte) (d : W32) (rows cols : Nat) : Alloc :=
  { Alloc.fresh { size := shapeBytes fmt rows cols, flags := 0#16, fmt := fmt, rank := 2, dims := [rows, cols], affinity := 0 }
      0#32 0 none .hbm 0 with dscale := d }

/-- Values encoded into a tensor from its first element on: the tensor, and the write. -/
def Alloc.filled (a : Alloc) (conv : Nat) (bits : List (Option Nat)) (vs : List W32) : Alloc × TWrite :=
  let w := encodeInto a conv none 0 bits (vs.map decode32)
  ((a.putElems w.elems).putScales w.scales, w)

/-- A format that a tensor of rows of n elements may have; another reads as BF16 (log 7). -/
def tensorFmt (f : Byte) (n : Nat) : Byte := if fmtOk f && !fmtRowK f && (!fmtBlock f || n % 32 == 0) then f else 1#8

/-- The same for an operand row, which has at most 16 bits (spec 02 Table 2-2). -/
def rowFmt (f : Byte) (n : Nat) : Byte := if f = 0#8 then 1#8 else tensorFmt f n

/-! ## Outputs that belong to no handle (spec 03 R78, R79, R81) -/

def Stats.join (a b : Stats) : Stats :=
  { elements := a.elements + b.elements, overflowed := a.overflowed + b.overflowed, vanished := a.vanished + b.vanished,
    nans := a.nans + b.nans, amax := if flt a.amax b.amax then b.amax else a.amax }

/-- What a command has encoded into one of its inner outputs: format code, whether it is guarded, and the statistics. -/
structure Made where
  code : Nat
  guarded : Bool
  stats : Stats
deriving DecidableEq, Repr, Inhabited

/-- A write of an inner output, by ordinal, joins the others. -/
def noteMade (o : Tab Made) (k : Nat) (a : Alloc) (w : TWrite) : Tab Made :=
  Tab.mod o k { code := a.code, guarded := guardedFmt a, stats := Stats.zero } fun m => { m with stats := m.stats.join w.stats }

/-- Inner outputs for the guard and the format counters: writes of no allocation. -/
def madeWrites (o : Tab Made) : List (Nat × Bool × TWrite) :=
  o.map fun (k, m) => (k, m.guarded, { handle := 0#32, elems := [], scales := [], stats := m.stats, dscale := none, count := some m.code })

/-! ## Products -/

/-- Row i of a product, through stages 2 and 3 (spec 02 Table 2-4; 03 R73). -/
def Alloc.times (x w : Alloc) (i : Nat) : List W32 :=
  (rowAccs x w (intPair x.code x.block w.code w.block) (i * x.cols) 0 w.rows w.cols).map fun t => encode32 (stage3 x w none t.1)

/-- The row scale of a shadow pass (spec 06 R164). -/
def shadowRowScale (xs : List W32) : W32 :=
  let r := fdiv (amaxOf (xs.map decode32)) 0x42FE0000#32
  if isZero r then one32 else r

/-- x / r, rounded to nearest even, saturated to −127 … 127 (R164). -/
def shadowQ (r x : W32) : Int :=
  match (decode32 x).div (decode32 r) with
  | .num neg n d => let k := min (rneDiv n d) 127; if neg then -(k : Int) else k
  | .inf neg => if neg then -127 else 127
  | .nan => 0

/-- A row of a shadow pass: INT8 × INT4 operands, and stages 2 and 3 replaced (spec 06 R164). -/
def Shadow.times (h : Shadow) (cols : Nat) (xs : List W32) : List W32 :=
  if xs.any fun x => !(decode32 x).isFinite then List.replicate cols nan32
  else
    let r := shadowRowScale xs
    let q := xs.map (shadowQ r)
    (List.range cols).map fun j =>
      let acc := (List.range q.length).foldl (fun (z : Int) k => z + q.getD k 0 * (h.elems.getD (k * cols + j) 0#4).toInt) 0
      fmul (encode32 (.num (decide (acc < 0)) acc.natAbs 1)) (fmul r (h.scales.getD j one32))

/-! ## A position through a model -/

/-- What a pass works with: the coefficient set, the numbers of the model, the entries with whether each is computed from
its shadow, the format and the extents of the keys and values of a position. -/
structure Pass where
  coef : W16
  geom : List Nat
  entries : List (Alloc × Bool)
  kvFmt : Byte
  kvRows : Nat
  kvCols : Nat
deriving Repr, Inhabited

/-- The bytes of the keys and values of one position (spec 07 R181). -/
def Pass.kvSize (m : Pass) : Nat := shapeBytes m.kvFmt m.kvRows m.kvCols

/-- The product of one entry with an operand row. -/
def entryTimes (a : Alloc) (late : Bool) (x : Alloc) : List W32 :=
  match (if late then a.shadow else none) with
  | some h => h.times a.cols (x.values 0 x.elements)
  | none => x.times a 0

/-- The products of the entries, in plan order; `n` is the ordinal of the next operand row. Operand rows round to nearest
even and saturate (log 7). -/
def Pass.layers (m : Pass) (token : W32) (pos : Nat) (kv : List Byte) (n : Nat) :
    List (Alloc × Bool) → List (List W32) → Tab Made → List (List W32) × Tab Made
  | [], ys, o => (ys, o)
  | (a, late) :: r, ys, o =>
    let (f, d, vs) := Config.layerIn m.coef m.geom token pos kv ys
    let (x, w) := (scratch (rowFmt f a.rows) (if posNormal d then d else one32) 1 a.rows).filled 0 (List.replicate a.rows none)
      ((List.range a.rows).map (nth vs))
    m.layers token pos kv (n + 1) r (ys ++ [entryTimes a late x]) (noteMade o n x w)

/-- A token at a position: the score row it yields, and the bytes of its keys and values. -/
def Pass.position (m : Pass) (token : W32) (pos : Nat) (kv : List Byte) (o : Tab Made) : List W32 × List Byte × Tab Made :=
  let (ys, o) := m.layers token pos kv (m.geom.headD 0 * 65536) m.entries [] o
  let (e, w) := (scratch m.kvFmt one32 m.kvRows m.kvCols).filled 0 (List.replicate (m.kvRows * m.kvCols) none)
    ((List.range (m.kvRows * m.kvCols)).map (nth (Config.kvValues m.coef m.geom token pos kv ys)))
  (Config.scoresOf m.coef m.geom token pos kv ys, e.bytes 0 m.kvSize, noteMade o (m.geom.headD 0 * 65536 + 32768) e w)

/-- Tokens at successive positions: the score row of each, and the keys and values that the cache then holds. -/
def Pass.positions (m : Pass) : List W32 → Nat → List Byte → Tab Made → List (List W32) × List Byte × Tab Made
  | [], _, kv, o => ([], kv, o)
  | t :: ts, pos, kv, o =>
    let (row, e, o) := m.position t pos kv o
    let (rows, kv, o) := m.positions ts (pos + 1) (kv ++ e) o
    (row :: rows, kv, o)

/-- The smallest index that holds the maximum of a raw score row (spec 07 R194). -/
def proposal (row : List W32) : Nat := (row.findIdx? (fun y => feq y (rowMax row))).getD 0

/-- Proposals of a draft model, each fed back as the next token: `row` is the row of the position before (R194). -/
def Pass.propose (m : Pass) : Nat → List W32 → Nat → List Byte → Tab Made → List Nat × List Byte × Tab Made
  | 0, _, _, kv, o => ([], kv, o)
  | 1, row, _, kv, o => ([proposal row], kv, o)
  | n + 2, row, pos, kv, o =>
    let x := proposal row
    let (row, e, o) := m.position (BitVec.ofNat 32 x) pos kv o
    let (xs, kv, o) := m.propose (n + 1) row (pos + 1) (kv ++ e) o
    (x :: xs, kv, o)

end Sys2Proof.Machine
end

