-- ==== Sys2Proof/Machine/Random.lean ====
section
/-!
DEFINITION. The random family (spec 05 R120, R126-R131).
-/
namespace Sys2Proof.Machine

/-! ## RNG_SET (0x0A01): SEED, MODE -/

/-- An uncompleted command of the context that bound its seed and mode before a change that `c` makes: any bound command
but a change dispatched later (R127). -/
def State.seedBound (s : State) (c : Cmd) : Bool :=
  s.cmds.any fun k => k.ctx == c.ctx && k.id != c.id && k.first.isSome &&
    !((k.opcode == 0x0A01 || k.opcode == 0x0A04) && decide (c.disp < k.disp))

def runRngSet (s : State) (c : Cmd) (e : Env) : State × Option Result :=
  checked s c [(c.off 1, decide (c.n 1 < 2))] true [] [] e fun s =>
    if s.seedBound c then (s, none) else (s, some (Result.ok (.rngSet (BitVec.ofNat 64 (c.d 0)) (c.n 1 == 1))))

def execRngSet (c : CmdId) (s : State) : Answer := runOp 0x0A01 c s runRngSet

/-- Seed and mode change; every tile takes generation 0 with no draws. -/
def commitRngSet (s : State) (x : Nat) (seed : W64) (det : Bool) : State :=
  s.modCtx x fun c => { c with seed := seed, det := det, gens := [] }

/-! ## RNG_FILL (0x0A02): CODE, OUT, STREAM, BASE, q -/

/-- 2^58, the end of word positions (R116). -/
def posEnd : Nat := 2 ^ 58

/-- The word position of the last element (R128). -/
def lastPos (code base n : Nat) : Nat := if n = 0 then base else if code = 2 then base + (n - 1) / 4 else base + (n - 1)

def probOk (q : W32) : Bool := fle 0#32 q && fle q one32

/-- floor(q × 2^32) of a probability. -/
def probBound (q : W32) : Nat :=
  match decode32 q with
  | .num _ n d => n * 2 ^ 32 / d
  | _ => 0

def uniformValue (w : Nat) : W32 := encode32 (.num false (w / 256) (2 ^ 24))

/-- The value of an element from its word or byte. -/
def fillValue (code : Nat) (q : W32) (w : Nat) : Val :=
  match code with
  | 0 => decode32 (uniformValue w)
  | 1 => if w < probBound q then decode32 one32 else decode32 0#32
  | _ => let z := twosInt 8 w; .num (decide (z < 0)) z.natAbs 1

def fillWidth (code : Nat) : Nat := if code = 2 then 8 else 32

/-- The words of a deterministic fill (Table 5-2, class 0x03). -/
def fillDet (seed : W64) (code stream base n : Nat) : List Nat :=
  (List.range n).map fun i =>
    if code = 2 then pieceOf (ctrWord seed 3 stream 0 (base + i / 4)) 8 (i % 4)
    else (ctrWord seed 3 stream 0 (base + i)).toNat

def fillFields (c : Cmd) (e : Env) : List Check :=
  let code := c.n 0
  let r := c.t 1
  outputChecks e (c.off 1) r ++
  [ (c.off 0, decide (code < 3)), (c.off 1, (if code = 0 then decide (fmtCode r.fmt < 8) else r.fmt == int8Field) && !convStoch r.conv),
    (c.off 3, decide (c.d 3 < posEnd) && decide (lastPos code (c.d 3) (e.len r) < posEnd)),
    (c.off 4, code != 1 || probOk (c.w 4)) ]

/-- What a fill answers: counter words of a deterministic context, else pieces of the table generators. NONSAT has no
effect: a result that a decode scale below 1.0 carries out of range saturates (R128, log 62). -/
def fillResult (s : State) (c : Cmd) (e : Env) (a : Alloc) : Result :=
  let r := c.t 1
  let n := e.len r
  let (ws, x) := if e.det then (fillDet e.seed (c.n 0) (c.n 2) (c.d 3) n, s.drawer e)
    else (s.drawer e).pieces (c.spot e 0) (fillWidth (c.n 0)) n
  let tw := encodeInto a 0 (if r.ds = 0#32 then none else some r.ds) r.off (List.replicate n none)
    (ws.map (fillValue (c.n 0) (c.w 4)))
  outputsResult c [(0, guardedFmt a, tw)] (if e.det then none else some x.gens) (Result.bare stOK)

def runRngFill (s : State) (c : Cmd) (e : Env) : State × Option Result :=
  checked s c (fillFields c e) true [] [] e fun s =>
    if !e.det && s.generatorHeld c e.part.tiles then (s, none)
    else
      match e.alloc? (c.t 1).handle with
      | none => (s, some Result.badState)
      | some a => (s, some (fillResult s c e a))

def execRngFill (c : CmdId) (s : State) : Answer := runOp 0x0A02 c s runRngFill

/-! ## RNG_STATE_GET (0x0A03), RNG_STATE_PUT (0x0A04): HANDLE -/

def stateSize (tiles : Nat) : Nat := 16 + 288 * tiles

def runRngStateGet (s : State) (c : Cmd) (e : Env) : State × Option Result :=
  checked s c [(c.off 0, e.bufferOk (c.w 0) 0 (stateSize e.part.tiles))] true [] [] e fun s =>
    (s, some { Result.bare stOK with
      writes := [rawWrite (c.w 0) 0 (genBytes e.ctx.seed e.ctx.det e.part.tiles e.ctx.gens)] })

def execRngStateGet (c : CmdId) (s : State) : Answer := runOp 0x0A03 c s runRngStateGet

/-- The bytes of a saved state at the start of a buffer, as the command sees them: its header, and the entries of the
tiles that the header names (R129). -/
def Env.buffer (e : Env) (h : W32) : List Byte :=
  ((e.alloc? h).map fun a => a.bytes 0 (min a.size (stateSize (min (leNat (a.bytes 10 1)) 128)))).getD []

def runRngStatePut (s : State) (c : Cmd) (e : Env) : State × Option Result :=
  let bs := e.buffer (c.w 0)
  checked s c [(c.off 0, e.bufferOk (c.w 0) 0 0)] (genStateOk bs) [(c.w 0, 0, bs.length)] [] e fun s =>
    if s.seedBound c then (s, none)
    else
      let (seed, det, t, gens) := genParse bs
      (s, some (Result.ok (.rngPut seed det (genReshape t e.part.tiles gens))))

def execRngStatePut (c : CmdId) (s : State) : Answer := runOp 0x0A04 c s runRngStatePut

def commitRngPut (s : State) (x : Nat) (seed : W64) (det : Bool) (gens : Tab Gen) : State :=
  s.modCtx x fun c => { c with seed := seed, det := det, gens := gens }

/-! ## TABLE_REFILL (R120) -/

/-- The tile whose generator made the last draw of its generation refills its table of 16,384 words. -/
def tableRefill (s : State) (x : Ctx) (tile : Nat) : State :=
  let g := Tab.get x.gens tile Gen.start
  let first := ((s.part? x.part).map (·.firstTile)).getD 0
  let s := if g.refill = g then s else s.strikeTable x.part (first + tile) 8192
  s.modCtx x.id fun c => { c with gens := c.gens.map fun (t, g) => if t = tile then (t, g.refill) else (t, g) }

def execTableRefill (ctx tile : Nat) (s : State) : Answer :=
  match (if s.awake then s.ctx? ctx else none) with
  | some x => .next (tableRefill s x tile)
  | none => .next s

end Sys2Proof.Machine
end

