-- ==== Sys2Proof/Machine/Rings.lean ====
section
/-!
DEFINITION. Trajectory rings as the commands bind them (spec 08 R210, R218, R219, R221): pages, the hold of a scan, the claim
of a gather, and the queue of the return-scan unit (spec 01 R17).
-/
namespace Sys2Proof.Machine

def Part.ring? (p : Part) (n : Nat) : Option Ring := p.rings.find? (·.number == n)
def Part.modRing (p : Part) (n : Nat) (f : Ring → Ring) : Part := { p with rings := modWhere (·.number == n) f p.rings }

/-! ## Lowest free numbers -/

/-- The n lowest numbers that are not used. -/
def lowestFree (used : List Nat) (n : Nat) : List Nat := ((List.range (used.length + n)).filter fun k => !used.contains k).take n

/-! ## Pages: 64 records of one request in 2,112 bytes (R210) -/

def Ring.usedPages (r : Ring) : List Nat := (r.trajs ++ r.queue).flatMap (·.pages)

/-- Pages not reserved by a trajectory. -/
def Ring.freePages (r : Ring) : Nat := r.pages - r.usedPages.length

/-- The pages that an admission reserves: the lowest that are free (DESIGN CHOICE, log 17). -/
def Ring.takePages (r : Ring) (n : Nat) : List Nat := lowestFree r.usedPages n

/-- The bytes of the pages that hold a trajectory's records. -/
def Traj.ranges (t : Traj) (h : W32) : List (W32 × Nat × Nat) :=
  (t.pages.take ((t.recs.length + 63) / 64)).map fun g => (h, 2112 * g, 2112)

/-! ## The hold of a scan (R218) -/

/-- The trajectory of a request that is not scanned: the oldest. -/
def Ring.unscanned (r : Ring) (request : W32) : Option Traj := r.trajs.find? fun t => t.request == request && !t.scanned

/-- The trajectory of a request is held for a command, unless another holds it. -/
def Ring.hold (request : W32) (c : CmdId) (r : Ring) : Ring :=
  let mine := fun (t : Traj) => t.request == request && !t.scanned
  { r with trajs := r.trajs.takeWhile (fun t => !mine t) ++
      (match r.trajs.dropWhile fun t => !mine t with
       | t :: l => { t with holder := some (t.holder.getD c) } :: l
       | [] => []) }

def holdTraj (s : State) (p n : Nat) (request : W32) (c : CmdId) : State := s.modPart p fun q => q.modRing n (·.hold request c)

/-- The trajectory that an EXP_SCORE names in a ring of its partition. -/
def State.scoreTarget (s : State) (c : Cmd) : Option Traj :=
  ((s.part? (s.cmdPart c.id)).bind (·.ring? (c.n 0))).bind (·.unscanned (c.w 1))

/-! ## The queue of the return-scan unit (R219; 01 R17) -/

/-- A command put into a list that ascends in the order of dispatch. -/
def insertDisp (c : Cmd) : List Cmd → List Cmd
  | [] => [c]
  | d :: r => if c.disp ≤ d.disp then c :: d :: r else d :: insertDisp c r

/-- An EXP_SCORE is ready to scan: its trajectory has closed and it holds it. -/
def State.scanReady (s : State) (c : Cmd) : Bool :=
  c.opcode == 0x0703 && c.phase == .dispatched && ((s.scoreTarget c).map fun t => t.closed && t.holder == some c.id).getD false

/-- The scans that have become ready join the unit's queue, in the order of dispatch where several do at once (DESIGN
CHOICE, log 26). -/
def State.joinScans (s : State) : State :=
  let new := (s.cmds.filter fun c => s.scanReady c && !s.shared.scan.contains c.id).foldr insertDisp []
  { s with shared := { s.shared with scan := s.shared.scan ++ new.map (·.id) } }

/-- A command is in one of the 16 lanes: at most 15 that became ready earlier are still in the queue. -/
def State.inLane (s : State) (c : CmdId) : Bool := (s.shared.scan.take 16).contains c

/-! ## The claim of a gather (R221) -/

/-- The ring grants a partition of a module (R210). -/
def Ring.grantsTo (r : Ring) (m p : Nat) : Bool := r.grants.any fun g => field g 13 0 == m && field g 20 16 == p

/-- How many trajectories from the head fit into a number of records. -/
def takeFit : Nat → List Traj → Nat
  | _, [] => 0
  | n, t :: l => if t.recs.length ≤ n then takeFit (n - t.recs.length) l + 1 else 0

/-- Claims the first k unclaimed trajectories of the queue. -/
def claimFirst (c : CmdId) : Nat → List Traj → List Traj
  | 0, l => l
  | _, [] => []
  | k + 1, t :: l => if t.claim.isSome then t :: claimFirst c (k + 1) l else { t with claim := some c } :: claimFirst c k l

/-- The records that a gather may take: MAX_RECORDS, and what its destination holds. -/
def gatherLimit (c : Cmd) (as : List Alloc) : Nat :=
  min (c.n 3) (((as.find? (·.handle == c.w 4)).map (·.size)).getD 0 / 32)

/-- What a gather finds at its first dispatch, kept in `stage`: 1 an empty queue, 2 a head that exceeds a limit, 3 a
claim. -/
def claimAt (s : State) (c : Cmd) (v : View) : State :=
  match (if c.n 0 = s.net.moduleId then (s.part? (c.n 1)).bind fun p => (p.ring? (c.n 2)).map fun r => (p, r) else none) with
  | none => s
  | some (p, r) =>
    if !r.grantsTo s.net.moduleId (s.cmdPart c.id) then s
    else
      let free := r.queue.filter (·.claim.isNone)
      let k := takeFit (gatherLimit c v.allocs) free
      let s := s.modCmd c.id fun d => { d with stage := if free.isEmpty then 1 else if k = 0 then 2 else 3 }
      s.modPart p.num fun q => q.modRing r.number fun r => { r with queue := claimFirst c.id k r.queue }

/-- What the first dispatch of a command takes in a ring: the hold of a scan, the claim of a gather. -/
def bindRing (s : State) (c : Cmd) (v : View) : State :=
  match c.opcode with
  | 0x0703 => if s.fit.scan && c.n 1 / 2 ^ 24 == c.id.iface then (holdTraj s (s.cmdPart c.id) (c.n 0) (c.w 1) c.id).joinScans else s
  | 0x0704 => claimAt s c v
  | _ => s

end Sys2Proof.Machine
end

