-- ==== Sys2Proof/Machine/Packets.lean ====
section
/-!
DEFINITION. The packet path: doorbells, fetching, dispatch, timeouts, and the reply-ring registers (spec 11 R279-R284, R294,
R299, R304, R305; 12 Table 12-3).
-/
namespace Sys2Proof.Machine

/-! ## Doorbells (R279; 15 R396; 16 R414, R415) -/

/-- The control windows answer: the module has booted and is not in the safe state, and the power state keeps the ports
and the control clock (spec 15 R397; 16 Table 16-1). -/
def State.windowUp (s : State) : Bool := s.live && decide (s.pwr.state.toNat ≤ 2)

def State.partFenced (s : State) (p : Nat) : Bool := ((s.part? p).map (·.fenced)).getD false

/-- A write of DBL.SQ_TAIL: accepted within the ring, else discarded and recorded. A fenced partition's doorbells are
discarded without a record. -/
def doorbell (s : State) (i q : Nat) (t : W32) : State :=
  match s.iface? i with
  | none => s
  | some f =>
    if s.partFenced f.part then s
    else
      match f.queue? q with
      | some u =>
        if u.present && decide ((t - u.head).toNat ≤ 2 ^ u.log2) && decide ((t - u.tail).toNat ≤ 2 ^ u.log2) then
          (s.modQueue i q fun u => { u with tail := t, bells := u.bells ++ [(t, s.stamp)] }).tickStamp
        else s.discard i causeR279 true (4 * q)
      | none => s.discard i causeR279 true (4 * q)

def execDoorbellWrite (i q : Nat) (tail : W32) (s : State) : Answer :=
  if s.windowUp then .next (doorbell s.wake i q tail) else .next s

/-! ## Fetching (R281 to R284) -/

/-- Unit u of the ring, counted from its head, as 16 words. -/
def Iface.unit (f : Iface) (q : Queue) (u : Nat) : List W32 :=
  bytesWords 16 (Mem.getBytes f.qarea zeroByte (64 * (q.base + (q.head.toNat + u) % 2 ^ q.log2)) 64)

/-- The words of the packet whose header is unit u from the head. -/
def Iface.packetAt (f : Iface) (q : Queue) (u : Nat) : List W32 :=
  let h := f.unit q u
  if lenOk (hdrLen h) then (List.range (hdrLen h)).flatMap fun i => f.unit q (u + i) else h

/-- The units a packet advances the head by (R283). -/
def advanceOf (ws : List W32) : Nat := if lenOk (hdrLen ws) then hdrLen ws else 1

/-- The units that accepted doorbells cover and that are not fetched. -/
def Queue.covered (q : Queue) : Nat := (q.tail - q.head).toNat

/-- The doorbell that covers a packet whose last unit is n units from the head: the first whose value covers it (R284). -/
def Queue.bellFor (q : Queue) (n : Nat) : Nat :=
  ((q.bells.find? fun b => let d := (b.1 - q.head).toNat; decide (n ≤ d) && decide (d ≤ 8192)).map (·.2)).getD 0

/-- A command that a dependency may name: sequence number, doorbell order, ordinal. -/
structure Named where
  seq : Nat
  bell : Nat
  ord : Nat
deriving DecidableEq, Repr, Inhabited

/-- The packets of a queue that doorbells cover and that are not fetched, from unit u and ordinal n on. -/
def Iface.waiting (f : Iface) (q : Queue) : Nat → Nat → Nat → List Named
  | 0, _, _ => []
  | fuel + 1, u, n =>
    let ws := f.unit q u
    let adv := advanceOf ws
    if q.covered < u + adv then []
    else { seq := hdrSeq ws, bell := q.bellFor (u + adv), ord := n } :: f.waiting q fuel (u + adv) (n + 1)

/-- Every command of a queue of an interface: completed and remembered, in flight, and not yet fetched. -/
def State.named (s : State) (f : Iface) (qn : Nat) (q : Queue) : List Named :=
  (q.done.map fun d => { seq := d.seq, bell := d.bell, ord := d.ord }) ++
  ((s.cmds.filter fun c => c.id.iface == f.num && c.id.queue == qn).map fun c =>
    { seq := c.seq, bell := c.bell, ord := c.id.ord }) ++
  f.waiting q q.covered 0 q.next

/-- The later of two named commands: by doorbell, then by ordinal. -/
def laterNamed (m : Option Named) (n : Named) : Option Named :=
  match m with
  | none => some n
  | some o => if o.bell < n.bell ∨ (o.bell = n.bell ∧ o.ord < n.ord) then some n else some o

/-- The command that a dependency of a packet names: the latest whose doorbell came before the packet's, and in the
packet's own queue the latest before it (R284). -/
def State.resolve (s : State) (f : Iface) (own bell ord : Nat) (d : DepField) : Option Nat :=
  match f.queue? d.queue with
  | none => none
  | some q =>
    if !q.present then none
    else
      let ns := (s.named f d.queue q).filter fun n => n.seq == d.seq &&
        (if d.queue = own then decide (n.ord < ord) else decide (n.bell < bell))
      (ns.foldl laterNamed none).map (·.ord)

/-- Dependency i of a packet, resolved: none when it is of kind 0, or breaks R284. -/
def State.depOf (s : State) (f : Iface) (own bell ord : Nat) (ws : List W32) (i : Nat) : Option Dep :=
  let d := depField ws i
  match d.kind with
  | 1 => (s.resolve f own bell ord d).map fun n => { idx := i, kind := .ok, queue := d.queue, ord := n, value := 0#32 }
  | 2 => (s.resolve f own bell ord d).map fun n => { idx := i, kind := .any, queue := d.queue, ord := n, value := 0#32 }
  | 3 => some { idx := i, kind := .event, queue := d.seq, ord := 0, value := d.value }
  | _ => none

/-- The fetch checks that need the module's state (R283): the context, and what each dependency names. -/
def State.fetchChecks (s : State) (f : Iface) (own bell ord : Nat) (ws : List W32) : List Check :=
  let x := field (wordAt ws 8) 11 0
  (0x08, ((s.ctx? x).map (·.iface == f.num)).getD false) ::
  (List.range 4).map fun i =>
    let k := (depField ws i).kind
    (0x18 + 8 * i, (k != 1 && k != 2) || (s.depOf f own bell ord ws i).isSome)

/-- The command of a fetched packet. -/
def State.newCmd (s : State) (f : Iface) (qn : Nat) (q : Queue) (ws : List W32) : Cmd :=
  let bell := q.bellFor (advanceOf ws)
  { id := { iface := f.num, queue := qn, ord := q.next }, opcode := hdrOpcode ws, flags := wordAt ws 4,
    ctx := field (wordAt ws 8) 11 0, seq := hdrSeq ws, timeout := (wordAt ws 0x10).toNat,
    event := field (wordAt ws 0x14) 7 0
    deps := (List.range 4).filterMap fun i => s.depOf f qn bell q.next ws i
    words := ws, bell := bell, fetchUs := s.clk.localUs, attempts := 0, phase := .fetched, disp := 0, order := 0,
    first := none, view := none, atomic := false, stage := 0, begun := false, reads := [], failedReads := [], late := [],
    guardLog2 := 0, waitSince := none, batch := none, stallSince := none, needs := [], startUs := 0, target := none,
    inserted := false }

/-- Packets of a queue fetched and not completed. -/
def State.inflight (s : State) (i q : Nat) : Nat := s.cmds.countP fun c => c.id.iface == i && c.id.queue == q

/-- The reply ring has a free entry for one more packet (R281). -/
def State.replyRoom (s : State) (i qn : Nat) (q : Queue) : Bool :=
  decide ((q.rrWr - q.rrHead).toNat + s.inflight i qn < 2 ^ q.ringLog2)

/-- The reply ring names a host port and a queue pair that the interface may use (R288). -/
def State.ringUsable (s : State) (f : Iface) (q : Queue) : Bool :=
  f.ports / 2 ^ q.ringPort % 2 == 1 && ((s.qp? q.ringPort q.ringQpn).map (·.iface == f.num)).getD false

/-- The queue moves past a fetched packet. -/
def Queue.advance (q : Queue) (n : Nat) : Queue :=
  let h := q.head + BitVec.ofNat 32 n
  { q with head := h, next := q.next + 1
           bells := q.bells.filter fun b => let d := (b.1 - h).toNat; decide (1 ≤ d) && decide (d ≤ 8192) }

/-- Fetches the packet at the head of a queue. A bad packet completes at once; so does one with a failed dependency. -/
def fetch (s : State) (f : Iface) (qn : Nat) (q : Queue) : State :=
  let ws := f.packetAt q 0
  let c := s.newCmd f qn q ws
  let s1 := { s with cmds := s.cmds ++ [c] }.modQueue f.num qn fun u => u.advance (advanceOf ws)
  match firstBad (if lenOk (hdrLen ws) then headerChecks ws ++ s.fetchChecks f qn c.bell q.next ws else [(0, false)]) with
  | some o => s1.complete c (Result.bad o)
  | none => s1.cascade s1.cmds.length

/-- The conditions of R281 on the queue itself. -/
def State.fetchable (s : State) (f : Iface) (qn : Nat) (q : Queue) : Bool :=
  q.present && !q.stopped && !q.dying && q.ringOk && decide (1 ≤ q.covered) &&
  decide (advanceOf (f.unit q 0) ≤ q.covered) && decide (s.inflight f.num qn < 256) && s.replyRoom f.num qn q

/-- The packet at the head of a queue is fetched when R281 allows; a reply ring that the interface may not use stops the
queue (R288). -/
def packetFetch (s : State) (i qn : Nat) : State :=
  match s.iface? i with
  | none => s
  | some f =>
    match s.part? f.part, f.queue? qn with
    | some p, some q =>
      if p.fenced || p.dying || !s.fetchable f qn q then s
      else if s.ringUsable f q then fetch s f qn q
      else (s.modQueue i qn fun u => { u with stopped := true }).discard i causeR288 true qn
    | _, _ => s

/-! ## Dispatch (R294, R295, R302; 12 R318) -/

/-- PACKET_FETCH. -/
def execPacketFetch (i q : Nat) (s : State) : Answer :=
  if s.awake then .next (packetFetch s i q).noteSched else .next s

/-- The committed contents of a partition as a command of a context sees them. -/
def State.viewOf (s : State) (p : Part) (x : Ctx) (classL : W32) : View :=
  { allocs := (s.partAllocs p.num).map (p.epo.resolve .bloom), ctx := some x, epo := p.epo, rules := p.rules,
    classes := p.rings.map fun r => (r.number, r.classes), classL := classL }

/-- A batch step and a prefill work with the plan, the seed and the mode of the serving context (spec 07 R175, R190); every
other command with its own context's. -/
def State.bindCtx (s : State) (p : Part) (c : Cmd) (x : Ctx) : Ctx :=
  if c.opcode = 0x0403 ∨ c.opcode = 0x0405 then ((p.gen.cfg.bind fun g => s.ctx? g.ctx).getD x) else x

/-- What a command sees at a start: the committed contents of now, and its first resolution of every epoch handle
(spec 10 R252). -/
def View.keepEpochs (v : View) (first : Option View) : View :=
  match first with
  | none => v
  | some w => { v with allocs := v.allocs.map fun a =>
      match a.role with
      | .epoch _ => (w.allocs.find? (·.handle == a.handle)).getD a
      | _ => a }

/-- The threshold of QCF.FMT_GUARD (spec 03 Table 3-9). -/
def Iface.guard (f : Iface) : Nat := field f.fmtGuard 4 0

def lowest (l : List Nat) : Nat := l.foldl (fun m x => if x < m then x else m) (l.headD 0)

/-- The place of a command in the order of dispatch: that of its first start, which pre-emption takes from a SEM_ACQUIRE only
(spec 11 R301). -/
def Cmd.place (c : Cmd) (now : Nat) : Nat := if c.started && c.opcode != 0x0804 then c.disp else now

/-- Starts a command: it sees the committed contents of now, and keeps the bindings of its first start. -/
def dispatch (s : State) (c : Cmd) (f : Iface) (p : Part) (x : Ctx) : State :=
  let v := (s.viewOf p (s.bindCtx p c x) f.classL).keepEpochs c.first
  let s := s.modCmd c.id fun k => { k with
    phase := .dispatched, attempts := k.attempts + 1, disp := k.place s.stamp, view := some v, first := some (k.first.getD v)
    guardLog2 := f.guard, startUs := if k.started then k.startUs else s.clk.localUs }
  let s := s.tickStamp.settle
  if c.started then s.joinScans else bindRing s { c with disp := c.place s.stamp } v

/-- COMMAND_DISPATCH. The first command dispatched after a revocation completes with SEM_REVOKED (R302). -/
def commandDispatch (s : State) (id : CmdId) : State :=
  match s.cmd? id with
  | none => s
  | some c =>
    match s.iface? id.iface, s.ctx? c.ctx with
    | some f, some x =>
      match s.part? f.part with
      | some p =>
        if p.fenced || p.dying || !x.inTile || !s.dispatchable c then s
        else if x.revoked.isEmpty then dispatch s c f p x
        else
          (s.modCtx c.ctx fun x => { x with revoked := [] }).complete { c with attempts := c.attempts + 1 }
            { Result.bare stSEM_REVOKED with index := BitVec.ofNat 32 (lowest x.revoked) }
      | none => s
    | _, _ => s

def execCommandDispatch (c : CmdId) (s : State) : Answer := if s.awake then .next (commandDispatch s c).noteSched else .next s

/-! ## Timeouts (R297, R299) -/

/-- A command that waits for an event or a semaphore, and whose arrival is registered: it has nothing left to run (R299). -/
def State.granted (s : State) (c : Cmd) : Bool :=
  (c.opcode == 0x0802 || c.opcode == 0x0804) && c.phase == .dispatched && !s.waitsSync c

/-- The timeout of a command has expired and still applies: it has work or waits left, and is no ATOMIC command past its
first write. Arrivals of the expiry cycle count, and the model's cycle is the microsecond (log 31). -/
def State.timedOut (s : State) (c : Cmd) : Bool :=
  c.timeout != 0 && decide (c.fetchUs + c.timeout ≤ s.clk.localUs) && !s.granted c &&
  (match c.phase with | .ready _ => false | _ => true)

def commandTimeout (s : State) (id : CmdId) : State :=
  match s.cmd? id with
  | none => s
  | some c =>
    if s.timedOut c then let t := s.wake.endWith c (Result.bare stTIMEOUT); t.cascade t.cmds.length else s

/-- The module counts timeouts (spec 16 R414). -/
def State.timesOut (s : State) : Bool := s.live && decide (s.pwr.state.toNat ≤ 2)

def execCommandTimeout (c : CmdId) (s : State) : Answer :=
  if s.timesOut then .next (commandTimeout s c).noteSched else .next s

def timeoutAll (s : State) : List CmdId → State
  | [] => s
  | c :: r => timeoutAll (commandTimeout s c) r

/-- The expiry cycle ends: every command whose timeout has expired and that has not completed completes with TIMEOUT
(R299). -/
def lapse (s : State) : State :=
  if s.timesOut && s.cmds.any s.timedOut then (timeoutAll s (s.cmds.map (·.id))).noteSched else s

/-! ## Reply rings (R304, R305) -/

/-- A write of DBL.RR_HEAD: from RR_WR − size to RR_WR. -/
def replyHead (s : State) (i qn : Nat) (v : W32) : State :=
  match (s.iface? i).bind (·.queue? qn) with
  | some q =>
    if q.present && q.ringOk && decide ((q.rrWr - v).toNat ≤ 2 ^ q.ringLog2) then s.modQueue i qn fun u => { u with rrHead := v }
    else s.discard i causeR304 true (0x40 + 4 * qn)
  | none => if (s.iface? i).isSome then s.discard i causeR304 true (0x40 + 4 * qn) else s

def execReplyHeadWrite (i q : Nat) (value : W32) (s : State) : Answer :=
  if s.windowUp then .next (replyHead s.wake i q value) else .next s

/-- The reply-ring registers of a queue accept writes (R305). -/
def State.ringOpen (s : State) (i qn : Nat) (q : Queue) : Bool :=
  q.present && s.inflight i qn == 0 && q.rrWr == q.rrHead

def ringSizeOk (n : Nat) : Bool := n == 0 || (decide (6 ≤ n) && decide (n ≤ 16))

/-- A write of QCF.RR_CFG: it resets the counts of the ring, and a stopped queue fetches again. Bit 26 is reserved. -/
def replyConfig (s : State) (i qn : Nat) (v : W32) : State :=
  match (s.iface? i).bind (·.queue? qn) with
  | some q =>
    if s.ringOpen i qn q && ringSizeOk (field v 31 27) then
      s.modQueue i qn fun u => { u with rrCfg := v &&& 0xFBFFFFFF#32, rrWr := 0#32, rrHead := 0#32, stopped := false }
    else s.discard i causeR305 true (0x101C + 0x40 * qn)
  | none => if (s.iface? i).isSome then s.discard i causeR305 true (0x101C + 0x40 * qn) else s

def execReplyRingConfig (i q : Nat) (value : W32) (s : State) : Answer :=
  if s.windowUp then .next (replyConfig s.wake i q value) else .next s

/-- Writes of QCF.RR_ADDR_LO, RR_ADDR_HI and RR_RKEY (R305): `k` is 0, 1 or 2. -/
def replyAddress (s : State) (i qn k : Nat) (v : W32) : State :=
  match (s.iface? i).bind (·.queue? qn) with
  | some q =>
    if s.ringOpen i qn q && (k != 0 || v.toNat % 32 == 0) then
      s.modQueue i qn fun u =>
        match k with
        | 0 => { u with rrAddr := BitVec.ofNat 64 (u.rrAddr.toNat / 2 ^ 32 * 2 ^ 32 + v.toNat) }
        | 1 => { u with rrAddr := BitVec.ofNat 64 (u.rrAddr.toNat % 2 ^ 32 + v.toNat * 2 ^ 32) }
        | _ => { u with rrKey := v }
    else s.discard i causeR305 true (0x1010 + 4 * k + 0x40 * qn)
  | none => if (s.iface? i).isSome then s.discard i causeR305 true (0x1010 + 4 * k + 0x40 * qn) else s

end Sys2Proof.Machine
end

