-- ==== Sys2Proof/Machine/Scheduler.lean ====
section
/-!
DEFINITION. Contexts, residency, rotation and semaphore donation (spec 12 R313-R327).
-/
namespace Sys2Proof.Machine

/-! ## CTX_CREATE (0x0B01): FOOTPRINT, PRIORITY -/

def Ctx.new (id i : Nat) (p : Part) (foot prio us : Nat) : Ctx :=
  { id := id, iface := i, part := p.num, foot := foot, prio := prio, st := if p.foot = 0 then .resident else .swapped,
    blockedSince := 0, runnableSince := 0, residentSince := us, seed := 0#64, det := false, gens := [], scale := [],
    temp := { a := .never, b := .never, live := false }
    custom := List.replicate 4 { a := .never, b := .never, live := false }
    plan := none, oldPlans := [], learn := none, sems := [], revoked := [], acct := { eng := [], bytes := [], energy := 0 } }

/-- The lowest identifier that no context of the module holds (R315). -/
def State.freeCtxId (s : State) : Option Nat := (List.range 4096).find? fun n => !s.ctxs.any (·.id == n)

/-- A context of a footprint fits (R315): an identifier, and room for its image or on the tiles. -/
def State.ctxFits (s : State) (p : Part) (foot : Nat) : Bool :=
  decide (s.ctxs.length < 4096) &&
  (if p.foot = 0 then decide ((s.partCtxs p.num).length < 8) && decide (s.footprints p + foot ≤ 16384)
   else decide (saveImage p foot ≤ s.hbmFree p))

def runCtxCreate (s : State) (c : Cmd) (e : Env) : State × Option Result :=
  checked s c [ (c.off 0, c.n 0 % 4 == 0 && (e.part.foot == 0 || decide (c.n 0 ≤ e.part.foot))),
      (c.off 1, decide (c.n 1 ≤ 3) && decide (e.iface.prioMin ≤ c.n 1)) ] true [] [] e fun s =>
    (s, some (Result.ok (.ctxCreate (c.n 0) (c.n 1))))

def execCtxCreate (c : CmdId) (s : State) : Answer := runOp 0x0B01 c s runCtxCreate

/-- Adds a context to a partition; answers its identifier. -/
def State.addCtx (s : State) (p : Part) (i foot prio : Nat) : Option (Nat × State) :=
  if s.ctxFits p foot then
    s.freeCtxId.map fun n => (n, { s with ctxs := s.ctxs ++ [Ctx.new n i p foot prio s.clk.localUs] })
  else none

def commitCtxCreate (s : State) (c : Cmd) (foot prio : Nat) (r : Result) : State × Result :=
  match s.part? (s.cmdPart c.id) with
  | none => (s, Result.badState)
  | some p =>
    match s.addCtx p c.id.iface foot prio with
    | none => (s, Result.bare stNO_RESOURCE)
    | some (n, s) => (s, { r with detail := BitVec.ofNat 32 n })

/-! ## The end of a donation (R326) -/

/-- Contexts that hold a resident slot or are being loaded into one. -/
def State.slotsTaken (s : State) (p : Part) : Nat :=
  (s.partCtxs p.num).countP fun x => x.st == .resident || (x.st == .loading && !((p.switch.map (·.donate)).getD false))

def State.slotFree (s : State) (p : Part) : Bool := decide (s.slotsTaken p < p.residentSlots)

def setSt (s : State) (x : Nat) (st : CtxSt) : State :=
  s.modCtx x fun c => { c with st := st, residentSince := if st == .resident then s.clk.localUs else c.residentSince }

/-- The donation ends: the holder's running commands are pre-empted; it keeps a resident slot if one is free, else it is
saved. -/
def State.endDonation (s : State) (p : Nat) : State :=
  match s.part? p with
  | none => s
  | some q =>
    match q.donation with
    | none => s
    | some d =>
      let s := s.preemptAll ((s.cmds.filter (·.ctx == d.holder)).map (·.id))
      let s := s.modPart p fun q => { q with donation := none, served := false }
      if (s.ctx? d.holder).isNone then s
      else if s.slotFree q then setSt s d.holder .resident
      else
        (setSt s d.holder .saving).modPart p fun q =>
          { q with switch := some { incoming := none, outgoing := some d.holder, donate := false, start := s.clk.localUs } }

/-! ## CTX_DESTROY (0x0B02): CONTEXT -/

/-- The target may be destroyed (R317). -/
def State.ctxDestroyable (s : State) (c : Cmd) (e : Env) (t : Nat) : Bool :=
  match s.ctx? t with
  | none => false
  | some x =>
    x.iface == c.id.iface && decide (1 < s.ctxs.countP (·.iface == c.id.iface)) &&
    !((e.part.gen.cfg.map (·.ctx == t)).getD false && !((s.part? e.part.num).map (·.gen.reqs.isEmpty)).getD true)

def runCtxDestroy (s : State) (c : Cmd) (e : Env) : State × Option Result :=
  let t := c.n 0
  checked s c [(c.off 0, decide (t < 4096) && t != c.ctx)] (s.ctxDestroyable c e t) [] [] e fun s =>
    let s := (s.killAll ((s.cmds.filter (·.ctx == t)).map (·.id))).noteSched
    if s.cmds.any (·.ctx == t) then (s, none) else (s, some (Result.ok (.ctxDestroy t)))

def execCtxDestroy (c : CmdId) (s : State) : Answer := runOp 0x0B02 c s runCtxDestroy

/-- Units of every semaphore go back to the counts (R317, R301). -/
def State.returnAll (s : State) (p : Nat) (x : Ctx) : State :=
  s.modPart p fun q => { q with sems := x.sems.foldl (fun t (m, u) => Tab.set t m (Tab.get t m 0 + u)) q.sems }

/-- The copies of a plan that is replaced or freed go, unless another plan names the weight. -/
def State.dropCopies (s : State) (p : Nat) : State :=
  let plans := (s.partCtxs p).flatMap fun x => (x.learn.map (·.entries)).getD []
  let weights := plans.map (·.weight)
  let grads := plans.map (·.grad)
  { s with allocs := modWhere (·.part == p) (fun a => { a with
      tcopy := if weights.contains a.handle then a.tcopy else none
      presence := if grads.contains a.handle then some (a.presence.getD []) else none }) s.allocs }

/-- A context is gone: donations to or for it end, its units return, its allocations, plans and image are freed. -/
def State.dropCtx (s : State) (t : Nat) : State :=
  match s.ctx? t with
  | none => s
  | some x =>
    let mine := ((s.part? x.part).bind (·.donation)).any fun d =>
      d.holder == t || ((s.cmd? d.acquire).map (·.ctx == t)).getD true
    let s := if mine then s.endDonation x.part else s
    let s := s.returnAll x.part x
    let s := s.modPart x.part fun q => { q with
      switch := q.switch.bind fun w =>
        let w := { w with incoming := if w.incoming = some t then none else w.incoming
                          outgoing := if w.outgoing = some t then none else w.outgoing }
        if w.incoming.isNone && w.outgoing.isNone then none else some w
      gen := { q.gen with cfg := q.gen.cfg.filter (·.ctx != t) } }
    ({ s with ctxs := s.ctxs.filter (·.id != t), allocs := s.allocs.filter (·.ctx != some t) } : State).dropCopies x.part

/-! ## CTX_PRIORITY (0x0B03): CONTEXT, PRIORITY; CTX_STATE (0x0B04): CONTEXT -/

def State.ownCtx (s : State) (c : Cmd) (t : Nat) : Bool := ((s.ctx? t).map (·.iface == c.id.iface)).getD false

def runCtxPriority (s : State) (c : Cmd) (e : Env) : State × Option Result :=
  checked s c [(c.off 0, decide (c.n 0 < 4096)), (c.off 1, decide (c.n 1 ≤ 3) && decide (e.iface.prioMin ≤ c.n 1))]
    (s.ownCtx c (c.n 0)) [] [] e fun s => (s, some (Result.ok (.ctxPriority (c.n 0) (c.n 1))))

def execCtxPriority (c : CmdId) (s : State) : Answer := runOp 0x0B03 c s runCtxPriority

def commitCtxPriority (s : State) (t p : Nat) : State := s.modCtx t fun x => { x with prio := p }

def CtxSt.code : CtxSt → Nat
  | .swapped => 0
  | .loading => 1
  | .resident => 2
  | .saving => 3
  | .donated => 4

/-- BLOCKED of a resident context, RUNNABLE of a swapped-out one. -/
def State.ctxWaiting (s : State) (x : Ctx) : Bool :=
  if x.inTile then s.blocked x else x.st == .swapped && s.runnable x

def ctxStateWord (s : State) (x : Ctx) : W32 :=
  BitVec.ofNat 32 (x.st.code + x.prio * 16 + boolNat (s.ctxWaiting x) * 256)

def runCtxState (s : State) (c : Cmd) (e : Env) : State × Option Result :=
  checked s c [(c.off 0, decide (c.n 0 < 4096))] (s.ownCtx c (c.n 0)) [] [] e fun s =>
    (s, some (Result.okDetail (((s.ctx? (c.n 0)).map (ctxStateWord s)).getD 0#32)))

def execCtxState (c : CmdId) (s : State) : Answer := runOp 0x0B04 c s runCtxState

/-! ## Bringing contexts in (R319, R320, R323) -/

/-- The incoming context: best priority, then longest runnable, then lowest identifier. -/
def State.incoming (s : State) (p : Part) : Option Ctx :=
  let cs := (s.partCtxs p.num).filter fun x => x.st == .swapped && s.runnable x
  let best := cs.foldl (fun m x => if x.prio < m then x.prio else m) 4
  minBy (fun x => (if x.runnableSince = 0 then s.clk.localUs + 1 else x.runnableSince) * 4096 + x.id) (cs.filter (·.prio == best))

/-- The resident context of a list that has been resident longest; the lowest identifier of equals. -/
def longestResident (cs : List Ctx) : Option Ctx := minBy (fun x => x.residentSince * 4096 + x.id) cs

def Part.rotationFree (p : Part) : Bool := p.switch.isNone && p.donation.isNone

/-- The victim of the priority case. -/
def State.priorityVictim (s : State) (p : Part) (x : Ctx) : Option Ctx :=
  let cs := s.residents p
  let worst := cs.foldl (fun m y => if m < y.prio then y.prio else m) 0
  if x.prio < worst then longestResident (cs.filter (·.prio == worst)) else none

/-- The victim of the slice case. -/
def State.sliceVictim (s : State) (p : Part) (x : Ctx) : Option Ctx :=
  let us := s.clk.localUs
  if x.runnableSince != 0 && decide (x.runnableSince - 1 + p.slice ≤ us) then
    longestResident ((s.residents p).filter fun y => y.prio == x.prio && decide (y.residentSince + p.slice ≤ us))
  else none

/-- A unit of a semaphore on which an acquire of another resident context waits (R323). -/
def State.holdsAwaited (s : State) (p : Part) (y : Ctx) : Bool :=
  (s.cmds.filter fun c => c.opcode == 0x0804 && c.phase == .dispatched && c.ctx != y.id && s.waitsSync c &&
      (s.residents p).any (·.id == c.ctx)).any fun c => decide (0 < y.held (c.n 0))

/-- The longest-blocked context of a list. -/
def State.longestBlocked (s : State) (cs : List Ctx) : Option Ctx :=
  minBy (fun x => (if x.blockedSince = 0 then s.clk.localUs + 1 else x.blockedSince) * 4096 + x.id) cs

/-- The victim of a rotation: every resident context is blocked. -/
def State.rotationVictim (s : State) (p : Part) : Option Ctx :=
  let cs := s.residents p
  if cs.all (s.blocked ·) then
    match s.longestBlocked (cs.filter fun y => !s.holdsAwaited p y) with
    | some y => some y
    | none => s.longestBlocked cs
  else none

/-- How the incoming context comes in: into a free slot, or for a victim by priority or slice. -/
inductive Entry where
  | free (x : Ctx)
  | swap (x y : Ctx)
  | rotate (x y : Ctx)
deriving DecidableEq, Repr, Inhabited

/-- The first case of R319 that applies, when no load or save is in progress. -/
def State.entry (s : State) (p : Part) : Option Entry :=
  if p.foot = 0 ∨ p.switch.isSome then none
  else match s.incoming p with
    | none => none
    | some x =>
      if s.slotFree p then some (.free x)
      else if !p.rotationFree then none
      else match s.priorityVictim p x with
        | some y => some (.swap x y)
        | none => match s.sliceVictim p x with
          | some y => some (.swap x y)
          | none => (s.rotationVictim p).map fun y => .rotate x y

/-- The victim's running commands are pre-empted, and the switch begins (R320, R321). -/
def beginSwitch (s : State) (p : Nat) (x : Ctx) (y : Option Ctx) (donate : Bool) : State :=
  let s := match y with
    | some y => setSt (s.preemptAll ((s.cmds.filter (·.ctx == y.id)).map (·.id))) y.id .saving
    | none => s
  (setSt s x.id .loading).modPart p fun q => { q with
    switch := some { incoming := some x.id, outgoing := y.map (·.id), donate := donate, start := s.clk.localUs } }

def markServed (s : State) (p : Nat) : State := s.modPart p fun q => { q with served := true }

/-- CONTEXT_SWITCH: the free-slot, priority or slice case. -/
def contextSwitch (s : State) (n : Nat) : State :=
  match s.part? n with
  | none => s
  | some p =>
    match s.entry p with
    | some (.free x) => beginSwitch s n x none false
    | some (.swap x y) => markServed (beginSwitch s n x (some y) false) n
    | _ => s

def execContextSwitch (part : Nat) (s : State) : Answer := if s.awake then .next (contextSwitch s part).noteSched else .next s

/-- ROTATION: every resident context is blocked, and no other case applies (R323). -/
def rotation (s : State) (n : Nat) : State :=
  match s.part? n with
  | none => s
  | some p =>
    match s.entry p with
    | some (.rotate x y) =>
      (markServed (beginSwitch s n x (some y) false) n).modPart n fun q => { q with rotations := satNat32 (q.rotations + 1) }
    | _ => s

def execRotation (part : Nat) (s : State) : Answer := if s.awake then .next (rotation s part).noteSched else .next s

/-- A saved context has lost its window buffers, and a loaded one's are refilled from their sources before a command that reads
them is dispatched (spec 06 R149). -/
def State.loseWindows (s : State) (x : Nat) : State := s.modCtx x (·.modPlans fun l => { l with window := [] })
def State.refillWindows (s : State) (p x : Nat) : State := s.modCtx x (·.modPlans fun l => l.load (s.partAllocs p) l.at_)

/-- SWITCH_COMPLETE: the last clover has loaded and saved. A save begins only after the ATOMIC commands of the outgoing context
that are past their first write have finished (R320). -/
def switchComplete (s : State) (n : Nat) : State :=
  match (s.part? n).bind (·.switch) with
  | none => s
  | some w =>
    if (w.outgoing.map fun y => s.cmds.any fun c => c.ctx == y && c.pastWrite).getD false then s else
    let s := match w.incoming with
      | some x => (setSt s x (if w.donate then .donated else .resident)).refillWindows n x
      | none => s
    let s := match w.outgoing with | some x => (setSt s x .swapped).loseWindows x | none => s
    let moves := boolNat w.incoming.isSome + boolNat w.outgoing.isSome
    s.modPart n fun q => { q with
      switch := none, switches := satNat32 (q.switches + moves), switchUs := satNat32 (q.switchUs + (s.clk.localUs - w.start))
      donation := q.donation.map fun d => if w.donate then { d with since := s.clk.localUs } else d }

def execSwitchComplete (part : Nat) (s : State) : Answer := if s.awake then .next (switchComplete s part).noteSched else .next s

/-! ## Donation (R325 to R327) -/

/-- The next donation: the one whose condition arose first (R327). -/
def State.nextDonation (s : State) (p : Part) : Option (Cmd × Nat) :=
  ((s.callers p).head?.bind s.cmd?).bind (s.donationFor p)

/-- After a donation, a switch of the priority, slice or rotation case goes first (R327). -/
def State.switchOwed (s : State) (p : Part) : Bool :=
  !p.served && (match s.entry p with | some (.swap _ _) => true | some (.rotate _ _) => true | _ => false)

def donationBegin (s : State) (n : Nat) : State :=
  match s.part? n with
  | none => s
  | some p =>
    if p.foot = 0 || !p.rotationFree || s.switchOwed p then s
    else match s.nextDonation p with
      | none => s
      | some (c, h) =>
        match s.ctx? h with
        | none => s
        | some x =>
          (beginSwitch s n x none true).modPart n fun q => { q with
            donation := some { holder := h, sem := c.n 0, acquire := c.id, since := s.clk.localUs }
            donations := satNat32 (q.donations + 1) }

def execDonationBegin (part : Nat) (s : State) : Answer := if s.awake then .next (donationBegin s part).noteSched else .next s

/-- The donation's cause is over: the holder holds no unit, or the acquire has completed or was pre-empted. -/
def State.donationOver (s : State) (d : Donation) : Bool :=
  ((s.ctx? d.holder).map fun x => x.held d.sem == 0).getD true ||
  !(s.cmds.any fun c => c.id == d.acquire && c.phase == .dispatched)

/-- DONATION_END: nothing is revoked. -/
def donationEnd (s : State) (n : Nat) : State :=
  match s.part? n with
  | none => s
  | some p =>
    match p.donation with
    | some d => if p.switch.isNone && s.donationOver d then s.endDonation n else s
    | none => s

def execDonationEnd (part : Nat) (s : State) : Answer := if s.awake then .next (donationEnd s part).noteSched else .next s

/-- The holder's units of a semaphore return to the count, and a revocation is recorded (R302, R326). -/
def revoke (s : State) (n : Nat) (d : Donation) : State :=
  match s.ctx? d.holder with
  | none => s
  | some x =>
    ((s.returnUnits n d.holder d.sem (x.held d.sem)).modCtx d.holder fun x =>
      { x with revoked := addOnce d.sem x.revoked }).modPart n fun q => { q with revokes := satNat32 (q.revokes + 1) }

/-- DONATION_QUANTUM_EXPIRY: the quantum has run and the holder still holds units. -/
def donationExpiry (s : State) (n : Nat) : State :=
  match s.part? n with
  | none => s
  | some p =>
    match p.donation with
    | some d =>
      if p.switch.isNone && decide (d.since + p.quantum ≤ s.clk.localUs) && !s.donationOver d then (revoke s n d).endDonation n
      else s
    | none => s

def execDonationQuantumExpiry (part : Nat) (s : State) : Answer :=
  if s.awake then .next (donationExpiry s part).noteSched else .next s

end Sys2Proof.Machine
end

