-- ==== Sys2Proof/Machine/Rollout.lean ====
section
/-!
DEFINITION. What generation, experience and epochs share: trajectory rings (spec 08 R208-R212, R220), the ends of requests
(spec 07 R198, R199), and the roles of copy areas (spec 10 R252, R262, R271, R272).
-/
namespace Sys2Proof.Machine

/-! ## Trajectories -/

def Traj.open_ (request : W32) (i tclass : Nat) (pages : List Nat) : Traj :=
  { request := request, iface := i, tclass := tclass, closed := false, truncated := false, scanned := false, holder := none,
    claim := none, pages := pages, recs := [] }

def flagLate : W16 := 1#16
def flagInvalid : W16 := 2#16
def flagDrafted : W16 := 4#16
def flagGreedy : W16 := 8#16
def flagLast : W16 := 16#16
def flagTruncated : W16 := 32#16
def flagScanned : W16 := 64#16

/-- LAST on the last record, TRUNCATED on every one where it applies (Table 8-2). -/
def closeFlags (truncated : Bool) (rs : List ERec) : List ERec :=
  let n := rs.length
  ((List.range n).zip rs).map fun (k, r) =>
    { r with flags := r.flags ||| (if k + 1 = n then flagLast else 0#16) ||| (if truncated then flagTruncated else 0#16) }

/-- The trajectory closes; it keeps the pages that hold records (R212). -/
def Traj.close (truncated : Bool) (t : Traj) : Traj :=
  { t with closed := true, truncated := truncated, recs := closeFlags truncated t.recs, pages := t.pages.take ((t.recs.length + 63) / 64) }

/-- The request's open trajectory closes. One with no record goes; on SQ4-N it is delivered at once. -/
def Ring.close (scan : Bool) (request : W32) (truncated : Bool) (r : Ring) : Ring :=
  match r.trajs.find? fun t => t.request == request && !t.closed with
  | none => r
  | some t =>
    let t' := t.close truncated
    let rest := dropFirst (fun t => t.request == request && !t.closed) r.trajs
    if t.recs.isEmpty then { r with trajs := rest }
    else if scan then { r with trajs := rest ++ [t'] }
    else { r with trajs := rest, queue := r.queue ++ [t'] }

/-- Records of a committed step join their trajectory (R208). -/
def Ring.append (request : W32) (recs : List ERec) (r : Ring) : Ring :=
  { r with trajs := modWhere (fun t => t.request == request && !t.closed) (fun t => { t with recs := t.recs ++ recs }) r.trajs }

/-! ## Ends of requests (R198, R199) -/

def endStop : Nat := 0
def endLength : Nat := 1
def endCancelled : Nat := 2
def endInvalid : Nat := 3
def endKvFailed : Nat := 4

/-- A completion entry (Table 7-7). -/
def Req.entry (r : Req) (reason : Nat) : List W32 :=
  [ r.ident, BitVec.ofNat 32 (reason + boolNat r.pinDropped * 2 ^ 16 + boolNat r.lateSeen * 2 ^ 17),
    BitVec.ofNat 32 r.tokens.length, BitVec.ofNat 32 r.charged, r.firstEpoch, r.lastEpoch,
    if r.classL then r.prefillEpoch else r.firstEpoch, BitVec.ofNat 32 r.accepted ]

/-- Counts of closed trajectories (Table 8-5). -/
def Iface.noteClose (f : Iface) (empty : Bool) : Iface :=
  if empty then { f with expEmpty := satNat32 (f.expEmpty + 1) } else { f with expClosed := satNat32 (f.expClosed + 1) }

/-! ## Copy areas -/

/-- A third area is released as soon as any area is free, unless a load waits for it (R262). -/
def Epo.trim (e : Epo) : Epo :=
  if e.areas.length = 3 ∧ e.bud ≠ .waitArea then { e with areas := dropFirst (·.role == .free) e.areas } else e

/-- The held copy becomes free. -/
def Epo.freeHeld (e : Epo) : Epo := (e.modArea .held fun a => { a with role := .free }).trim

/-- A request pinned to an epoch (R201). -/
def Req.pinnedTo (r : Req) (limit : Nat) (e : W32) : Bool :=
  r.pin && limit != 0 && !r.pinDropped && r.start == some e

def Part.heldEpoch (p : Part) : Option W32 := (p.epo.area? .held).map (·.epoch)
def Part.bloomEpoch (p : Part) : Option W32 := (p.epo.area? .bloom).map (·.epoch)

/-- Live requests pinned to the held copy. -/
def Part.pinned (p : Part) : List Req :=
  match p.heldEpoch with
  | some e => p.gen.reqs.filter (·.pinnedTo p.pinLimit e)
  | none => []

/-- A GEN_PREFILL that has been dispatched on an epoch: it keeps the copy it resolved, through every re-run (R252, R272). -/
def Cmd.readsEpoch (c : Cmd) (e : W32) : Bool :=
  c.opcode == 0x0405 && ((c.first.bind fun v => v.epo.area? .bloom).map (·.epoch == e)).getD false

/-- The held copy of a partition frees when nothing reads it (R271, R272). -/
def State.settleHeld (s : State) (n : Nat) : State :=
  match s.part? n with
  | none => s
  | some p =>
    match p.heldEpoch with
    | none => s
    | some e =>
      if (if p.role = rolePrefill then (s.partCmds n).any (·.readsEpoch e) else !p.pinned.isEmpty) then s
      else s.modPart n fun q => { q with epo := q.epo.freeHeld }

/-- A request ends: its trajectory closes, its blocks and its live slot go, and its completion entry is owed; the slot is
kept by the entry. -/
def State.endReq (s : State) (n : Nat) (r : Req) (reason : Nat) (owe : Bool) : State :=
  match s.part? n with
  | none => s
  | some p =>
    let truncated := reason == endLength || reason == endCancelled || reason == endKvFailed
    let empty := ((p.ring? r.ring).bind fun g => g.trajs.find? fun t => t.request == r.ident && !t.closed).any (·.recs.isEmpty)
    let s := s.modPart n fun q =>
      let q := q.modRing r.ring (·.close s.fit.scan r.ident truncated)
      { q with gen := { q.gen with
          reqs := q.gen.reqs.filter (·.slot != r.slot)
          owed := q.gen.owed ++ if owe then [{ iface := r.iface, slot := r.slot, words := r.entry reason }] else [] } }
    ((s.modIface r.iface (·.noteClose empty)).settleHeld n).joinScans

def State.endReqs (s : State) (n : Nat) (reason : Nat) (owe : Bool) : List Req → State
  | [] => s
  | r :: rs => State.endReqs (s.endReq n r reason owe) n reason owe rs

/-- The pins of the held copy are dropped (R203): each request counts, and the copy frees. -/
def State.dropPins (s : State) (n : Nat) : State :=
  match s.part? n with
  | none => s
  | some p =>
    match p.heldEpoch with
    | none => s
    | some e =>
      let s := p.pinned.foldl (fun s r => s.modIface r.iface fun f => { f with pinDrops := satNat32 (f.pinDrops + 1) }) s
      s.modPart n fun q => { q with
        gen := { q.gen with reqs := modWhere (·.pinnedTo q.pinLimit e) (fun r => { r with pinDropped := true }) q.gen.reqs }
        epo := q.epo.freeHeld }

/-- The bud becomes bloom; the old bloom copy becomes held when `keep`, else free. Staging copies of epoch handles go. -/
def Part.switchBud (p : Part) (keep : Bool) (us : Nat) : Part :=
  let e := p.epo.modArea .bloom fun a => { a with role := if keep then .held else .free }
  let e := e.modArea .bud fun a => { a with role := .bloom }
  { p with epo := { e with bud := .free, arrived := [], raw := [], heldAt := if keep then us else e.heldAt }.trim }

/-- Each epoch handle's statistics are those of the bloom copy. -/
def State.unstageEpoch (s : State) (n : Nat) : State :=
  (s.partAllocs n).foldl (fun s a => match a.role with | .epoch _ => s.unstage n a.handle | _ => s) s

/-- EPOCH_SWITCH: the registered switch takes place (R271, R272), and counts in EPO.PUBLISHES. -/
def State.epochSwitch (s : State) (n : Nat) : State :=
  match s.part? n with
  | none => s
  | some p =>
    if p.epo.bud ≠ .pending then s
    else
      let keep := match p.bloomEpoch with
        | none => false
        | some e =>
          if p.role = rolePrefill then (s.partCmds n).any (·.readsEpoch e)
          else p.gen.reqs.any (·.pinnedTo p.pinLimit e)
      if p.role = rolePrefill ∧ p.epo.hasArea .held = true then s
      else
        let s := if keep then s.dropPins n else s
        let s := s.modPart n (·.switchBud keep s.clk.localUs)
        let s := { s with ifaces := modWhere (·.part == n) (fun f => { f with publishes := satNat32 (f.publishes + 1) }) s.ifaces }
        s.unstageEpoch n

end Sys2Proof.Machine
end

