-- ==== Sys2Proof/Machine/Generation.lean ====
section
/-!
DEFINITION. Serving rollouts (spec 07): configuration, admission, batch steps, cancels, prefill and key/value shipping,
budgets and completion entries. A step multiplies by the weights of its plan and fills the cache; what its model computes
between the products is open (log 7).
-/
namespace Sys2Proof.Machine

/-- The interface is the serving interface of its partition. -/
def Env.serving (e : Env) : Bool := e.iface.num == e.part.firstIf

/-! ## GEN_CONFIG (0x0401): DRAFT handles, L, H, Dh, format, POOL, maximum length, end of sequence -/

/-- The bytes of a key/value block (R181). -/
def kvBlockBytes (g : GenCfg) : Nat :=
  roundUp (64 * g.layers * 2 * g.heads * (if g.kvFmt = 1#8 then 2 * g.dh else g.dh + g.dh / 32)) (4 * kib)

/-- BF16, or FP8 E4M3 block-scaled along the head dimension (R181). -/
def kvFmtOk (f : Nat) (dh : Nat) : Bool := f == 1 || (f == 0x13 && dh % 32 == 0)

def genCfgOf (c : Cmd) (draft : List W32) : GenCfg :=
  { ctx := c.ctx, draft := draft, layers := c.n 1, heads := c.n 2, dh := c.n 3, kvFmt := BitVec.ofNat 8 (c.n 4), pool := c.w 5,
    maxCtx := c.n 6, eos := c.w 7 }

/-- The pool is an HBM allocation of the serving context that holds a block (R181). -/
def poolOk (e : Env) (c : Cmd) (g : GenCfg) : Bool :=
  match e.alloc? g.pool with
  | some a => a.home == .hbm && (match a.role with | .plain => true | _ => false) && a.ctx == some c.ctx &&
      decide (0 < kvBlockBytes g) && decide (kvBlockBytes g ≤ a.size)
  | none => false

def runGenConfig (s : State) (c : Cmd) (e : Env) : State × Option Result :=
  let r := c.a 0
  let draft := (e.entries r 4).map fun w => w.getD 0 0#32
  let g := genCfgOf c draft
  checked s c [ (c.off 0, e.arrayOk r 4), (c.off 1, c.n 1 != 0), (c.off 2, c.n 2 != 0), (c.off 3, c.n 3 != 0),
      (c.off 4, kvFmtOk (c.n 4) (c.n 3)), (c.off 5, poolOk e c g),
      (c.off 6, decide (64 ≤ c.n 6) && decide (c.n 6 ≤ 1048576)) ]
    (e.serving && e.part.gen.reqs.isEmpty && (e.first.ctx.bind (·.plan)).isSome &&
      draft.all fun h => ((e.firstAlloc? h).map fun a => !a.stream && a.home != .ddr).getD false)
    [(r.handle, r.off, 4 * r.count)] [] e fun s => (s, some (Result.ok (.genConfig g)))

def execGenConfig (c : CmdId) (s : State) : Answer := runOp 0x0401 c s runGenConfig

def commitGenConfig (s : State) (p : Nat) (g : GenCfg) (r : Result) : State × Result :=
  if ((s.part? p).map (·.gen.reqs.isEmpty)).getD false then
    (s.modPart p fun q => { q with gen := { q.gen with cfg := some g } }, r)
  else (s, Result.badState)

/-! ## GEN_ADMIT (0x0402): DESCRIPTORS, RESULTS -/

/-- A request descriptor (Table 7-2). -/
structure Desc where
  ws : List W32
deriving DecidableEq, Repr, Inhabited

def Desc.w (d : Desc) (i : Nat) : W32 := d.ws.getD i 0#32
def Desc.n (d : Desc) (i : Nat) : Nat := (d.w i).toNat
def Desc.cls (d : Desc) : Nat := field (d.w 1) 1 0
def Desc.draftMax (d : Desc) : Nat := field (d.w 11) 4 0

/-- Class L (R178). -/
def Desc.classL (d : Desc) (thresh : Nat) : Bool :=
  d.cls == 2 || (d.cls == 0 && thresh != 0 && decide (thresh < d.n 4))

/-- A sampling descriptor obeys R134. -/
def samplingOk (w0 w1 : W32) : Bool := !bitAt w0 11 && flt 0#32 w1 && fle w1 one32

/-- No reserved value (Table 7-2). A Class S request's source and deadline are ignored. -/
def Desc.valuesOk (d : Desc) (classL : Bool) : Bool :=
  decide (d.n 0 < 2 ^ 24) && decide (d.n 1 < 8) && d.cls != 3 && decide (1 ≤ d.n 4) && decide (1 ≤ d.n 5) &&
  samplingOk (d.w 6) (d.w 7) && (d.w 11 &&& 0xFFFF00E0#32) == 0#32 && decide (d.draftMax ≤ 16) && d.w 14 == 0#32 &&
  d.w 15 == 0#32 &&
  (!classL || (bitAt (d.w 12) 31 && (d.w 12 &&& 0x7FE0C000#32) == 0#32 && decide (d.n 13 < 65536) && decide (2 ≤ d.n 4)))

/-- An uncompleted EXP_RING_DESTROY of a ring has been dispatched (spec 08 R222). -/
def State.ringEnding (s : State) (p n : Nat) : Bool :=
  (s.partCmds p).any fun k => k.opcode == 0x0705 && k.started && k.n 0 == n

/-- The ring that a handle names, if the partition may write it. -/
def State.ringOf (s : State) (p : Part) (h : W32) : Option Ring :=
  match (s.alloc? p.num h).map (fun a : Alloc => a.role) with
  | some (Role.ring n) => if s.ringEnding p.num n then none else p.ring? n
  | _ => none

def liveOf (p : Part) (i : Nat) : Nat := p.gen.reqs.countP (·.iface == i) + p.gen.owed.countP (·.iface == i)
def liveAll (p : Part) : Nat := p.gen.reqs.length + p.gen.owed.length

/-- The lowest free slot (R180). -/
def Part.freeSlot (p : Part) : Nat :=
  ((List.range (liveAll p + 1)).find? fun n => !(p.gen.reqs.any (·.slot == n) || p.gen.owed.any (·.slot == n))).getD 0

/-- Blocks of the pool that no request has reserved (R182). -/
def State.freeBlocks (s : State) (p : Part) (g : GenCfg) : List Nat :=
  let used := p.gen.reqs.flatMap fun r => r.blocks ++ r.draftBlocks
  lowestFree used (((s.alloc? p.num g.pool).map (·.size)).getD 0 / kvBlockBytes g - used.length)

def Desc.blocks (d : Desc) : Nat := (d.n 4 + d.n 5 + 63) / 64
def Desc.pages (d : Desc) : Nat := (d.n 5 + 63) / 64

/-- A new request (R176, R197). It reserves the lowest free blocks of the pool, those of its policy cache first (R182;
DESIGN CHOICE, log 64). -/
def newReq (d : Desc) (i : Iface) (slot ring us : Nat) (classL : Bool) (free : List Nat) : Req :=
  { slot := slot, ident := BitVec.ofNat 32 (i.num * 2 ^ 24 + d.n 0), iface := i.num, reqId := d.n 0, classL := classL,
    pin := bitAt (d.w 1) 2, prompt := d.w 2, promptOff := d.n 3, promptLen := d.n 4, maxNew := d.n 5,
    sampling := BitVec.ofNat 64 (d.n 6 + d.n 7 * 2 ^ 32), stop0 := d.w 8, stop1 := d.w 9, ring := ring,
    draftMax := d.draftMax, tclass := field (d.w 11) 15 8, src := if classL then d.w 12 else 0#32,
    kvDeadline := if classL then field (d.w 13) 15 0 else 0, admitUs := us, blocks := free.take d.blocks,
    draftBlocks := if d.draftMax = 0 then [] else (free.drop d.blocks).take d.blocks, len := 0, draftLen := 0, tokens := [], waiting := classL,
    kvGot := [], start := none, firstEpoch := 0#32, lastEpoch := 0#32, prefillEpoch := 0#32, charged := 0, accepted := 0,
    k := d.draftMax, z := 0, f := 0, i := 0, lastStep := 0, lateSeen := false, pinDropped := false }

/-- Considers one descriptor at commit (R179): its result word. The threshold is that of the command's dispatch (R205). -/
def admitOne (s : State) (i thresh : Nat) (seen : List Nat) (d : Desc) : State × W32 :=
  let bad := (s, BitVec.ofNat 32 stBAD_PACKET)
  match s.iface? i with
  | none => bad
  | some f =>
    match s.part? f.part with
    | none => bad
    | some p =>
      match p.gen.cfg, s.ringOf p (d.w 10), s.alloc? p.num (d.w 2) with
      | some g, some ring, some a =>
        let classL := d.classL thresh
        let dup := seen.contains (d.n 0) || p.gen.reqs.any (fun r => r.iface == i && r.reqId == d.n 0)
        if !d.valuesOk classL || decide (g.maxCtx < d.n 4 + d.n 5) || !tokenOk a (d.n 3) (d.n 4) || dup then bad
        else if p.slots < liveAll p + 1 ∨ f.slotCap < liveOf p i + 1 ∨ 16384 < sumBy liveAll s.parts + 1 ∨
            (s.freeBlocks p g).length < d.blocks * (if d.draftMax = 0 then 1 else 2) ∨ ring.freePages < d.pages then
          (s, BitVec.ofNat 32 stNO_RESOURCE)
        else
          let slot := p.freeSlot
          let r := newReq d f slot ring.number s.clk.localUs classL (s.freeBlocks p g)
          (s.modPart p.num fun q =>
            ({ q with gen := { q.gen with reqs := q.gen.reqs ++ [r] } }).modRing ring.number fun g =>
              { g with trajs := g.trajs ++ [Traj.open_ r.ident i r.tclass (g.takePages d.pages)] },
            BitVec.ofNat 32 (slot * 2 ^ 16))
      | _, _, _ => bad

def admitAll (s : State) (i thresh : Nat) : List Nat → List Desc → State × List W32
  | _, [] => (s, [])
  | seen, d :: r =>
    let (s, w) := admitOne s i thresh seen d
    let (s, ws) := admitAll s i thresh (d.n 0 :: seen) r
    (s, w :: ws)

def runGenAdmit (s : State) (c : Cmd) (e : Env) : State × Option Result :=
  let r := c.a 0
  let o := c.a 1
  checked s c [ (c.off 0, decide (1 ≤ r.count) && decide (r.count ≤ 256) && e.arrayOk r 64),
      (c.off 1, !o.absent && e.arrayOk o 4 && decide (r.count ≤ o.count)) ]
    (e.part.gen.cfg.isSome && e.iface.cring.isSome) [(r.handle, r.off, 64 * r.count)] [] e fun s =>
    (s, some (Result.ok (.genAdd (e.entries r 64) o.handle o.off)))

def execGenAdmit (c : CmdId) (s : State) : Answer := runOp 0x0402 c s runGenAdmit

/-- The admissions take effect; the results are a raw write, the count admitted is the detail word. -/
def commitGenAdmit (s : State) (c : Cmd) (descs : List (List W32)) (res : W32) (off : Nat) (r : Result) : State × Result :=
  let (s, ws) := admitAll s c.id.iface ((c.first.map (·.classL.toNat)).getD 0) [] (descs.map Desc.mk)
  (s, { r with detail := BitVec.ofNat 32 (ws.countP fun w => w.toNat % 65536 == stOK)
               writes := r.writes ++ [rawWrite res off (wordsBytes ws)] })

/-! ## Composing a batch step (R184, R201, R202) -/

def Iface.budgetsOn (f : Iface) : Bool := bitAt f.tokCfg 0

/-- The interface's requests are eligible at a step. -/
def Iface.fundsOk (f : Iface) : Bool := !f.budgetsOn || decide (0 < f.tokLevel)

def State.fundsOk (s : State) (i : Nat) : Bool := ((s.iface? i).map (·.fundsOk)).getD false

/-- Ascending by the step in which each last produced a token, then by slot. -/
def insertReq (r : Req) : List Req → List Req
  | [] => [r]
  | x :: l => if r.lastStep * 16384 + r.slot < x.lastStep * 16384 + x.slot then r :: x :: l else x :: insertReq r l

def sortReqs (l : List Req) : List Req := l.foldr insertReq []

/-- The draft length of a decode step, with the probe of R197 (R194). Without a draft model a request does not draft. -/
def draftLen (g : GenCfg) (r : Req) : Nat × Bool :=
  let room := r.maxNew - r.tokens.length - 1
  if r.draftMax = 0 ∨ g.draft.isEmpty = true then (0, false)
  else if r.k = 0 then (if 16 ≤ r.i then (if room = 0 then 0 else 1, true) else (0, false))
  else (if r.k < room then r.k else room, false)

def planOut (r : Req) (prompt d : Nat) (probed idle : Bool) : ReqOut :=
  { slot := r.slot, prompt := prompt, toks := [], len := r.len, draftLen := r.draftLen, drafted := d, accepted := 0,
    probed := probed, idle := idle, ended := none }

/-- Takes decode requests until the next would pass a limit; answers them with the tokens and sequences left. -/
def takeDecode (g : GenCfg) : Nat → Nat → List Req → List ReqOut × Nat × Nat
  | t, q, [] => ([], t, q)
  | t, q, r :: l =>
    let (d, probe) := draftLen g r
    if q = 0 ∨ t < 1 + d then ([], t, q)
    else
      let (os, t', q') := takeDecode g (t - (1 + d)) (q - 1) l
      (planOut r 0 d probe (r.draftMax != 0 && !g.draft.isEmpty && r.k == 0 && !probe) :: os, t', q')

/-- Takes prefill chunks. -/
def takePrefill (chunk : Nat) : Nat → Nat → List Req → List ReqOut
  | _, _, [] => []
  | t, q, r :: l =>
    if q = 0 ∨ t = 0 then []
    else
      let left := r.promptLen - r.len
      let n := min (min chunk left) t
      planOut r n 0 false false :: takePrefill chunk (t - n) (q - 1) l

/-- The eligible requests of a group: those pinned to the held copy, or the others (R184, R202). -/
def State.eligible (s : State) (p : Part) (pinned : Bool) : List Req :=
  (if pinned then p.pinned else p.gen.reqs.filter fun r => !p.pinned.any (·.slot == r.slot)).filter fun r =>
    !r.waiting && s.fundsOk r.iface

/-- The selection of a step of an epoch over its group. -/
def composeOn (s : State) (p : Part) (g : GenCfg) (pinned : Bool) (epoch : W32) (tokens seqs chunk : Nat) : StepOut :=
  let group := sortReqs (s.eligible p pinned)
  let (dec, t, q) := takeDecode g tokens seqs (group.filter fun r => decide (r.promptLen ≤ r.len))
  let pre := takePrefill chunk t q (group.filter fun r => decide (r.len < r.promptLen))
  let skips := (s.partIfaces p.num).filter fun f => !f.fundsOk && p.gen.reqs.any fun r => r.iface == f.num && !r.waiting
  { epoch := epoch, pinned := pinned, late := false, outs := dec ++ pre, skips := skips.map (·.num) }

/-- A step's epoch and selection at its beginning: the groups alternate while both have an eligible request (R202). -/
def compose (s : State) (p : Part) (g : GenCfg) (tokens seqs chunk : Nat) : StepOut :=
  let pinned := if (s.eligible p true).isEmpty then false else if (s.eligible p false).isEmpty then true else !p.gen.lastPinned
  composeOn s p g pinned ((if pinned then p.heldEpoch else p.bloomEpoch).getD 0#32) tokens seqs chunk

/-- The selection of a step: one that runs again after a kill keeps the copy it resolved (R252; log 1). -/
def composeFor (old : Option StepOut) (s : State) (p : Part) (g : GenCfg) (tokens seqs chunk : Nat) : StepOut :=
  match old with
  | some b => composeOn s p g b.pinned b.epoch tokens seqs chunk
  | none => compose s p g tokens seqs chunk

/-- An earlier GEN_STEP of the partition has not completed. -/
def State.stepBefore (s : State) (p : Nat) (c : Cmd) : Bool :=
  (s.partCmds p).any fun k => k.opcode == 0x0403 && k.id != c.id && k.started && decide (k.disp < c.disp)

/-- A GEN_CANCEL that has been dispatched commits before the next step begins (R200). -/
def State.cancelWaits (s : State) (p : Nat) : Bool := (s.partCmds p).any fun k => k.opcode == 0x0404 && k.phase != .fetched

/-- What happens at a step boundary: pins past their limit are dropped, a pending bud becomes bloom (R203, R271). -/
def State.boundary (s : State) (n : Nat) : State :=
  match s.part? n with
  | none => s
  | some p =>
    let s := if p.epo.hasArea .held && decide (p.epo.heldAt + 1000 * p.pinLimit ≤ s.clk.localUs) then s.dropPins n else s
    s.epochSwitch n

/-- The beginning of a step is a step boundary; that of a step that runs again after a kill is none. -/
def State.stepStart (s : State) (c : Cmd) (n : Nat) : State := if c.batch.isSome then s else s.boundary n

/-! ## The caches of a request (R181 to R183) -/

/-- A pass of the configured model, 0 for the policy and 1 for the draft, through entries. -/
def passOf (coef : W16) (g : GenCfg) (model : Nat) (entries : List (Alloc × Bool)) : Pass :=
  { coef := coef, geom := [model, g.layers, g.heads, g.dh, g.kvFmt.toNat], entries := entries, kvFmt := g.kvFmt,
    kvRows := 2 * g.layers * g.heads, kvCols := g.dh }

/-- Where the keys and values of a position lie in the pool: a block holds 64 positions, one after the other (R181; DESIGN
CHOICE, log 64). -/
def kvAddr (g : GenCfg) (size : Nat) (blocks : List Nat) (pos : Nat) : Nat :=
  blocks.getD (pos / 64) 0 * kvBlockBytes g + pos % 64 * size

/-- The keys and values of the first n positions of a cache. -/
def cacheBytes (a : Alloc) (g : GenCfg) (size : Nat) (blocks : List Nat) (n : Nat) : List Byte :=
  (List.range n).flatMap fun q => a.bytes (kvAddr g size blocks q) size

/-- The bytes of a cache from position `from_` on, as writes of the pool. -/
def cacheWrites (g : GenCfg) (size : Nat) (blocks : List Nat) (from_ : Nat) (kv : List Byte) : List (Nat × Byte) :=
  let n := if size = 0 then 0 else kv.length / size
  (List.range (n - from_)).flatMap fun i =>
    (List.range size).map fun j => (kvAddr g size blocks (from_ + i) + j, kv.getD ((from_ + i) * size + j) 0#8)

/-- The blocks of a cache that hold its first n positions, as byte ranges of the pool. -/
def cacheReads (g : GenCfg) (size : Nat) (h : W32) (blocks : List Nat) (n : Nat) : List (W32 × Nat × Nat) :=
  (List.range ((n + 63) / 64)).map fun i => (h, kvAddr g size blocks (64 * i), min 64 (n - 64 * i) * size)

/-! ## Sampling within a step (R186, R194 to R196; 05 R134 to R139) -/

/-- What a step has formed so far: draws, inner outputs, the pool's new bytes, and its longest score row. -/
structure Run where
  x : Drawer
  made : Tab Made
  bytes : List (Nat × Byte)
  longest : Nat
deriving DecidableEq, Repr, Inhabited

/-- What the decisions of one request need: mode, the sampler's tile, the request, its temperature entry, the models, the
pool and the prompt. -/
structure Dec where
  det : Bool
  tile : Nat
  r : Req
  p : Sampling
  eos : W32
  late : Bool
  g : GenCfg
  policy : Pass
  draft : Option Pass
  pool : Alloc
  prompt : Option Alloc
deriving Repr, Inhabited

/-- The token at a position of a request: of its prompt, then of those it has produced. -/
def Dec.token (d : Dec) (q : Nat) : W32 :=
  if q < d.r.promptLen then (d.prompt.map fun a => a.word (4 * (d.r.promptOff + q))).getD 0#32
  else d.r.tokens.getD (q - d.r.promptLen) 0#32

def Dec.tokens (d : Dec) (lo hi : Nat) : List W32 := (List.range (hi - lo)).map fun i => d.token (lo + i)

/-- The next word for a decision: `at_` is 2p for a test at position p, 2p + 1 for a choice (Table 5-2, R138). -/
def Dec.word (d : Dec) (at_ : Nat) (u : Run) : W32 × Run :=
  if d.det then (ctrWord u.x.seed 1 d.r.ident.toNat 0 at_, u)
  else let (w, x) := u.x.piece d.tile 64 32; (BitVec.ofNat 32 w, { u with x := x })

/-- The policy model reads tokens from the committed length on: the score row of each, its keys and values provisional
(R183). -/
def Dec.policyRows (d : Dec) (ts : List W32) (u : Run) : List (List W32) × Run :=
  let n := d.policy.kvSize
  let (rows, kv, made) := d.policy.positions ts d.r.len (cacheBytes d.pool d.g n d.r.blocks d.r.len) u.made
  (rows, { u with made := made, bytes := u.bytes ++ cacheWrites d.g n d.r.blocks d.r.len kv })

/-- The draft model reads the tokens that its cache lacks, up to position `hi`, and makes `k` proposals. -/
def Dec.draftRun (d : Dec) (hi k : Nat) (u : Run) : List Nat × Run :=
  match d.draft with
  | none => ([], u)
  | some m =>
    let n := m.kvSize
    let (rows, kv, made) := m.positions (d.tokens d.r.draftLen hi) d.r.draftLen (cacheBytes d.pool d.g n d.r.draftBlocks d.r.draftLen) u.made
    let (xs, kv, made) := m.propose k (rows.getLast?.getD []) hi kv made
    (xs, { u with made := made, bytes := u.bytes ++ cacheWrites d.g n d.r.draftBlocks d.r.draftLen kv })

def samplingOf (cv : W16) (r : Req) (c : W32) : Sampling :=
  let w0 := r.sampling.truncate 32
  { cv := cv, c := c, lpAll := bitAt w0 10, topk := field w0 31 12, topp := BitVec.ofNat 32 (r.sampling.toNat / 2 ^ 32) }

def Dec.flags (d : Dec) : W16 := (if d.late then flagLate else 0#16) ||| (if isZero d.p.c then flagGreedy else 0#16)

def noToken : W32 := 0xFFFFFFFF#32

/-- The record of a row that yields no token (R137). -/
def Dec.invalid (d : Dec) (pos : Nat) : TokOut :=
  { token := noToken, logp := nan32, flags := d.flags ||| flagInvalid, position := pos }

/-- A token ends the request with STOP. -/
def Dec.stops (d : Dec) (t : W32) : Bool :=
  (d.eos != noToken && t == d.eos) || (d.r.stop0 != noToken && t == d.r.stop0) || (d.r.stop1 != noToken && t == d.r.stop1)

/-- A score row that the sampler takes. -/
def Run.took (u : Run) (row : List W32) : Run := { u with longest := max u.longest row.length }

/-- A decision at a position: its token, or the invalid record, with the reason that ends the request. -/
def Dec.decide (d : Dec) (row : List W32) (pos : Nat) (u : Run) : TokOut × Option Nat × Run :=
  let (w, u) := d.word (2 * pos + 1) (u.took row)
  match sampleRow d.p row w with
  | none => (d.invalid pos, some endInvalid, u)
  | some (j, lp) =>
    let t := BitVec.ofNat 32 j
    ({ token := t, logp := lp, flags := d.flags, position := pos }, if d.stops t then some endStop else none, u)

/-- w × 2^-32 < P(x), compared exactly (R195). -/
def accepts (p : Sampling) (r : Prepared) (x : Nat) (w : W32) : Bool :=
  if isZero p.c then x == choose p r w
  else
    r.keep.getD x false &&
    match decode32 (fdiv (r.es.getD x 0#32) r.s) with
    | .num false n d => decide (w.toNat * d < n * 2 ^ 32)
    | _ => false

/-- The row with an entry's keep cleared. -/
def Prepared.without (r : Prepared) (x : Nat) : Prepared :=
  let es := (List.range r.es.length).map fun i => if i = x then 0#32 else r.es.getD i 0#32
  { r with es := es, keep := (List.range r.keep.length).map fun i => i != x && r.keep.getD i false, s := pairSum es }

/-- Tests proposals from a position, each against the score row of its position; at the end, or at a rejection, one choice.
Answers the tokens, the number accepted, and the reason that ends the request. -/
def Dec.verify (d : Dec) : List Nat → List (List W32) → Nat → Run → List TokOut × Nat × Option Nat × Run
  | [], rows, pos, u =>
    let (t, e, u) := d.decide (rows.headD []) pos u
    ([t], 0, e, u)
  | x :: xs, rows, pos, u =>
    let (w, u) := d.word (2 * pos) (u.took (rows.headD []))
    match prepare d.p (rows.headD []) with
    | none => ([d.invalid pos], 0, some endInvalid, u)
    | some r =>
      if accepts d.p r x w then
        let t := BitVec.ofNat 32 x
        let tok : TokOut := { token := t, logp := logProb d.p r x, flags := d.flags ||| flagDrafted, position := pos }
        if d.stops t then ([tok], 1, some endStop, u)
        else
          let (ts, a, e, u) := d.verify xs (rows.drop 1) (pos + 1) u
          (tok :: ts, a + 1, e, u)
      else
        let (w, u) := d.word (2 * pos + 1) u
        let j := choose d.p (r.without x) w
        let t := BitVec.ofNat 32 j
        ([{ token := t, logp := logProb d.p r j, flags := d.flags, position := pos }], 0,
          if d.stops t then some endStop else none, u)

/-- One request's part of a step: drafting, the pass over its positions, and the decisions. -/
def Dec.run (d : Dec) (o : ReqOut) (u : Run) : ReqOut × Run :=
  let pos := d.r.promptLen + d.r.tokens.length
  let finish := fun (ts : List TokOut) (e : Option Nat) =>
    match e with
    | some k => some k
    | none => if ts.length + d.r.tokens.length ≥ d.r.maxNew then some endLength else none
  if o.prompt = 0 then
    let (xs, u) := if o.drafted = 0 then ([], u) else d.draftRun pos o.drafted u
    let (rows, u) := d.policyRows (d.tokens d.r.len pos ++ xs.map (BitVec.ofNat 32)) u
    let (ts, a, e, u) := d.verify xs (rows.drop (pos - 1 - d.r.len)) pos u
    let len := d.r.len + ts.length
    ({ o with toks := ts, accepted := a, len := len, ended := finish ts e
              draftLen := if o.drafted = 0 then d.r.draftLen else min len (d.r.len + o.drafted) }, u)
  else
    let len := d.r.len + o.prompt
    let (rows, u) := d.policyRows (d.tokens d.r.len len) u
    let u := if d.r.draftMax = 0 then u else (d.draftRun len 0 u).2
    let dl := if d.r.draftMax = 0 then d.r.draftLen else len
    if len < d.r.promptLen then ({ o with len := len, draftLen := dl }, u)
    else
      let (t, e, u) := d.decide (rows.getLast?.getD []) pos u
      ({ o with toks := [t], len := len, draftLen := dl, ended := finish [t] e }, u)

/-- The requests of a step in ascending slot order. -/
def runOuts (mk : ReqOut → Option Dec) : List ReqOut → Run → List ReqOut × Run
  | [], u => ([], u)
  | o :: l, u =>
    let (o, u) := match mk o with
      | some d => d.run o u
      | none => (o, u)
    let (os, u) := runOuts mk l u
    (o :: os, u)

def insertOut (o : ReqOut) : List ReqOut → List ReqOut
  | [] => [o]
  | x :: l => if o.slot < x.slot then o :: x :: l else x :: insertOut o l

/-! ## GEN_STEP (0x0403): MAX_TOKENS, MAX_SEQS, CHUNK -/

/-- The contents of an entry for a command that reads the copy of a role: of that area for an epoch handle, else what the
command sees (spec 10 R252; 11 R295). -/
def Env.entryOf (e : Env) (epo : Epo) (role : AreaRole) (h : W32) : Option Alloc := (e.alloc? h).map (epo.resolve role)

/-- The entries of the bound plan, and which of them a late batch step computes from their shadows. -/
def planEntries (e : Env) (epo : Epo) (role : AreaRole) (late : List Nat) : List (Alloc × Bool) :=
  let hs := ((e.first.ctx.bind (·.plan)).map (·.handles)).getD []
  ((List.range hs.length).zip hs).filterMap fun (i, h) => (e.entryOf epo role h).map fun a => (a, late.contains i)

/-- The products of a traversal over m rows, each reading the outputs of the one before (spec 02 R52). -/
def planProducts (e : Env) (m : Nat) (draft : List W32) : List Product :=
  let hs := ((e.first.ctx.bind (·.plan)).map (·.handles)).getD []
  let ws : List (W32 × ItemWeight) := draft.map (fun h => (h, ItemWeight.home)) ++ ((List.range hs.length).zip hs).map fun (i, h) => (h, .entry i)
  ((List.range ws.length).zip ws).filterMap fun (n, h, w) => (e.alloc? h).map fun a =>
    { cls := .forward, src := if n = 0 then none else some (n - 1), weight := fun _ _ => w, m := m, k := a.rows, n := a.cols,
      kPass := kPerPass a.code a.code }

def StepOut.role (b : StepOut) : AreaRole := if b.pinned then .held else .bloom

/-- The rows of a step: prompt positions, decoded tokens and drafts. -/
def StepOut.rows (b : StepOut) : Nat := sumBy (fun o => if o.prompt = 0 then 1 + o.drafted else o.prompt) b.outs

/-- What a step reads: its layer plan's entries outside DDR5, the draft model, its chunks of prompts, and the caches of its
requests. -/
def stepReads (e : Env) (g : GenCfg) (p : Part) (b : StepOut) : List (W32 × Nat × Nat) :=
  let plan := ((e.first.ctx.bind (·.plan)).map (·.handles)).getD []
  let size := (passOf e.coef g 0 []).kvSize
  ((plan ++ g.draft).filterMap fun h => (e.alloc? h).bind fun a => if a.home = .ddr then none else some (h, 0, a.size)) ++
  b.outs.flatMap fun o =>
    match p.gen.reqs.find? (·.slot == o.slot) with
    | none => []
    | some r => (if o.prompt = 0 then [] else [(r.prompt, 4 * (r.promptOff + r.len), 4 * o.prompt)]) ++
        cacheReads g size g.pool r.blocks r.len ++ cacheReads g size g.pool r.draftBlocks r.draftLen

/-- What one request of a batch needs. -/
def stepDec (s : State) (e : Env) (g : GenCfg) (p : Part) (b : StepOut) (late : List Nat) (pool : Alloc) (r : Req) : Dec :=
  let c := (tempEntry ((e.first.ctx.map (·.temp)).getD { a := .never, b := .never, live := false })
    (field (r.sampling.truncate 32) 9 0)).getD one32
  { det := e.det, tile := 4 * (r.slot % p.n), r := r, p := samplingOf e.coef r c, eos := g.eos, late := b.late, g := g
    policy := passOf e.coef g 0 (planEntries e p.epo b.role late)
    draft := if g.draft.isEmpty then none
      else some (passOf e.coef g 1 (g.draft.filterMap fun h => (e.entryOf p.epo b.role h).map fun a => (a, false)))
    pool := pool, prompt := s.contents p.num r.prompt }

/-- What the requests of a batch decide, in the order of their slots. -/
def stepOuts (s : State) (e : Env) (g : GenCfg) (p : Part) (b : StepOut) (late : List Nat) (pool : Alloc) : List ReqOut × Run :=
  runOuts (fun o => (p.gen.reqs.find? (·.slot == o.slot)).map (stepDec s e g p b late pool)) (b.outs.foldr insertOut [])
    { x := s.drawer e, made := [], bytes := [], longest := 0 }

/-- The keys and values of a step, as a write of the pool (R183). -/
def poolWrite (pool : Alloc) (u : Run) : List TWrite :=
  if u.bytes.isEmpty then []
  else [{ handle := pool.handle, elems := [], scales := u.bytes
          stats := (u.made.filter fun m => m.1 % 65536 == 32768).foldl (fun t m => t.join m.2.stats) Stats.zero
          dscale := none, count := none }]

/-- What a step answers: SCALE_RANGE for an inner output past the threshold, else the number of its tokens, the pool's new
bytes, and what it did for each request. -/
def stepResult (c : Cmd) (e : Env) (b : StepOut) (pool : Alloc) (o : List ReqOut × Run) : Result :=
  outputsResult c (madeWrites o.2.made) (if e.det then none else some o.2.x.gens) { Result.bare stOK with
    detail := BitVec.ofNat 32 (sumBy (fun o => o.toks.length) o.1), eff := .genStep { b with outs := o.1 }
    writes := poolWrite pool o.2 }

/-- The step's work, once it has begun and every entry of its plan has been used. A score row that the clover's tile has no
room for gives NO_RESOURCE (spec 05 R140; 12 R314). -/
def runStep (s : State) (c : Cmd) (e : Env) (g : GenCfg) (b : StepOut) : State × Option Result :=
  match s.part? e.part.num, s.contents e.part.num g.pool with
  | some p, some pool =>
    let (s, bad) := s.readBuffers c (stepReads e g p b)
    if bad then (s, uncorrectable)
    else
      let o := stepOuts s e g p b c.late pool
      (s, some (if s.rowFits e 0#8 o.2.longest 4 then stepResult c e b pool o else Result.bare stNO_RESOURCE))
  | _, _ => (s, some Result.badState)

/-- The bound temperature bank has been emptied (spec 05 R135). -/
def tempEmptied (e : Env) : Bool :=
  match e.first.ctx.map (fun x : Ctx => x.temp.bank) with
  | some Bank.emptied => true
  | _ => false

/-- The partition had a bloom copy when the command was dispatched (spec 10 R257). -/
def Env.hadBloom (e : Env) : Bool := e.first.epo.hasArea .bloom

/-- A step that has begun: its traversal goes on, its work items run, and once all have run it decides. -/
def goStep (s : State) (c : Cmd) (e : Env) (g : GenCfg) (b : StepOut) : State × Option Result :=
  let (s, done) := s.traverse c
  let s := s.runItems c e (planProducts e b.rows (if b.outs.any (·.drafted != 0) then g.draft else []))
  if !done || !s.itemsDone c.id || (!e.det && s.generatorHeld c e.part.tiles) then (s, none)
  else runStep s c e g { b with late := !c.late.isEmpty }

def runGenStep (s : State) (c : Cmd) (e : Env) : State × Option Result :=
  checked s c [ (c.off 0, decide (1 ≤ c.n 0) && decide (c.n 0 ≤ 65536)), (c.off 1, decide (1 ≤ c.n 1) && decide (c.n 1 ≤ 16384)),
      (c.off 2, decide (1 ≤ c.n 2) && decide (c.n 2 ≤ 8192)) ]
    (e.serving && e.part.gen.cfg.isSome && !tempEmptied e && e.planOk) [] [] e fun s =>
    match e.part.gen.cfg with
    | none => (s, some Result.badState)
    | some g =>
      if !e.hadBloom then (s, some (Result.bare stEPOCH_INCOMPLETE))
      else match (if c.begun then c.batch else none) with
      | none =>
        if s.stepBefore e.part.num c || s.cancelWaits e.part.num then (s, none)
        else
          let s := s.stepStart c e.part.num
          match s.part? e.part.num with
          | none => (s, some Result.badState)
          | some p =>
            let b := composeFor c.batch s p g (c.n 0) (c.n 1) (c.n 2)
            goStep (s.modCmd c.id fun k => { k with batch := some b, begun := true }) c e g b
      | some b => goStep s c e g b

def execGenStep (c : CmdId) (s : State) : Answer := runOp 0x0403 c s runGenStep

/-! ## The commit of a step (R185, R187, R197, R199) -/

/-- The adaptive draft state (Table 7-5). -/
def Req.adapt (r : Req) (o : ReqOut) : Req :=
  let r := if o.probed then { r with i := 0 } else if o.idle then { r with i := r.i + 1 } else r
  if o.drafted = 0 then r
  else if o.accepted = 0 then
    if r.z + 1 = 4 then { r with k := r.k / 2, z := 0, f := 0 } else { r with z := r.z + 1, f := 0 }
  else if o.accepted = o.drafted then
    if r.f + 1 = 2 then { r with k := min (max (2 * r.k) 1) r.draftMax, f := 0, z := 0 } else { r with f := r.f + 1, z := 0 }
  else { r with z := 0, f := 0 }

/-- A request after a committed step that it took part in. -/
def Req.stepped (r : Req) (o : ReqOut) (epoch : W32) (step : Nat) (charge : Bool) : Req :=
  let n := o.toks.length
  { r.adapt o with
    len := o.len, draftLen := o.draftLen, tokens := r.tokens ++ o.toks.map (·.token), start := some (r.start.getD epoch)
    firstEpoch := if n ≠ 0 ∧ r.tokens.isEmpty = true then epoch else r.firstEpoch
    lastEpoch := if n = 0 then r.lastEpoch else epoch
    charged := satNat32 (r.charged + if charge then o.prompt else 0), accepted := satNat32 (r.accepted + o.accepted)
    lastStep := if n = 0 then r.lastStep else step
    lateSeen := r.lateSeen || o.toks.any fun t => t.flags &&& flagLate != 0#16 }

def TokOut.record (t : TokOut) (epoch request : W32) : ERec :=
  { token := t.token, logp := t.logp, value := 0#16, flags := t.flags, epoch := epoch, request := request,
    position := BitVec.ofNat 32 t.position, ret := 0#32, adv := 0#32 }

/-- The budget's charge; the level saturates at −2^31 (R187). -/
def Iface.pay (f : Iface) (units : Nat) : Iface :=
  if f.budgetsOn then { f with tokLevel := max (f.tokLevel - units) (-2147483648) } else f

def Iface.units (f : Iface) (prompt toks : Nat) : Nat := field f.tokWeights 15 0 * prompt + field f.tokWeights 31 16 * toks

/-- One request's outcome takes effect; a request that ends does so here. `i` is the interface of the step, whose commands
TIER.LATE_TOKENS counts (spec 06 R173). -/
def commitOut (s : State) (n i : Nat) (b : StepOut) (step : Nat) (o : ReqOut) : State :=
  match (s.part? n).bind fun p => p.gen.reqs.find? (·.slot == o.slot) with
  | none => s
  | some r =>
    let on := ((s.iface? r.iface).map (·.budgetsOn)).getD false
    let late := o.toks.countP fun t => t.flags &&& flagLate != 0#16
    let s := s.modPart n fun p =>
      ({ p with gen := { p.gen with reqs := modWhere (·.slot == o.slot) (fun r => r.stepped o b.epoch step on) p.gen.reqs } }).modRing
        r.ring (·.append r.ident (o.toks.map fun t : TokOut => t.record b.epoch r.ident))
    let s := s.modIface r.iface fun f =>
      { f.pay (f.units o.prompt o.toks.length) with
        expRecords := satNat32 (f.expRecords + o.toks.length) }
    let s := s.modIface i fun f => { f with lateTokens := satNat32 (f.lateTokens + late) }
    match o.ended with
    | some k =>
      match (s.part? n).bind fun p => p.gen.reqs.find? (·.slot == o.slot) with
      | some r => s.endReq n r k true
      | none => s
    | none => s

def commitOuts (s : State) (n i : Nat) (b : StepOut) (step : Nat) : List ReqOut → State
  | [] => s
  | o :: l => commitOuts (commitOut s n i b step o) n i b step l

def commitGenStep (s : State) (n i : Nat) (b : StepOut) : State :=
  let step := ((s.part? n).map (·.gen.steps)).getD 0 + 1
  let s := s.modPart n fun p => { p with gen := { p.gen with steps := step, lastPinned := b.pinned } }
  let s := b.skips.foldl (fun s i => s.modIface i fun f => { f with skips := satNat32 (f.skips + 1) }) s
  commitOuts s n i b step b.outs

/-! ## GEN_CANCEL (0x0404): REQ_ID -/

def Part.reqOf (p : Part) (i reqId : Nat) : Option Req := p.gen.reqs.find? fun r => r.iface == i && r.reqId == reqId

/-- A batch step that includes a slot is running. -/
def State.inStep (s : State) (p slot : Nat) : Bool :=
  (s.partCmds p).any fun k => k.opcode == 0x0403 && k.phase != .fetched && (k.batch.map fun b => b.outs.any (·.slot == slot)).getD false

def runGenCancel (s : State) (c : Cmd) (e : Env) : State × Option Result :=
  checked s c [(c.off 0, decide (c.n 0 < 2 ^ 24))] true [] [] e fun s =>
    match (s.part? e.part.num).bind (·.reqOf c.id.iface (c.n 0)) with
    | none => (s, some (Result.bare stALREADY_DONE))
    | some r => if s.inStep e.part.num r.slot then (s, none) else (s, some (Result.ok (.genCancel (c.n 0))))

def execGenCancel (c : CmdId) (s : State) : Answer := runOp 0x0404 c s runGenCancel

def commitGenCancel (s : State) (c : Cmd) (reqId : Nat) (r : Result) : State × Result :=
  let p := s.cmdPart c.id
  match (s.part? p).bind (·.reqOf c.id.iface reqId) with
  | none => (s, Result.bare stALREADY_DONE)
  | some q => (s.endReq p q endCancelled true, r)

/-! ## Receiving key/value blocks (R191 to R193) -/

/-- The positions that block `i` of a prompt of n tokens ships (R189). -/
def kvPositions (n i : Nat) : Nat := if 64 * (i + 1) ≤ n - 1 then 64 else (n - 1) % 64
def kvBlocks (n : Nat) : Nat := (n - 1 + 63) / 64

/-- The request that a block or a final message names, waiting, from that source. -/
def Part.kvTarget (p : Part) (request : W32) (m src : Nat) : Option Req :=
  p.gen.reqs.find? fun r => r.ident == request && r.waiting && field r.src 13 0 == m && field r.src 20 16 == src

def kvFits (g : GenCfg) (r : Req) (b : KvBlock) : Bool :=
  b.fmt == g.kvFmt && decide (b.index < kvBlocks r.promptLen) && b.positions == kvPositions r.promptLen b.index

/-- A block arrives: written into the request's reserved blocks, or discarded and counted (R192). -/
def kvReceive (s : State) (n : Nat) (b : KvBlock) : State :=
  match s.part? n with
  | none => s
  | some p =>
    let refuse := fun (i : Nat) => s.modIface i fun f => { f with kvDiscard := satNat32 (f.kvDiscard + 1) }
    match p.gen.cfg, p.kvTarget b.request b.srcModule b.srcPart with
    | some g, some r =>
      if kvFits g r b then
        (s.writeBuffer n g.pool (kvAddr g 0 r.blocks (64 * b.index)) (b.data.take (b.positions * (passOf 0#16 g 0 []).kvSize))).modPart n
          fun q => { q with gen := { q.gen with
            reqs := modWhere (·.slot == r.slot) (fun r => { r with kvGot := addOnce b.index r.kvGot }) q.gen.reqs } }
      else refuse r.iface
    | _, _ => refuse (((p.gen.reqs.find? (·.ident == b.request)).map (·.iface)).getD p.firstIf)

def execKvBlockReceive (part : Nat) (b : KvBlock) (s : State) : Answer :=
  if s.windowUp then .next (kvReceive s.wake part b) else .next s

/-- The receiver's answer to a final message, and its effect (R192). -/
def kvFinal (s : State) (n : Nat) (m : KvFinal) : State × Nat :=
  match s.part? n with
  | none => (s, stALREADY_DONE)
  | some p =>
    match p.gen.cfg, p.gen.reqs.find? (·.ident == m.request) with
    | some g, some r =>
      if r.waiting && field r.src 13 0 == m.srcModule && field r.src 20 16 == m.srcPart && m.fmt == g.kvFmt &&
          m.promptLen == r.promptLen && m.blocks == kvBlocks r.promptLen &&
          (List.range (kvBlocks r.promptLen)).all r.kvGot.contains then
        (s.modPart n fun q => { q with gen := { q.gen with
          reqs := modWhere (·.slot == r.slot) (fun r =>
            { r with waiting := false, len := r.promptLen - 1, prefillEpoch := m.epoch }) q.gen.reqs } }, stOK)
      else (s, stBAD_PACKET)
    | _, _ => (s, stALREADY_DONE)

def execPrefillFinalMessage (part : Nat) (m : KvFinal) (s : State) : Answer :=
  if s.windowUp then
    let (s, st) := kvFinal s.wake part m
    .next (s.emit (.kvAnswer m.request st))
  else .next s

/-- KV_DEADLINE_EXPIRY: a request's blocks were not accepted in time (R193). -/
def kvDeadline (s : State) (n slot : Nat) : State :=
  match (s.part? n).bind fun p => p.gen.reqs.find? (·.slot == slot) with
  | none => s
  | some r =>
    if r.waiting && r.kvDeadline != 0 && decide (r.admitUs + 1000 * r.kvDeadline ≤ s.clk.localUs) then
      s.wake.endReq n r endKvFailed true
    else s

def execKvDeadlineExpiry (part slot : Nat) (s : State) : Answer :=
  if s.windowUp then .next (kvDeadline s part slot) else .next s

/-! ## GEN_PREFILL (0x0405): REQUEST, MODULE, PARTITION, PROMPT, offset, length, format (R190 to R192) -/

/-- The copy that a prefill resolved at its first dispatch: still bloom, or held (spec 10 R252, R272). -/
def prefillRole (epo : Epo) (epoch : W32) : AreaRole :=
  if (epo.area? .bloom).map (·.epoch) = some epoch then .bloom else .held

/-- The configuration under which a prefill computes: the partition's, with the format of the command. -/
def prefillCfg (c : Cmd) (g : GenCfg) : GenCfg := { g with kvFmt := BitVec.ofNat 8 (c.n 6) }

/-- The keys and values of the positions 0 to PROMPT_LEN − 2, the same in every run (R189, R192). -/
def prefillCache (c : Cmd) (e : Env) (epo : Epo) (g : GenCfg) (epoch : W32) : List Byte × Tab Made :=
  let ts := ((e.alloc? (c.w 3)).map fun a => a.tokens (c.n 4) (c.n 5 - 1)).getD []
  let (_, kv, made) := (passOf e.coef (prefillCfg c g) 0 (planEntries e epo (prefillRole epo epoch) [])).positions ts 0 [] []
  (kv, made)

/-- A shipped block of a cache (R191). -/
def shippedBlock (s : State) (c : Cmd) (e : Env) (g : GenCfg) (epoch : W32) (kv : List Byte) (i : Nat) : KvBlock :=
  let size := (passOf e.coef (prefillCfg c g) 0 []).kvSize
  { request := c.w 0, index := i, positions := kvPositions (c.n 5) i, fmt := BitVec.ofNat 8 (c.n 6), epoch := epoch,
    srcModule := s.net.moduleId, srcPart := e.part.num
    data := (kv.drop (64 * i * size)).take (kvPositions (c.n 5) i * size) }

def finalMessage (s : State) (c : Cmd) (e : Env) (epoch : W32) : KvFinal :=
  { request := c.w 0, srcModule := s.net.moduleId, srcPart := e.part.num, fmt := BitVec.ofNat 8 (c.n 6),
    promptLen := c.n 5, blocks := kvBlocks (c.n 5), epoch := epoch }

/-- A block and a final message as they travel to another module: what R191 and R192 say they carry, in words (DESIGN
CHOICE, log 23). -/
def blockMessage (b : KvBlock) : List Byte :=
  wordsBytes [b.request, BitVec.ofNat 32 b.index, BitVec.ofNat 32 b.positions, b.fmt.zeroExtend 32, b.epoch] ++ b.data
def endMessage (m : KvFinal) : List Byte :=
  wordsBytes [m.request, BitVec.ofNat 32 m.blocks, BitVec.ofNat 32 m.promptLen, m.fmt.zeroExtend 32, m.epoch]

/-- The status that a receiver's answer gives the prefill. Another module's answer is free among the three (log 23). -/
def remoteAnswer (use : Nat) : Nat :=
  match Config.freeCount 3 use % 3 with
  | 0 => stOK
  | 1 => stALREADY_DONE
  | _ => stBAD_PACKET

/-- A message of a prefill to a partition of another module. -/
def State.shipTo (s : State) (c : Cmd) (e : Env) (bs : List Byte) : State :=
  s.sendMessage e.part.num (c.n 1) (c.n 2) c.seq c.attempts false (some c.id) bs

/-- Ships every block, to a partition of this module or of another. -/
def shipBlocks (s : State) (c : Cmd) (bs : List KvBlock) (e : Env) : State :=
  if c.n 1 = s.net.moduleId then bs.foldl (fun t b => kvReceive t (c.n 2) b) s else bs.foldl (fun t b => t.shipTo c e (blockMessage b)) s

/-- Sends the final message, and takes the answer. -/
def shipFinal (s : State) (c : Cmd) (e : Env) (m : KvFinal) : State × Nat :=
  if c.n 1 = s.net.moduleId then kvFinal s (c.n 2) m else ((s.shipTo c e (endMessage m)).useFresh, remoteAnswer s.fresh)

def prefillResult (st n : Nat) (made : List TWrite) : Result :=
  if st = stBAD_PACKET then Result.badState
  else { Result.bare st with eff := .genPrefill (n - 1), always := true, writes := made }

/-- The weights that a prefill reads outside DDR5. -/
def prefillReads (e : Env) : List (W32 × Nat × Nat) :=
  (((e.first.ctx.bind (·.plan)).map (·.handles)).getD []).filterMap fun h =>
    (e.alloc? h).bind fun a => if a.home = .ddr then none else some (h, 0, a.size)

/-- The traversal goes on; once it has passed every entry the blocks are shipped and the receiver answers. A prefill that
fails sends no final message (R192). -/
def runPrefill (s : State) (c : Cmd) (e : Env) (g : GenCfg) (epoch : W32) : State × Option Result :=
  let (s, done) := s.traverse c
  let s := s.runItems c e (planProducts e (c.n 5 - 1) [])
  if !done || !s.itemsDone c.id then (s, none)
  else
    let (s, bad) := s.readBuffers c (prefillReads e)
    if bad then (s, uncorrectable)
    else
      let (kv, made) := prefillCache c e (((s.part? e.part.num).map (·.epo)).getD e.part.epo) g epoch
      let s := shipBlocks s c ((List.range (kvBlocks (c.n 5))).map (shippedBlock s c e g epoch kv)) e
      match guardResult c (madeWrites made) with
      | some r => (s, some r)
      | none =>
        let (s, st) := shipFinal s c e (finalMessage s c e epoch)
        (s, some (prefillResult st (c.n 5) ((madeWrites made).map fun x => x.2.2)))

def promptOk (e : Env) (h : W32) (off n : Nat) : Bool := ((e.alloc? h).map fun a => tokenOk a off n).getD false

def runGenPrefill (s : State) (c : Cmd) (e : Env) : State × Option Result :=
  checked s c [ (c.off 1, decide (c.n 1 < 2 ^ 14)), (c.off 2, decide (c.n 2 < 32)), (c.off 3, promptOk e (c.w 3) (c.n 4) (c.n 5)),
      (c.off 5, decide (2 ≤ c.n 5)), (c.off 6, kvFmtOk (c.n 6) ((e.part.gen.cfg.map (·.dh)).getD 32)) ]
    (e.part.gen.cfg.isSome && e.planOk) [(c.w 3, 4 * c.n 4, 4 * c.n 5)] [] e fun s =>
    match e.part.gen.cfg, e.first.epo.area? .bloom with
    | some g, some a =>
      if !c.begun && !s.fundsOk c.id.iface then (s, none)
      else runPrefill (s.modCmd c.id fun k => { k with begun := true }) c e g a.epoch
    | _, _ => (s, some (Result.bare stEPOCH_INCOMPLETE))

def execGenPrefill (c : CmdId) (s : State) : Answer := runOp 0x0405 c s runGenPrefill

/-- The prompt positions are charged to the command's interface. -/
def commitGenPrefill (s : State) (i positions : Nat) : State := s.modIface i fun f => f.pay (f.units positions 0)

/-! ## GEN_COMPL_RING (0x0406): HANDLE, COUNT -/

def ringCountOk (n : Nat) : Bool := (List.range 11).any fun k => n == 2 ^ (k + 6)

/-- Completion entries are owed to an interface. -/
def State.owes (s : State) (i : Nat) : Bool := s.parts.any fun p => p.gen.owed.any (·.iface == i)

/-- It waits until every entry owed to the earlier ring has been written (R198; 11 R295; DEDUCED, log 48). -/
def runGenComplRing (s : State) (c : Cmd) (e : Env) : State × Option Result :=
  checked s c [(c.off 0, e.bufferOk (c.w 0) 0 (32 * c.n 1)), (c.off 1, ringCountOk (c.n 1))] true [] [] e fun s =>
    if s.owes c.id.iface then (s, none) else (s, some (Result.ok (.complRing (c.w 0) (c.n 1))))

def execGenComplRing (c : CmdId) (s : State) : Answer := runOp 0x0406 c s runGenComplRing

def commitComplRing (s : State) (i : Nat) (h : W32) (n : Nat) : State := s.modIface i fun f => { f with cring := some (h, n) }

/-- COMPLETION_ENTRY_WRITE: the oldest entry owed to an interface is written, while its ring has room; its slot frees. -/
def writeEntry (s : State) (i : Nat) : State :=
  match s.iface? i with
  | none => s
  | some f =>
    match f.cring, (s.part? f.part).bind fun p => p.gen.owed.find? (·.iface == i) with
    | some (h, n), some o =>
      if n ≤ (f.cringWr - f.cringRd).toNat then s
      else
        let s := s.writeBuffer f.part h (32 * (f.cringWr.toNat % n)) (wordsBytes o.words)
        let s := s.modPart f.part fun p => { p with gen := { p.gen with owed := dropFirst (·.iface == i) p.gen.owed } }
        s.modIface i fun f => { f with cringWr := f.cringWr + 1 }
    | _, _ => s

def execCompletionEntryWrite (iface : Nat) (s : State) : Answer := if s.awake then .next (writeEntry s iface) else .next s

/-- A write of SCH.CRING_RD: from CRING_WR − count to CRING_WR (R205). -/
def cringRd (s : State) (i : Nat) (v : W32) : State :=
  match s.iface? i with
  | none => s
  | some f =>
    if (match f.cring with | some (_, n) => decide ((f.cringWr - v).toNat ≤ n) | none => v == f.cringWr) then
      s.modIface i fun f => { f with cringRd := v }
    else s.discard i causeR205 true 0x1A28

def execCringRdWrite (iface : Nat) (value : W32) (s : State) : Answer :=
  if s.windowUp then .next (cringRd s.wake iface value) else .next s

/-! ## Pins and budgets (R187, R188, R203) -/

/-- A batch step has begun in a partition and has not completed: no step boundary comes before it has. -/
def State.stepping (s : State) (p : Nat) : Bool := (s.partCmds p).any fun k => k.opcode == 0x0403 && k.batch.isSome

/-- PIN_DROP: between batch steps, pins past the limit are dropped. -/
def pinDropAt (s : State) (n : Nat) : State :=
  match s.part? n with
  | none => s
  | some p =>
    if p.epo.hasArea .held && !s.stepping n && decide (p.epo.heldAt + 1000 * p.pinLimit ≤ s.clk.localUs) then s.wake.dropPins n else s

def execPinDrop (part : Nat) (s : State) : Answer := if s.windowUp then .next (pinDropAt s part) else .next s

/-- A new configuration takes effect and the level is clamped; then the refill. A disabled budget holds DEPTH. -/
def Iface.refill (f : Iface) : Iface :=
  let f := match f.newBudget with
    | some (cfg, rate, depth, wts) =>
      { f with tokCfg := cfg, tokRate := rate, tokDepth := depth, tokWeights := wts, newBudget := none
               tokLevel := min f.tokLevel depth.toNat }
    | none => f
  if f.budgetsOn then { f with tokLevel := min (f.tokLevel + f.tokRate.toNat) f.tokDepth.toNat }
  else { f with tokLevel := f.tokDepth.toNat }

/-- BUDGET_REFILL: at each millisecond boundary of the local clock, once. -/
def execBudgetRefill (s : State) : Answer :=
  if s.live && decide (s.clk.refillMs < s.clk.localUs / 1000) then
    .next { s with ifaces := s.ifaces.map (·.refill), clk := { s.clk with refillMs := s.clk.refillMs + 1 } }
  else .next s

end Sys2Proof.Machine
end

