-- ==== Sys2Proof/Machine/Experience.lean ====
section
/-!
DEFINITION. Trajectory rings, the return scan and gathering (spec 08).
-/
namespace Sys2Proof.Machine

/-! ## EXP_RING_CREATE (0x0701): HANDLE, GRANTS -/

/-- A ring's pages: 64 records in 2,112 bytes (R210). -/
def ringPages (a : Alloc) : Nat := a.size / 2112

def ringRoomOk (a : Alloc) : Bool := a.home == .hbm && decide (16 ≤ ringPages a) && decide (ringPages a ≤ 2 ^ 24)

def ringAllocOk (a : Alloc) : Bool := ringRoomOk a && (match a.role with | .plain => true | _ => false)

/-- The lowest free ring number below 16. -/
def Part.freeRing (p : Part) : Option Nat := (List.range 16).find? fun n => (p.ring? n).isNone

def runRingCreate (s : State) (c : Cmd) (e : Env) : State × Option Result :=
  let r := c.a 1
  let gs := (e.entries r 4).map fun w => w.getD 0 0#32
  checked s c [ (c.off 0, ((e.alloc? (c.w 0)).map ringRoomOk).getD false), (c.off 1, decide (r.count ≤ 8) && e.arrayOk r 4) ]
    (((e.alloc? (c.w 0)).map ringAllocOk).getD false && e.part.freeRing.isSome && gs.all fun g => g &&& 0xFFE0C000#32 == 0#32)
    [(r.handle, r.off, 4 * r.count)] [] e fun s => (s, some (Result.ok (.ringCreate (c.w 0) gs)))

def execExpRingCreate (c : CmdId) (s : State) : Answer := runOp 0x0701 c s runRingCreate

/-- The allocation becomes a ring; its number is the detail word. Every class has γ and λ of 1.0. -/
def commitRingCreate (s : State) (p : Nat) (h : W32) (gs : List W32) (r : Result) : State × Result :=
  match s.part? p, s.alloc? p h with
  | some q, some a =>
    match (if ringAllocOk a then q.freeRing else none) with
    | none => (s, Result.badState)
    | some n =>
      let ring : Ring := { number := n, handle := h, pages := ringPages a, grants := gs, classes := [], trajs := [], queue := [] }
      ((s.modPart p fun q => { q with rings := q.rings ++ [ring] }).modAlloc p h fun a => { a with role := .ring n },
        { r with detail := BitVec.ofNat 32 n })
  | _, _ => (s, Result.badState)

/-! ## EXP_CLASS_SET (0x0702): RING, CLASS, γ, λ -/

def unitOk (w : W32) : Bool := fle 0#32 w && fle w one32

def runClassSet (s : State) (c : Cmd) (e : Env) : State × Option Result :=
  checked s c [ (c.off 0, decide (c.n 0 < 16)), (c.off 1, decide (c.n 1 < 256)), (c.off 2, unitOk (c.w 2)), (c.off 3, unitOk (c.w 3)) ]
    (e.part.ring? (c.n 0)).isSome [] [] e fun s => (s, some (Result.ok (.classSet (c.n 0) (c.n 1) (c.w 2) (c.w 3))))

def execExpClassSet (c : CmdId) (s : State) : Answer := runOp 0x0702 c s runClassSet

def commitClassSet (s : State) (p n cls : Nat) (gamma lambda : W32) : State :=
  s.modPart p fun q => q.modRing n fun r => { r with classes := Tab.set r.classes cls (gamma, lambda) }

/-! ## EXP_SCORE (0x0703): RING, REQUEST, MODE, REWARD, terminal reward, VALUE, V_boot -/

def bf16 (p : W16) : W32 := BitVec.ofNat 32 (p.toNat * 65536)

/-- One step of the scan of R215: the record's results and the carried g, a, vn. -/
def scanStep (gamma gl r v g a vn : W32) : W32 × W32 × W32 :=
  let d := fsub (ffma gamma vn r) v
  (ffma gamma g r, ffma gl a d, v)

/-- The scan from the last record to the first (R215): records with their rewards and values, and the carried g, a, vn
before the first record. -/
def scan (gamma gl boot : W32) : List (ERec × W32 × W16) → List ERec × W32 × W32 × W32
  | [] => ([], boot, 0#32, boot)
  | (x, r, v) :: t =>
    let (xs, g, a, vn) := scan gamma gl boot t
    let (g, a, vn) := scanStep gamma gl r (bf16 v) g a vn
    ({ x with value := v, ret := g, adv := a, flags := x.flags ||| flagScanned } :: xs, g, a, vn)

/-- An FP32 value as BF16; an infinity stays one. -/
def toBf16 (v : W32) : W16 :=
  BitVec.ofNat 16 (if isInf v then v.toNat / 65536 else (encodeElem 1 false none (decode32 v)).1)

/-- A record's value in BF16, from the value tensor or the record itself: at a decode scale of 1.0 the element as it stands
(R215; 03 R475). -/
def valueAt (e : Env) (t : TRef) (k : Nat) (x : ERec) : W16 :=
  match (if t.handle = 0#32 then none else e.alloc? t.handle) with
  | some a => if a.dscale = one32 then BitVec.ofNat 16 (a.pattern (t.off + k)) else toBf16 (a.value (t.off + k))
  | none => x.value

def rewardAt (c : Cmd) (rs : List W32) (n k : Nat) : W32 :=
  if c.n 2 = 0 then nth rs k else if k + 1 = n then c.w 4 else 0#32

/-- γ and λ of the trajectory's class when the command was first dispatched (R213). -/
def boundClass (e : Env) (ring cls : Nat) : W32 × W32 := Tab.get (Tab.get e.first.classes ring []) cls (one32, one32)

/-- The scanned records of a closed trajectory. -/
def scored (c : Cmd) (e : Env) (t : Traj) : List ERec :=
  let (gamma, lambda) := boundClass e (c.n 0) t.tclass
  let n := t.recs.length
  let rs := e.values (c.t 3)
  let items := ((List.range n).zip t.recs).map fun (k, x) => (x, rewardAt c rs n k, valueAt e (c.t 5) k x)
  (scan gamma (fmul gamma lambda) (if t.truncated then c.w 6 else 0#32) items).1

def scoreFields (c : Cmd) (e : Env) : List Check :=
  [ (c.off 0, decide (c.n 0 < 16)), (c.off 2, decide (c.n 2 < 2)) ] ++
  (if c.n 2 = 0 then inputChecks e (c.off 3) (c.t 3) ++ [(c.off 3, (c.t 3).fmt == 0#8)] else [(c.off 3, (c.t 3).zero)]) ++
  optional (inputChecks e (c.off 5) (c.t 5) ++ [(c.off 5, (c.t 5).fmt == 1#8)]) (c.off 5) (c.t 5)

/-- The tensors cover the trajectory (R214). -/
def tensorsCover (c : Cmd) (e : Env) (n : Nat) : Bool :=
  (c.n 2 != 0 || decide (n ≤ e.len (c.t 3))) && ((c.t 5).handle == 0#32 || decide (n ≤ e.len (c.t 5)))

/-- An EXP_SCORE of the partition that was dispatched earlier names the same trajectory and has not completed. -/
def State.scoredBefore (s : State) (c : Cmd) : Bool :=
  (s.partCmds (s.cmdPart c.id)).any fun k => k.opcode == 0x0703 && k.id != c.id && k.started && decide (k.disp < c.disp) &&
    k.n 0 == c.n 0 && k.w 1 == c.w 1

/-- On a variant without the unit the partition's role is tested first, so an EXP_SCORE in a PREFILL or LEARN partition
completes with BAD_PACKET (spec 00 R4, 08 R209; DESIGN CHOICE, log 65). The command keeps the hold that it took at its
first dispatch, or takes it when an earlier command that held the trajectory has completed (R218); it scans when a lane
takes it (R219). -/
def runExpScore (s : State) (c : Cmd) (e : Env) : State × Option Result :=
  if !s.fit.scan then (s, some (Result.bare stUNSUPPORTED))
  else
    checked s c (scoreFields c e) ((e.part.ring? (c.n 0)).isSome && c.n 1 / 2 ^ 24 == c.id.iface) [] [] e fun s =>
      match (e.part.ring? (c.n 0)).bind fun r => (r.unscanned (c.w 1)).map fun t => (r, t) with
      | none => (s, some (Result.bare stALREADY_DONE))
      | some (r, t) =>
        if t.holder != some c.id && (t.holder.isSome || s.scoredBefore c) then (s, none)
        else
          let s := (holdTraj s e.part.num (c.n 0) (c.w 1) c.id).joinScans
          if !t.closed || !s.inLane c.id then (s, none)
          else if !tensorsCover c e t.recs.length then (s, some Result.badState)
          else
            let (s, b1) := s.readBuffers c (t.ranges r.handle)
            let (s, b2) := s.readRefs c e [c.t 3, c.t 5]
            let s := s.leaveQueues c.id
            if b1 || b2 then (s, uncorrectable) else (s, some (Result.ok (.score (c.n 0) (c.w 1) (scored c e t))))

def execExpScore (c : CmdId) (s : State) : Answer := runOp 0x0703 c s runExpScore

/-- The trajectory becomes SCANNED and joins the delivery queue (R217, R220). -/
def commitScore (s : State) (c : Cmd) (n : Nat) (request : W32) (recs : List ERec) : State :=
  let p := s.cmdPart c.id
  let s := s.modPart p fun q => q.modRing n fun r =>
    match r.trajs.find? (·.holder == some c.id) with
    | some t => { r with
        trajs := dropFirst (·.holder == some c.id) r.trajs
        queue := r.queue ++ [{ t with request := request, scanned := true, holder := none, recs := recs }] }
    | none => r
  s.modIface c.id.iface fun f => { f with expScanned := satNat32 (f.expScanned + 1) }

/-! ## EXP_GATHER (0x0704): MODULE, PARTITION, RING, MAX_RECORDS, DESTINATION -/

/-- The bytes of a record (Table 8-1). -/
def ERec.bytes (r : ERec) : List Byte :=
  wordBytes r.token ++ wordBytes r.logp ++ leBytes 2 r.value.toNat ++ leBytes 2 r.flags.toNat ++ wordBytes r.epoch ++
  wordBytes r.request ++ wordBytes r.position ++ wordBytes r.ret ++ wordBytes r.adv

def claimed (r : Ring) (c : CmdId) : List Traj := r.queue.filter (·.claim == some c)

/-- The result of a gather that holds its claim: the records, raw, from byte 0. -/
def gatherResult (c : Cmd) (src n : Nat) (ts : List Traj) : Result :=
  let recs := ts.flatMap (·.recs)
  { Result.okDetail (BitVec.ofNat 32 recs.length) with
    writes := [rawWrite (c.w 4) 0 (recs.flatMap ERec.bytes)], eff := .expGather src n }

/-- Reads by a gather of the pages that it has claimed. -/
def State.readClaim (s : State) (c : Cmd) (p : Nat) : List (W32 × Nat × Nat) → State × Bool
  | [] => (s, false)
  | (h, lo, n) :: r =>
    let (s, b) := s.readBytesAt c p h lo (lo + n)
    let (s, b') := State.readClaim s c p r
    (s, b || b')

/-- A gather from a ring of this module, as its first dispatch found the queue. -/
def gatherHere (s : State) (c : Cmd) (p : Part) (r : Ring) : State × Option Result :=
  match c.stage with
  | 1 => (s, some (Result.bare stOK))
  | 2 => (s, some (Result.bare stNO_RESOURCE))
  | 3 =>
    let ts := claimed r c.id
    let (s, bad) := s.readClaim c p.num (ts.flatMap (·.ranges r.handle))
    (s, if bad then uncorrectable else some (gatherResult c p.num r.number ts))
  | _ => (s, some Result.badState)

/-- A gather from a ring of another module: what that module has answered, if anything, is free among the outcomes of R221,
within the limits of the command (log 22). -/
def gatherAway (s : State) (c : Cmd) (limit : Nat) : State × Option Result :=
  let use := s.fresh
  (s.useFresh, match Config.freeCount 123 use % 4 with
    | 0 => none
    | 1 =>
      let n := Config.freeCount 124 use % (limit + 1)
      some { Result.okDetail (BitVec.ofNat 32 n) with
        writes := [rawWrite (c.w 4) 0 ((List.range (32 * n)).map fun i => (Config.freeBytes 321 use).getD i 0#8)] }
    | 2 => some (Result.bare stNO_RESOURCE)
    | _ => some Result.badState)

def runExpGather (s : State) (c : Cmd) (e : Env) : State × Option Result :=
  checked s c [ (c.off 0, decide (c.n 0 < 2 ^ 14)), (c.off 1, decide (c.n 1 < 32)), (c.off 2, decide (c.n 2 < 16)),
      (c.off 3, decide (1 ≤ c.n 3)), (c.off 4, e.bufferOk (c.w 4) 0 0) ] true [] [] e fun s =>
    if c.n 0 ≠ s.net.moduleId then gatherAway s c (gatherLimit c e.view.allocs)
    else match (s.part? (c.n 1)).bind fun p => (p.ring? (c.n 2)).map fun r => (p, r) with
      | none => (s, some Result.badState)
      | some (p, r) => if r.grantsTo s.net.moduleId e.part.num then gatherHere s c p r else (s, some Result.badState)

def execExpGather (c : CmdId) (s : State) : Answer := runOp 0x0704 c s runExpGather

/-- The claimed trajectories leave the queue and their pages return. -/
def commitGather (s : State) (src n : Nat) (c : CmdId) : State :=
  s.modPart src fun q => q.modRing n fun r => { r with queue := r.queue.filter (·.claim != some c) }

/-! ## EXP_RING_DESTROY (0x0705): RING -/

/-- A live request names the ring, or a command holds a claim or a trajectory in it (R222). -/
def State.ringBusy (s : State) (p : Part) (r : Ring) : Bool :=
  p.gen.reqs.any (·.ring == r.number) || r.trajs.any (·.holder.isSome) || r.queue.any (·.claim.isSome) ||
  (s.partCmds p.num).any fun k => k.opcode == 0x0703 && k.started && k.n 0 == r.number && (r.unscanned (k.w 1)).isSome

/-- A ring of a partition may be ended. -/
def State.ringIdle (s : State) (p n : Nat) : Bool :=
  ((s.part? p).bind fun q => (q.ring? n).map fun r => !s.ringBusy q r).getD true

def runRingDestroy (s : State) (c : Cmd) (e : Env) : State × Option Result :=
  checked s c [(c.off 0, decide (c.n 0 < 16))] (e.part.ring? (c.n 0)).isSome [] [] e fun s =>
    match e.part.ring? (c.n 0) with
    | none => (s, some Result.badState)
    | some r => if s.ringBusy e.part r then (s, none) else (s, some (Result.ok (.ringDestroy (c.n 0))))

def execExpRingDestroy (c : CmdId) (s : State) : Answer := runOp 0x0705 c s runRingDestroy

/-- Trajectories not delivered are discarded; the allocation is an ordinary one again. -/
def commitRingDestroy (s : State) (p n : Nat) : State :=
  match (s.part? p).bind (·.ring? n) with
  | none => s
  | some r =>
    (s.modPart p fun q => { q with rings := q.rings.filter (·.number != n) }).modAlloc p r.handle fun a =>
      { a with role := .plain }

end Sys2Proof.Machine
end

