-- ==== Sys2Proof/Machine/Epochs.lean ====
section
/-!
DEFINITION. Weight epochs: the shard map, grants, loads with their sources, publishing and discarding, and serving pieces
(spec 10).
-/
namespace Sys2Proof.Machine

/-! ## Who may issue the family (R254) -/

def State.epochIssuer (s : State) (e : Env) : Bool :=
  if e.part.role = roleLearn then
    (s.partCtxs e.part.num).any fun x => x.learn.isSome && x.iface == e.iface.num
  else e.serving

/-! ## EPO_MAP (0x0601): the entries -/

/-- A shard map entry of Table 10-2. -/
def mapEntryOf (w : List W32) : MapEntry :=
  let ff := w.getD 5 0#32
  { tensor := w.getD 0 0#32, rowLo := (w.getD 1 0#32).toNat, rowCnt := (w.getD 2 0#32).toNat, colLo := (w.getD 3 0#32).toNat,
    colCnt := (w.getD 4 0#32).toNat, fmt := BitVec.ofNat 8 (field ff 7 0), flags := BitVec.ofNat 16 (field ff 31 16),
    handle := w.getD 6 0#32, dscale := w.getD 7 0#32 }

/-- Two rectangles of one tensor share an element. -/
def MapEntry.overlaps (a b : MapEntry) : Bool :=
  a.tensor == b.tensor && decide (a.rowLo < b.rowLo + b.rowCnt) && decide (b.rowLo < a.rowLo + a.rowCnt) &&
  decide (a.colLo < b.colLo + b.colCnt) && decide (b.colLo < a.colLo + a.colCnt)

def pairwiseApart : List MapEntry → Bool
  | [] => true
  | a :: r => r.all (fun b => !a.overlaps b) && pairwiseApart r

/-- An entry on its own (Table 10-2; R256). -/
def mapEntryOk (learn : Bool) (w : List W32) : Bool :=
  let m := mapEntryOf w
  decide (1 ≤ m.rowCnt) && decide (m.rowCnt ≤ 2 ^ 24) && decide (1 ≤ m.colCnt) && field (w.getD 5 0#32) 15 8 == 0 &&
  fmtOk m.fmt && kExtentOk m.fmt 2 [m.rowCnt, m.colCnt] && flagsOk m.flags m.fmt 2 &&
  (!flagBit m.flags 0 || flagBit m.flags 8) && (learn || m.handle == 0#32) && (fmtBlock m.fmt || posNormal m.dscale)

/-- A LEARN entry names a WEIGHT of the committed plan, of its shape (R255). -/
def State.learnEntryOk (s : State) (p : Nat) (m : MapEntry) : Bool :=
  ((s.partCtxs p).any fun x => (x.learn.map fun l => l.entries.any (·.weight == m.handle)).getD false) &&
  ((s.alloc? p m.handle).map fun a => a.rows == m.rowCnt && a.cols == m.colCnt).getD false

/-- A LEARN entry takes the format and flags of the WEIGHT it names (log 25). -/
def State.asWeight (s : State) (p : Nat) (m : MapEntry) : MapEntry :=
  match s.alloc? p m.handle with
  | some a => { m with fmt := a.fmt, flags := a.flags }
  | none => m

def Alloc.isEpoch (a : Alloc) : Bool := match a.role with | .epoch _ => true | _ => false

/-- Something still uses the old map (R256). -/
def State.mapBusy (s : State) (p : Part) (c : CmdId) : Bool :=
  let ks := (s.partCmds p.num).filter fun k => k.id != c && k.started
  if p.role = roleLearn then ks.any fun k => k.opcode == 0x0502 || k.opcode == 0x0603
  else
    let hs := ((s.partAllocs p.num).filter (·.isEpoch)).map (·.handle)
    let draft := (p.gen.cfg.map (·.draft)).getD []
    !p.gen.reqs.isEmpty || ks.any fun k => (k.handles ++ if k.opcode = 0x0403 then draft else []).any fun h => hs.contains h

def runEpoMap (s : State) (c : Cmd) (e : Env) : State × Option Result :=
  let r := c.a 0
  let ws := e.entries r 32
  let ms := ws.map mapEntryOf
  let learn := e.part.role == roleLearn
  checked s c [(c.off 0, decide (1 ≤ r.count) && decide (r.count ≤ 4096) && e.arrayOk r 32)]
    (s.epochIssuer e && ws.all (mapEntryOk learn) && pairwiseApart ms && !s.mapBusy e.part c.id &&
      (!learn || ms.all (s.learnEntryOk e.part.num))) [(r.handle, r.off, 32 * r.count)] [] e fun s =>
    (s, some (Result.ok (.epoMap ms r.handle r.off)))

def execEpoMap (c : CmdId) (s : State) : Answer := runOp 0x0601 c s runEpoMap

def Area.blank (n : Nat) : Area :=
  { role := .free, epoch := 0#32, mems := List.replicate n [], counts := [], shadows := List.replicate n none,
    uncorrs := List.replicate n [], corrs := List.replicate n [] }

/-- Where a new epoch handle may be homed, in the order of R144. -/
def homesFor (f : W16) (ddrUp : Bool) : List Home :=
  if flagBit f 0 then [.commons]
  else (if flagBit f 1 then [.hbm] else []) ++ (if flagBit f 2 then (if ddrUp then [.ddr] else [.hbm]) else [])

/-- A copy in `home` of an epoch handle, in the emptiest commons share where it lives on-chip. -/
def entryAlloc (s : State) (p : Part) (k : Nat) (m : MapEntry) (h : W32) (home : Home) : Alloc :=
  let size := shapeBytes m.fmt m.rowCnt m.colCnt
  let tile := if home = .commons then 4 * (p.c0 + if flagBit m.flags 5 then 0 else mostFree (s.commonsFree p) p.n) else 0
  { Alloc.fresh { size := size, flags := m.flags, fmt := m.fmt, rank := 2, dims := [m.rowCnt, m.colCnt], affinity := 0xFF }
      h p.num none home tile with
    dscale := if fmtBlock m.fmt then one32 else m.dscale, role := .epoch k }

/-- Allocates the handle of entry k in the first home with room for its copies. -/
def placeEntry (s : State) (n k : Nat) (m : MapEntry) : Option (State × W32) :=
  match s.part? n with
  | none => none
  | some p =>
    let h := s.newHandle n
    let tries := (homesFor m.flags s.ddrUp).map fun home =>
      ({ s with allocs := s.allocs ++ [entryAlloc s p k m h home] } : State).useFresh
    (tries.find? fun t => t.slicesOk p).map fun t => (t, h)

def placeEntries (s : State) (n : Nat) : Nat → List MapEntry → Option (State × List W32)
  | _, [] => some (s, [])
  | k, m :: r =>
    match placeEntry s n k m with
    | none => none
    | some (t, h) => (placeEntries t n (k + 1) r).map fun (t, hs) => (t, h :: hs)

/-- The BUD_LOADs of a partition that have been dispatched and have not completed, in dispatch order. -/
def State.loadsOf (s : State) (p : Nat) : List Cmd := (s.partCmds p).filter fun k => k.opcode == 0x0603 && k.started

/-- Every interface of a partition (log 25). -/
def State.modIfacesOf (s : State) (n : Nat) (f : Iface → Iface) : State := { s with ifaces := modWhere (·.part == n) f s.ifaces }

/-- A load completes with EPOCH_INCOMPLETE and its report (R268, R273). -/
def incompleteLoad (s : State) (n : Nat) (c : Cmd) : State :=
  let t := (s.endWith c (Result.bare stEPOCH_INCOMPLETE)).modIfacesOf n fun f =>
    { f with loadsIncomplete := satNat32 (f.loadsIncomplete + 1) }
  t.cascade t.cmds.length

/-- The load in progress or waiting, if any, ends incomplete. -/
def endLoad (s : State) (n : Nat) : State :=
  match ((s.part? n).bind (·.epo.load)).bind fun l => s.cmd? l.cmd with
  | some c => incompleteLoad s n c
  | none => s

/-- The old copies and handles go. -/
def dropMap (s : State) (n : Nat) : State :=
  let s := endLoad s n
  let s := { s with allocs := s.allocs.filter fun a => !(a.part == n && a.isEpoch) }
  s.modPart n fun q => { q with epo := { q.epo with areas := [], bud := .free, arrived := [], raw := [], load := none } }

/-- The new handles, in the HANDLE words of the array. -/
def writeHandles (s : State) (n : Nat) (arr : W32) (off : Nat) : Nat → List W32 → State
  | _, [] => s
  | k, h :: r => writeHandles (s.writeBuffer n arr (off + 32 * k + 0x18) (wordBytes h)) n arr off (k + 1) r

def setMap (s : State) (n : Nat) (ms : List MapEntry) (hs : List W32) : State :=
  s.modPart n fun q => { q with epo := { q.epo with map := (ms.zip hs).map fun (m, h) => { m with handle := h } } }

/-- The map is set at commit (R255). -/
def commitEpoMap (s : State) (c : Cmd) (ms : List MapEntry) (arr : W32) (off : Nat) (r : Result) : State × Result :=
  match s.part? (s.cmdPart c.id) with
  | none => (s, Result.badState)
  | some p =>
    if s.mapBusy p c.id then (s, Result.badState)
    else if p.role = roleLearn then
      if ms.all (s.learnEntryOk p.num) then (setMap s p.num (ms.map (s.asWeight p.num)) (ms.map (·.handle)), r) else (s, Result.badState)
    else
      let t := (dropMap s p.num).modPart p.num fun q =>
        { q with epo := { q.epo with areas := List.replicate 2 (Area.blank ms.length) } }
      match placeEntries t p.num 0 ms with
      | none => (s, Result.bare stNO_RESOURCE)
      | some (t, hs) => (writeHandles (setMap t p.num ms hs) p.num arr off 0 hs, r)

/-! ## EPO_GRANT (0x0602): the grants -/

def grantOk (g : List W32) : Bool :=
  let a := g.getD 0 0#32
  let b := (g.getD 1 0#32).toNat
  a &&& 0xC000C000#32 == 0#32 && decide (field a 13 0 ≤ field a 29 16) && (decide (b < 32) || b == 0xFF)

def runEpoGrant (s : State) (c : Cmd) (e : Env) : State × Option Result :=
  let r := c.a 0
  let gs := e.entries r 8
  checked s c [(c.off 0, decide (r.count ≤ 64) && e.arrayOk r 8)] (s.epochIssuer e && gs.all grantOk)
    [(r.handle, r.off, 8 * r.count)] [] e fun s =>
    (s, some (Result.ok (.epoGrant (gs.map fun g => (g.getD 0 0#32, g.getD 1 0#32)))))

def execEpoGrant (c : CmdId) (s : State) : Answer := runOp 0x0602 c s runEpoGrant

def commitEpoGrant (s : State) (p : Nat) (gs : List (W32 × W32)) : State :=
  s.modPart p fun q => { q with epo := { q.epo with grants := gs } }

/-! ## Serving pieces (R259, R260, R265) -/

/-- The grants of a source let a partition of a module fetch. -/
def Epo.lets (e : Epo) (m p : Nat) : Bool :=
  e.grants.any fun (a, b) => decide (field a 13 0 ≤ m) && decide (m ≤ field a 29 16) && (b == 0xFF#32 || b.toNat == p)

/-- The copy with which a partition serves an epoch: none, the weights themselves, or an area. -/
def Part.serving (p : Part) (e : W32) : Option (Option Area) :=
  if p.role = roleLearn then (if p.epo.serves && p.epo.fwdEpoch == e then some none else none)
  else (p.epo.areas.find? fun a => (a.role == .bloom || a.role == .held) && a.epoch == e).map some

/-- The contents of a map entry in the serving copy. -/
def State.served (s : State) (p : Part) (v : Option Area) (k : Nat) : Option Alloc :=
  (p.epo.map[k]?).bind fun m => (s.alloc? p.num m.handle).map fun a => match v with | some v => v.show k a | none => a

/-- Element k of a tensor as a command reads it (spec 03 R475). -/
def Alloc.full (a : Alloc) (k : Nat) : Val := decode32 (a.value k)

/-- The rows of a request that an entry holds with its full column range: first row and count, in model coordinates. -/
def heldRows (r : PieceReq) (m : MapEntry) : Nat × Nat :=
  if m.tensor = r.tensorId ∧ m.colLo ≤ r.colLo ∧ r.colLo + r.colCnt ≤ m.colLo + m.colCnt then
    let lo := max m.rowLo r.rowLo
    (lo, min (m.rowLo + m.rowCnt) (r.rowLo + r.rowCnt) - lo)
  else (r.rowLo, 0)

/-- The entry of a map that holds an element of a tensor: its number and itself. -/
def entryAt (map : List MapEntry) (tensor : W32) (row col : Nat) : Option (Nat × MapEntry) :=
  ((List.range map.length).zip map).find? fun (_, m) => m.tensor == tensor && decide (m.rowLo ≤ row) &&
    decide (row < m.rowLo + m.rowCnt) && decide (m.colLo ≤ col) && decide (col < m.colLo + m.colCnt)

/-- Every column of a row of a request lies in some rectangle of the map (R259, R264). -/
def rowHeld (map : List MapEntry) (r : PieceReq) (row : Nat) : Bool :=
  map.any (fun m => decide (0 < (heldRows { r with rowLo := row, rowCnt := 1 } m).2)) ||
  (List.range r.colCnt).all fun j => (entryAt map r.tensorId row (r.colLo + j)).isSome

/-- The rows of a request that a partition source serves, first row and count: the first run of rows that it holds, and whole
groups of what was asked where the destination's groups run down its rows, since the source converts before it sends
(R265; log 35). -/
def heldPart (map : List MapEntry) (r : PieceReq) : Nat × Nat :=
  match (List.range r.rowCnt).find? fun i => rowHeld map r (r.rowLo + i) with
  | none => (r.rowLo, 0)
  | some i =>
    let lo := r.rowLo + i
    let n := ((List.range (r.rowCnt - i)).takeWhile fun k => rowHeld map r (lo + k)).length
    if fmtRowK r.fmt then
      let lo' := r.rowLo + roundUp (lo - r.rowLo) 32
      (lo', r.rowLo + (lo + n - r.rowLo) / 32 * 32 - lo')
    else (lo, n)

/-- What a source finds for a request. -/
inductive Found where
  | no (a : PieceAnswer)
  | rows (lo n : Nat) (vals : List Val)
deriving DecidableEq, Repr, Inhabited

/-- The bytes of the source that a piece reads. -/
def pieceRange (a : Alloc) (row n : Nat) : List (Nat × Nat) := refRanges a (row * a.cols) (n * a.cols)

/-- The first check unit that reads uncorrectable among those of rows that a source serves, with its tensor. -/
def State.pieceDamage (s : State) (p : Part) (v : Option Area) (r : PieceReq) (lo n : Nat) : Option (Alloc × Nat) :=
  ((List.range p.epo.map.length).zip p.epo.map).findSome? fun (k, m) =>
    let from_ := max lo m.rowLo
    let rows := min (lo + n) (m.rowLo + m.rowCnt) - from_
    if m.tensor ≠ r.tensorId ∨ rows = 0 ∨ m.colLo + m.colCnt ≤ r.colLo ∨ r.colLo + r.colCnt ≤ m.colLo then none
    else
      (s.served p v k).bind fun a =>
        ((pieceRange a (from_ - m.rowLo) rows).findSome? fun (x, y) => (unitsHit a a.uncorr x y).head?).map fun u => (a, u)

/-- A source answers a request (R259): outside its grants REFUSED, another epoch STALE, rows or columns it does not map
NOT_HELD, an uncorrectable read UNREADABLE, else values. -/
def State.findPiece (s : State) (p : Part) (r : PieceReq) : State × Found :=
  if !p.epo.lets r.fromModule r.fromPart then (s, .no .refused)
  else
    match p.serving r.epoch with
    | none => (s, .no .stale)
    | some v =>
      let (lo, n) := heldPart p.epo.map r
      if n = 0 then (s, .no .notHeld)
      else
        let at_ := fun (row col : Nat) => (entryAt p.epo.map r.tensorId row col).bind fun (k, m) =>
          (s.served p v k).map fun a => (a, (row - m.rowLo) * a.cols + (col - m.colLo))
        let cells := (List.range n).flatMap fun i => (List.range r.colCnt).map fun j => at_ (lo + i) (r.colLo + j)
        match s.pieceDamage p v r lo n with
        | some (a, u) =>
          let unit := a.unitAt (s.span p.num) u
          (s.detect { source := readSource a.home unit true, inst := unit, part := some p.num, info := 0, cmd := none }, .no .unreadable)
        | none => (s, .rows lo n (cells.map fun x => (x.map fun (a, k) => a.full k).getD (.num false 0 1)))

/-- An image of rows of a format. -/
def rowImage (fmt : Byte) (dscale : W32) (rows cols : Nat) (bs : List Byte) : Alloc :=
  let v : Alloc := { Alloc.fresh { size := shapeBytes fmt rows cols, flags := 0#16, fmt := fmt, rank := 2, dims := [rows, cols],
                                   affinity := 0xFF } 0#32 0 none .hbm 0 with dscale := dscale }
  { v with mem := Mem.putBytes [] v.dflt 0 bs }

/-- Values converted once into rows of a format, nearest even, NONSAT 0 (R265). -/
def encodeRows (fmt : Byte) (dscale : W32) (rows cols : Nat) (vals : List Val) : List Byte :=
  let v := rowImage fmt dscale rows cols []
  let w := encodeInto v 0 none 0 (vals.map fun _ => none) vals
  ((v.putElems w.elems).putScales w.scales).bytes 0 (shapeBytes fmt rows cols)

/-- Counts bytes served by a partition. -/
def countServed (s : State) (p n : Nat) : State :=
  s.modIfacesOf p fun f => { f with served := sat64 (f.served + n) }

def pieceRequest (s : State) (n : Nat) (r : PieceReq) : State :=
  match s.part? n with
  | none => s
  | some p =>
    if p.fenced || r.fromModule == s.net.moduleId then s
    else
      match s.findPiece p r with
      | (s, .no a) => s.emit (.piece r.fromModule r.fromPart r.epoch r.tensorId r.rowLo r.rowCnt a)
      | (s, .rows lo k vals) =>
        let bs := encodeRows r.fmt r.dscale k r.colCnt vals
        ((countServed s n bs.length).sendMessage n r.fromModule r.fromPart 0 0 false none bs).emit (.piece r.fromModule r.fromPart r.epoch r.tensorId lo k (.data bs))

/-- PIECE_REQUEST_RECEIVE: a request of another module for rows of an epoch. A fenced partition answers nothing. -/
def execPieceRequestReceive (part : Nat) (r : PieceReq) (s : State) : Answer :=
  if s.awake then .next (pieceRequest s.wake part r) else .next s

/-! ## Sources (Table 10-3) -/

/-- A source descriptor: sixteen words. -/
def sourceOf (w : List W32) : Source :=
  { type := w.getD 0 0#32, where_ := w.getD 1 0#32
    addr := netAddr6 w 2
    qpn := (w.getD 6 0#32).toNat, rkey := w.getD 7 0#32
    base := (w.getD 8 0#32).toNat + (w.getD 9 0#32).toNat * 2 ^ 32
    length := (w.getD 10 0#32).toNat + (w.getD 11 0#32).toNat * 2 ^ 32 }

def Source.storage (s : Source) : Bool := field s.type 1 0 == 1
def Source.port (s : Source) : Nat := field s.type 9 8
def Source.module_ (s : Source) : Nat := field s.where_ 13 0
def Source.partition (s : Source) : Nat := field s.where_ 20 16

/-- The reserved fields of a descriptor are zero and its type is defined. -/
def sourceOk (w : List W32) : Bool :=
  let s := sourceOf w
  decide (field s.type 1 0 ≤ 1) && (s.type &&& 0xFFFFFCFC#32 == 0#32) && (s.storage || s.type &&& 0x300#32 == 0#32) &&
  (if s.storage then s.where_ == 0#32 && decide (s.qpn < 2 ^ 24) else s.where_ &&& 0xFFE0C000#32 == 0#32) &&
  (List.range 4).all fun i => w.getD (12 + i) 0#32 == 0#32

/-- The queue pair that a storage descriptor names (spec 14 R365): connected, of the interface, to that address. -/
def State.reachable (s : State) (i : Nat) (d : Source) : Bool :=
  ((s.qp? d.port d.qpn).map fun q => q.iface == i && q.ready && !q.error && q.remoteAddr == d.addr).getD false

/-! ## The destination of a load -/

/-- Entry k of a load with what has arrived: of the bud, or of the provisional copy. -/
def State.dest? (s : State) (p : Part) (k : Nat) : Option Alloc :=
  (p.epo.map[k]?).bind fun m => (s.alloc? p.num m.handle).map fun a =>
    let a := if a.block then a else { a with dscale := m.dscale }
    if p.role = roleLearn then
      match p.epo.load with
      | some l => { a with mem := l.mems.getD k [], uncorr := [], corr := [] }
      | none => a
    else match p.epo.area? .bud with
      | some v => v.show k a
      | none => a

/-- Rows added to those that have arrived, each once. -/
def addRows (l new : List (Nat × Nat)) : List (Nat × Nat) := l ++ new.filter fun r => !l.contains r

/-- What the conversion of rows counted, by first row of a unit: a row, or a group where the groups run down the rows. -/
abbrev RowStats := List (Nat × Stats)

/-- Counts of an entry's rows; a row that is converted again replaces its count (R265). -/
def countRows (l : List (Nat × Nat × Stats)) (k : Nat) (new : RowStats) : List (Nat × Nat × Stats) :=
  (l.filter fun x => !(x.1 == k && new.any fun y => y.1 == x.2.1)) ++ new.map fun y => (k, y.1, y.2)

/-- Puts entry k of a load back, with the check units that were written: an armed injection damages what it selects (spec 06
R166; 15 R402). -/
def State.putDest (s : State) (n k : Nat) (b : Alloc) (rows : List (Nat × Nat)) (new : RowStats) (us : List Nat) : State :=
  let s := s.modPart n fun q =>
    { q with epo := if q.role = roleLearn then
        { q.epo with load := q.epo.load.map fun l => { l with
            mems := l.mems.set k b.mem, counts := countRows l.counts k new, done := addRows l.done rows } }
      else { q.epo.modArea .bud (fun v => { v.keep k b with counts := countRows v.counts k new }) with arrived := addRows q.epo.arrived rows } }
  match s.part? n with
  | some q => s.facing n (q.epo.areas.findIdx? (·.role == .bud)) fun t => if q.role = roleLearn then t else t.strike n b.handle us
  | none => s

/-- Statistics of two parts of a tensor together. -/
def Stats.plus (a b : Stats) : Stats :=
  { elements := a.elements + b.elements, overflowed := a.overflowed + b.overflowed, vanished := a.vanished + b.vanished,
    nans := a.nans + b.nans, amax := if flt a.amax b.amax then b.amax else a.amax }

/-- The statistics of rows that another module converted, which the wire format does not show (log 34). -/
def remoteStats (use n : Nat) : Stats :=
  { elements := n, overflowed := Config.freeCount 120 use, vanished := Config.freeCount 121 use, nans := Config.freeCount 122 use,
    amax := Config.freeWord 3 use }

/-- Rows of an image put into a destination from a row on. -/
def Alloc.copyRows (b img : Alloc) (row rows : Nat) : Alloc :=
  let base := row * b.cols
  let b' := b.putElems ((List.range (rows * b.cols)).map fun k => (base + k, img.pattern k))
  if b.block then
    b'.putScales ((blockGroups b base (rows * b.cols)).map fun (addr, ks) =>
      (addr, Mem.get img.mem img.dflt (img.scaleAddr (ks.headD base - base))))
  else b'

/-- The rows of one conversion unit: a scale group where the groups run down the rows, else one. -/
def Alloc.unitRows (b : Alloc) : Nat := if fmtRowK b.fmt then 32 else 1

/-- Values converted into rows of a destination, a unit at a time, with what each counted (R265). -/
def Alloc.convertRows (b : Alloc) (row : Nat) (vals : List Val) : Alloc × RowStats :=
  let len := b.unitRows * b.cols
  (List.range (if len = 0 then 0 else vals.length / len)).foldl (fun (b, l) u =>
    let vs := (vals.drop (u * len)).take len
    let w := encodeInto b 0 none ((row + u * b.unitRows) * b.cols) (vs.map fun _ => none) vs
    ((b.putElems w.elems).putScales w.scales, l ++ [(row + u * b.unitRows, w.stats)])) (b, [])

/-- The check units of rows. -/
def Alloc.rowUnits (b : Alloc) (row rows : Nat) : List Nat := b.unitsOf (pieceRange b row rows)

/-- The rows' check units are fresh. -/
def Alloc.freshRows (b : Alloc) (row rows : Nat) : Alloc :=
  let hit := fun u => (pieceRange b row rows).any fun (x, y) => decide (u * checkUnit b.home < y) && decide (x < (u + 1) * checkUnit b.home)
  { b with uncorr := b.uncorr.filter fun u => !hit u, corr := b.corr.filter fun u => !hit u }

/-- The rows [row, row + rows) of entry k hold what a piece brought; none of them waits any more. -/
def placeRows (s : State) (n k row rows : Nat) (b : Alloc) (new : RowStats) : State :=
  let s := s.modPart n fun q => { q with epo := { q.epo with
    raw := q.epo.raw.filter fun x => !(x.entry == k && decide (row ≤ x.row) && decide (x.row < row + rows)) } }
  s.putDest n k (b.freshRows row rows) ((List.range rows).map fun i => (k, row + i)) new (b.rowUnits row rows)

/-- Entry k of the waiting rows, by row. -/
def rawOf (raw : List RawRow) (k row : Nat) : Option (List Val) :=
  (raw.find? fun x => x.entry == k && x.row == row).map (·.vals)

/-- The 32 rows of a group, once all of them wait. -/
def rawGroup (raw : List RawRow) (k g : Nat) : Option (List Val) :=
  let vs := (List.range 32).filterMap fun i => rawOf raw k (32 * g + i)
  if vs.length = 32 then some vs.flatten else none

/-- The groups among `gs` that are complete are converted (R62, R265). -/
def convertGroups (raw : List RawRow) (k : Nat) (b : Alloc) (gs : List Nat) : Alloc × List Nat × RowStats :=
  gs.foldl (fun (x : Alloc × List Nat × RowStats) g => match rawGroup raw k g with
    | some vs => let (b, l) := x.1.convertRows (32 * g) vs; (b, x.2.1 ++ [g], x.2.2 ++ l)
    | none => x) (b, [], [])

/-- Rows of a storage object in entry k: converted at once, or kept until their scale group is complete where the groups
run down the rows. -/
def placeValues (s : State) (n k row rows : Nat) (b : Alloc) (vals : List Val) : State :=
  if fmtRowK b.fmt then
    let new := (List.range rows).map fun i => { entry := k, row := row + i, vals := (vals.drop (i * b.cols)).take b.cols : RawRow }
    let old := ((s.part? n).map fun q => q.epo.raw).getD []
    let raw := old.filter (fun x => !new.any fun y => y.entry == x.entry && y.row == x.row) ++ new
    let (b', gs, new') := convertGroups raw k b ((List.range ((row + rows + 31) / 32)).filter fun g => decide (row / 32 ≤ g))
    let b' := gs.foldl (fun (b : Alloc) g => b.freshRows (32 * g) 32) b'
    let s := s.modPart n fun q => { q with epo := { q.epo with
      raw := raw.filter fun x => !(x.entry == k && gs.contains (x.row / 32)) } }
    s.putDest n k b' ((List.range rows).map fun i => (k, row + i)) new' (gs.flatMap fun g => b.rowUnits (32 * g) 32)
  else
    let (b', l) := b.convertRows row vals
    placeRows s n k row rows b' l

/-! ## Asking (R264) -/

/-- Whole rows of a band: at most 2 MiB of the destination format, whole groups where they run along rows. -/
def bandRows (fmt : Byte) (cols : Nat) : Nat :=
  if fmtRowK fmt then 32 * max 1 (2 * mib / shapeBytes fmt 32 cols) else max 1 (2 * mib / shapeBytes fmt 1 cols)

def Asked.covers (a : Asked) (k r : Nat) : Bool := a.entry == k && decide (a.row ≤ r) && decide (r < a.row + a.rows)

/-- The next missing rows that are not asked: entry, first row, count within their band. -/
def nextMissing (map : List MapEntry) (done : List (Nat × Nat)) (asked : List Asked) : Option (Nat × Nat × Nat) :=
  ((List.range map.length).zip map).findSome? fun (k, m) =>
    let free := fun r => !done.contains (k, r) && !asked.any fun a => a.covers k r
    ((List.range m.rowCnt).find? free).map fun r =>
      let b := bandRows m.fmt m.colCnt
      let top := min m.rowCnt ((r / b + 1) * b)
      (k, r, ((List.range (top - r)).takeWhile fun i => free (r + i)).length)

/-- Counts a refused or unanswered request. -/
def countRefused (s : State) (n : Nat) : State :=
  s.modIfacesOf n fun f => { f with srcRefused := satNat32 (f.srcRefused + 1) }

def noteAsked (s : State) (n : Nat) (a : Asked) : State :=
  s.modPart n fun q => { q with epo := { q.epo with load := q.epo.load.map fun l => { l with asked := l.asked ++ [a] } } }

/-- The rows that are asked of a partition: whole groups where the groups of the entry run down its rows (log 35). -/
def State.wholeGroups (s : State) (n k row rows : Nat) : Nat × Nat :=
  if (((s.part? n).bind fun p => p.epo.map[k]?).map fun m => fmtRowK m.fmt).getD false then
    (row / 32 * 32, roundUp (row + rows) 32 - row / 32 * 32)
  else (row, rows)

/-- A request to a partition of another module, which goes over the links and flows of the partition (R275; spec 14 R477): its
words (log 23). -/
def requestWords (s : State) (n : Nat) (l : Load) (k row rows : Nat) : List W32 :=
  match (s.part? n).bind fun p => p.epo.map[k]? with
  | some m => [BitVec.ofNat 32 (s.net.moduleId + n * 2 ^ 16), l.epoch, m.tensor, BitVec.ofNat 32 (m.rowLo + row), BitVec.ofNat 32 rows,
      BitVec.ofNat 32 m.colLo, BitVec.ofNat 32 m.colCnt, BitVec.ofNat 32 m.fmt.toNat, m.dscale]
  | none => []

/-- Asks the sources from the ith on: skipped ones are passed, unreachable ones count as refused (R264; 14 R365). Past the
list, the rows wait for their retry. -/
def askFrom (s : State) (n : Nat) (l : Load) (k row rows : Nat) : Nat → Nat → State
  | 0, i => noteAsked s n { entry := k, row := row, rows := rows, source := i, at_ := s.clk.localUs }
  | fuel + 1, i =>
    match l.sources[i]? with
    | none => noteAsked s n { entry := k, row := row, rows := rows, source := i, at_ := s.clk.localUs }
    | some d =>
      if l.skipped.contains i then askFrom s n l k row rows fuel (i + 1)
      else if d.storage && !s.reachable l.cmd.iface d then askFrom (countRefused s n) n l k row rows fuel (i + 1)
      else
        let (row, rows) := if d.storage then (row, rows) else s.wholeGroups n k row rows
        let s := noteAsked s n { entry := k, row := row, rows := rows, source := i, at_ := s.clk.localUs }
        if d.storage then s.emit (.askPiece d l.epoch k row rows)
        else if d.module_ = s.net.moduleId then s
        else (s.sendMessage n d.module_ d.partition 0 0 false (some l.cmd) (wordsBytes (requestWords s n l k row rows))).emit
          (.askPiece d l.epoch k row rows)

def ask (s : State) (n : Nat) (k row rows i : Nat) : State :=
  match (s.part? n).bind (·.epo.load) with
  | some l => if rows = 0 then s else askFrom s n l k row rows (l.sources.length - i) i
  | none => s

/-- The rows that a load in progress has. -/
def Part.loaded (p : Part) : List (Nat × Nat) :=
  if p.role = roleLearn then (p.epo.load.map (·.done)).getD [] else p.epo.arrived

/-- The weight distributor serves the loads of the module in the order in which they began to fetch (spec 01 R17). -/
def State.joinLoads (s : State) (c : CmdId) : State :=
  if s.shared.loads.contains c then s else { s with shared := { s.shared with loads := s.shared.loads ++ [c] } }

/-- The load at the front of the distributor's queue asks, one request at a time: the next missing rows, of the list from its
start. -/
def pump (s : State) (n : Nat) : State :=
  match (s.part? n).bind fun p => p.epo.load.map fun l => (p, l) with
  | none => s
  | some (p, l) =>
    let s := if p.role = roleLearn ∨ p.epo.bud = .loading then s.joinLoads l.cmd else s
    if (p.role = roleLearn ∨ p.epo.bud = .loading) ∧ s.shared.loads.head? = some l.cmd ∧
        l.asked.all (fun a => decide (l.sources.length ≤ a.source)) = true then
      match nextMissing p.epo.map p.loaded l.asked with
      | some (k, r, m) => ask s n k r m 0
      | none => s
    else s

/-! ## READY (R163, R267, R274) -/

/-- Entry k of the bud has a shadow. -/
def Alloc.shadowed (a : Alloc) : Bool := a.shadow4 && a.home == .ddr

/-- Rows of the bud that read uncorrectable while a shadow is built. -/
def State.spoiltRows (s : State) (p : Part) : List (Nat × Nat) :=
  ((List.range p.epo.map.length).zip p.epo.map).flatMap fun (k, m) =>
    match s.dest? p k with
    | some b => if b.shadowed then ((List.range m.rowCnt).filter fun r =>
        (if fmtRowK b.fmt then pieceRange b (r / 32 * 32) 32 else pieceRange b r 1).any fun (x, y) =>
          !(unitsHit b b.uncorr x y).isEmpty).map fun r => (k, r) else []
    | none => []

/-- The shadows of a complete bud. -/
def State.budShadows (s : State) (p : Part) : List (Option Shadow) :=
  (List.range p.epo.map.length).map fun k => (s.dest? p k).bind fun b => if b.shadowed then some b.buildShadow else none

/-- Every row has arrived. -/
def Part.complete (p : Part) : Bool := decide (sumBy (·.rowCnt) p.epo.map ≤ p.loaded.length)

/-- What the conversions of entry k counted. -/
def countsOf (l : List (Nat × Nat × Stats)) (k : Nat) : Stats :=
  (l.filter (·.1 == k)).foldl (fun t x => t.plus x.2.2) Stats.zero

/-- The counts of a bud enter the statistics of the entries (R265). -/
def budStats (s : State) (p : Part) : State :=
  let l := ((p.epo.area? .bud).map (·.counts)).getD []
  ((List.range p.epo.map.length).zip p.epo.map).foldl (fun s (k, m) => s.modAlloc p.num m.handle fun a => { a with stats := countsOf l k }) s

/-- A load ends its turn at the distributor, and the next one asks. -/
def State.endFetch (s : State) (c : CmdId) : State :=
  { s with shared := { s.shared with loads := s.shared.loads.filter (· != c) } }

/-- What a complete load commits of itself: its conversions enter the format counters of its interface (spec 03 R79), as writes
of no allocation. -/
def loadedResult (map : List MapEntry) (l : List (Nat × Nat × Stats)) : Result :=
  { Result.ok .budLoad with writes := ((List.range map.length).zip map).map fun (k, m) =>
      { handle := 0#32, elems := [], scales := [], stats := countsOf l k, dscale := none, count := some (fmtCode m.fmt) } }

/-- A complete load becomes ready to commit; a complete bud is READY. -/
def checkReady (s : State) (n : Nat) : State :=
  match (s.part? n).bind fun p => p.epo.load.map fun l => (p, l) with
  | none => s
  | some (p, l) =>
    if !p.complete then s
    else if p.role = roleLearn then (s.endFetch l.cmd).markReady l.cmd (loadedResult p.epo.map l.counts)
    else if p.epo.bud ≠ .loading then s
    else
      let bad := s.spoiltRows p
      if !bad.isEmpty then
        s.modPart n fun q => { q with epo := { q.epo with arrived := q.epo.arrived.filter fun r => !bad.contains r } }
      else
        let sh := s.budShadows p
        (((budStats s p).endFetch l.cmd).modPart n fun q => { q with epo := { q.epo.modArea .bud (fun v => { v with shadows := sh }) with
          bud := .ready, load := none } }).markReady l.cmd
          (loadedResult p.epo.map (((p.epo.area? .bud).map (·.counts)).getD []))

/-- After rows have arrived, been refused or timed out. -/
def advanceLoad (s : State) (n : Nat) : State := pump (checkReady s n) n

/-! ## BUD_LOAD (0x0603): E, DEADLINE, EXTRA, SOURCES, REPORT -/

/-- The bud's area becomes free; its rows are dropped. -/
def Epo.discardBud (e : Epo) : Epo :=
  { (e.modArea .bud fun a => { a with role := .free }) with bud := .free, arrived := [], raw := [] }

/-- A free area becomes the bud of an epoch, with no rows. -/
def Epo.takeFree (e : Epo) (epoch : W32) : Epo :=
  let i := (e.areas.findIdx? (·.role == .free)).getD 0
  { e with areas := e.areas.set i { Area.blank e.map.length with role := .bud, epoch := epoch }
           bud := .loading, budEpoch := epoch, arrived := [], raw := [] }

/-- A load takes its area (R262): its own PARTIAL bud, a free area, a third where EXTRA asks and the slices have room; else
it waits. -/
def acquire (s : State) (n : Nat) : State :=
  match (s.part? n).bind fun p => p.epo.load.map fun l => (p, l) with
  | none => s
  | some (p, l) =>
    if p.role = roleLearn ∨ p.epo.bud = .loading ∨ p.epo.bud = .pending then s
    else if p.epo.bud = .partial_ ∧ p.epo.budEpoch = l.epoch then
      s.modPart n fun q => { q with epo := { q.epo with bud := .loading } }
    else
      let e := if p.epo.bud = .waitArea then p.epo else p.epo.discardBud
      if e.hasArea .free then s.modPart n fun q => { q with epo := e.takeFree l.epoch }
      else
        let e3 := { e with areas := e.areas ++ [Area.blank e.map.length] }
        if l.extra && e.areas.length == 2 && s.slicesOk { p with epo := e3 } then
          s.modPart n fun q => { q with epo := e3.takeFree l.epoch }
        else s.modPart n fun q => { q with epo := { e with bud := .waitArea, budEpoch := l.epoch } }

/-- The sources of a load, as its first dispatch read them. -/
def loadSources (c : Cmd) (e : Env) : List Source := (e.entries (c.a 3) 64).map sourceOf

def newLoad (c : Cmd) (e : Env) : Load :=
  let n := e.part.epo.map.length
  { cmd := c.id, epoch := c.w 0, start := c.startUs, deadline := c.startUs + 1000 * c.n 1, extra := c.n 2 == 1,
    sources := loadSources c e, report := c.w 4, skipped := c.failedReads, asked := [],
    mems := List.replicate n [], counts := [], done := [] }

def loadFields (c : Cmd) (e : Env) : List Check :=
  [ (c.off 1, decide (1 ≤ c.n 1) && decide (c.n 1 ≤ 65535)), (c.off 2, decide (c.n 2 < 2)),
    (c.off 3, decide (1 ≤ (c.a 3).count) && decide ((c.a 3).count ≤ 16) && e.arrayOk (c.a 3) 64),
    (c.off 4, e.bufferOk (c.w 4) 0 (16 * e.part.epo.map.length)) ]

/-- Another load of the partition was dispatched before and is unfinished (R263). -/
def State.loadBefore (s : State) (p : Nat) (c : Cmd) : Bool := (s.loadsOf p).any fun k => k.id != c.id && decide (k.disp < c.disp)

/-- The load begins once no other runs. -/
def beginLoad (s : State) (c : Cmd) (e : Env) : State × Option Result :=
  match s.part? e.part.num with
  | none => (s, none)
  | some p =>
    if (p.epo.load.map (·.cmd)) = some c.id then (pump s p.num, none)
    else if p.epo.load.isSome || s.loadBefore p.num c then (s, none)
    else if p.role ≠ roleLearn ∧ (p.epo.bud = .ready ∨ p.epo.bud = .pending) ∧ p.epo.budEpoch = c.w 0 then
      (s, some (Result.bare stALREADY_DONE))
    else if p.epo.bud = .pending then (s, none)
    else
      let t := s.modPart p.num fun q => { q with epo := { q.epo with
        load := some (newLoad c e), raw := if q.role = roleLearn then [] else q.epo.raw } }
      if p.role = roleLearn ∧ (t.part? p.num).all (fun q => !t.slicesOk q) = true then (s, some (Result.bare stNO_RESOURCE))
      else (advanceLoad (acquire (t.modCmd c.id fun k => { k with begun := true }) p.num) p.num, none)

def runBudLoad (s : State) (c : Cmd) (e : Env) : State × Option Result :=
  let ok := s.epochIssuer e && (e.entries (c.a 3) 64).all sourceOk &&
    (e.part.role == roleLearn || (((s.part? e.part.num).bind (·.bloomEpoch)) != some (c.w 0)))
  let r := c.a 3
  if c.stage ≠ 0 then beginLoad s c e
  else
    checked s c (loadFields c e) ok [(r.handle, r.off, 64 * r.count)] [] e fun s =>
      if (loadSources c e).any fun d => d.storage && !s.portFitted d.port then (s, some (Result.bare stUNSUPPORTED))
      else
        beginLoad (s.modCmd c.id fun k => { k with stage := 1 }) { c with stage := 1 } e

/-- `markReady` of a complete load is not repeated: a load that is ready has left the dispatched phase. -/
def execBudLoad (c : CmdId) (s : State) : Answer := runOp 0x0603 c s runBudLoad

/-- BUD_AREA_ACQUIRE: a load that waits takes an area that has freed. -/
def budAreaAcquire (s : State) (n : Nat) : State :=
  if (s.part? n).any (fun p => p.epo.bud == .waitArea && p.epo.load.isSome) then advanceLoad (acquire s n) n else s

def execBudAreaAcquire (part : Nat) (s : State) : Answer := if s.awake then .next (budAreaAcquire s part) else .next s

/-- The deadline of a load that is not ready has passed (R268). -/
def State.loadExpired (s : State) (c : Cmd) : Bool :=
  (match c.phase with | .ready _ => false | _ => true) && c.started && decide (c.startUs + 1000 * c.n 1 ≤ s.clk.localUs)

/-- BUD_DEADLINE_EXPIRY: the earliest expired load completes with EPOCH_INCOMPLETE. -/
def budDeadline (s : State) (n : Nat) : State :=
  match minBy (·.disp) ((s.loadsOf n).filter s.loadExpired) with
  | some c => incompleteLoad s.wake n c
  | none => s

def execBudDeadlineExpiry (part : Nat) (s : State) : Answer :=
  if s.windowUp then .next (budDeadline s part).noteSched else .next s

/-- The commit of a learner's load (R274): the weight, then its master, decoded exactly to FP32. -/
def commitLearnEntry (s : State) (n i : Nat) (epoch : W32) (l : Load) (x : Option LearnPlan) (k : Nat) (m : MapEntry) : State :=
  let us := ((s.alloc? n m.handle).map fun a => a.unitsOf [(0, a.size)]).getD []
  let s := s.modAlloc n m.handle fun a =>
    let b := { a with mem := l.mems.getD k [], stats := countsOf l.counts k, version := a.version + 1, epoch := epoch
                      dscale := if a.block then a.dscale else m.dscale, uncorr := [], corr := [] }
    (b.reshadow.queueBlocks (List.range b.blockCount) (some epoch))
  let s := ((s.strike n m.handle us).strikeShadow n m.handle).unstage n m.handle
  match s.alloc? n m.handle, (x.bind fun p => p.entries.find? (·.weight == m.handle)).bind fun e => s.alloc? n e.master with
  | some w, some a => s.commitWrites n i [encodeInto a 0 none 0 (List.replicate a.elements none) ((List.range a.elements).map w.full)]
  | _, _ => s

def commitBudLoad (s : State) (c : Cmd) : State :=
  match s.part? (s.cmdPart c.id) with
  | none => s
  | some p =>
    match (if p.role = roleLearn then p.epo.load else none) with
    | none => s
    | some l =>
      let x := (s.partCtxs p.num).findSome? (·.learn)
      let s := ((List.range p.epo.map.length).zip p.epo.map).foldl (fun s (k, m) =>
        commitLearnEntry s p.num c.id.iface l.epoch l x k m) s
      s.modPart p.num fun q => { q with epo := { q.epo with load := none, fwdEpoch := l.epoch, serves := true } }

/-! ## Arrivals (R264 to R267) -/

/-- The request of a load for rows of an entry, as a source of this module sees it. -/
def localRequest (s : State) (p : Part) (l : Load) (m : MapEntry) (row rows : Nat) : PieceReq :=
  { fromModule := s.net.moduleId, fromPart := p.num, epoch := l.epoch, tensorId := m.tensor, rowLo := m.rowLo + row,
    rowCnt := rows, colLo := m.colLo, colCnt := m.colCnt, fmt := m.fmt, dscale := m.dscale }

/-- A local source's answer: the rows placed and their range within the entry, or a refusal. A fenced one does not
answer. -/
def localPiece (s : State) (p : Part) (l : Load) (a : Asked) (d : Source) (m : MapEntry) (b : Alloc) :
    Option (State × Option (Nat × Nat)) :=
  match s.part? d.partition with
  | none => none
  | some q =>
    if q.fenced then none
    else
      match s.findPiece q (localRequest s p l m a.row a.rows) with
      | (s, .no _) => some (s, none)
      | (s, .rows lo n vals) =>
        let row := lo - m.rowLo
        let (b', l) := b.convertRows row vals
        some (countServed (placeRows s p.num a.entry row n b' l) q.num (shapeBytes b.fmt n b.cols), some (row, n))

/-- A remote partition's answer. Rows outside the request, or of another length, are no answer. -/
def remotePiece (s : State) (p : Part) (a : Asked) (x : Piece) (b : Alloc) : Option (State × Option (Nat × Nat)) :=
  match x.answer with
  | .data bs =>
    if a.row ≤ x.row ∧ x.row + x.rows ≤ a.row + a.rows ∧ 0 < x.rows ∧ bs.length = shapeBytes b.fmt x.rows b.cols ∧
        (fmtRowK b.fmt = false ∨ (x.row % 32 = 0 ∧ x.rows % 32 = 0)) then
      let img := rowImage b.fmt b.dscale x.rows b.cols bs
      let units := (List.range (x.rows / b.unitRows)).map fun u =>
        (x.row + u * b.unitRows, remoteStats (s.fresh * 2 ^ 32 + u) (b.unitRows * b.cols))
      some ((placeRows s p.num a.entry x.row x.rows (b.copyRows img x.row x.rows) units).useFresh, some (x.row, x.rows))
    else none
  | .object _ _ _ => none
  | .stale => some (s, none)
  | .notHeld => some (s, none)
  | .refused => some (s, none)
  | .unreadable => some (s, none)

/-! ## Storage objects (spec 13 R348, R349) -/

/-- What a load reads of a shard header: format, tensor, rectangle, decode scale, data bytes. -/
structure Header where
  fmt : Byte
  tensor : W32
  rowLo : Nat
  rowCnt : Nat
  colLo : Nat
  colCnt : Nat
  dscale : W32
  bytes : Nat
deriving DecidableEq, Repr, Inhabited

def headerMagic : W32 := 0x4B435153#32

def headerOf (w : List W32) : Header :=
  { fmt := BitVec.ofNat 8 (field (w.getD 1 0#32) 23 16), tensor := w.getD 7 0#32, rowLo := (w.getD 9 0#32).toNat,
    rowCnt := (w.getD 10 0#32).toNat, colLo := (w.getD 11 0#32).toNat, colCnt := (w.getD 12 0#32).toNat,
    dscale := w.getD 13 0#32, bytes := (w.getD 14 0#32).toNat + (w.getD 15 0#32).toNat * 2 ^ 32 }

/-- The decode scale of an object: none is 1.0 (block-scaled formats). -/
def Header.scale (h : Header) : W32 := if fmtBlock h.fmt then one32 else h.dscale

/-- A header that an object of a tensor can have. -/
def headerSane (w : List W32) : Bool :=
  let h := headerOf w
  w.getD 0 0#32 == headerMagic && fmtOk h.fmt && kExtentOk h.fmt 2 [h.rowCnt, h.colCnt] &&
  h.bytes == shapeBytes h.fmt h.rowCnt h.colCnt && (fmtBlock h.fmt || posNormal h.dscale)

/-- The first row of the group that a row of an object lies in. -/
def Header.groupRow (h : Header) (r : Nat) : Nat := if fmtRowK h.fmt then r / 32 * 32 else r

/-- Rows [r, r + n) of an object as a tensor that starts at their group: the bytes of the rows and of their scales. -/
def objectImage (h : Header) (r n : Nat) (elems scales : List Byte) : Alloc :=
  let g := h.groupRow r
  let rows := if fmtRowK h.fmt then roundUp (r + n - g) 32 else n
  let v := rowImage h.fmt h.scale rows h.colCnt []
  { v with mem := Mem.putBytes (Mem.putBytes [] v.dflt ((r - g) * rowBytes h.fmt h.colCnt) elems) v.dflt v.scaleBase scales }

/-- The bytes of the scales of rows [r, r + n) of an object. -/
def Header.scaleBytes (h : Header) (r n : Nat) : Nat :=
  if !fmtBlock h.fmt then 0
  else if fmtRowK h.fmt then (roundUp (r + n - h.groupRow r) 32) / 32 * h.colCnt
  else n * (h.colCnt / 32)

/-- A storage object's answer: read by the distributor, and converted by it. An object that does not hold the rows with
their full column range is NOT_HELD. -/
def objectPiece (s : State) (p : Part) (a : Asked) (x : Piece) (m : MapEntry) (b : Alloc) : Option (State × Option (Nat × Nat)) :=
  match x.answer with
  | .object hw elems scales =>
    let h := headerOf hw
    let req : PieceReq := { fromModule := 0, fromPart := 0, epoch := 0#32, tensorId := m.tensor, rowLo := m.rowLo + a.row,
                            rowCnt := a.rows, colLo := m.colLo, colCnt := m.colCnt, fmt := m.fmt, dscale := m.dscale }
    let (lo, n) := heldRows req { m with tensor := h.tensor, rowLo := h.rowLo, rowCnt := h.rowCnt, colLo := h.colLo, colCnt := h.colCnt }
    if !headerSane hw || n == 0 then some (s, none)
    else
      let r := lo - h.rowLo
      if elems.length = n * rowBytes h.fmt h.colCnt ∧ scales.length = h.scaleBytes r n then
        let img := objectImage h r n elems scales
        let vals := (List.range n).flatMap fun i => (List.range m.colCnt).map fun j =>
          img.full ((r - h.groupRow r + i) * h.colCnt + (m.colLo - h.colLo) + j)
        let row := lo - m.rowLo
        some (placeValues s p.num a.entry row n b vals, some (row, n))
      else none
  | .data _ => none
  | .stale => some (s, none)
  | .notHeld => some (s, none)
  | .refused => some (s, none)
  | .unreadable => some (s, none)

/-- A request is answered: it is no longer outstanding. -/
def dropAsked (s : State) (n : Nat) (a : Asked) : State :=
  s.modPart n fun q => { q with epo := { q.epo with load := q.epo.load.map fun l => { l with asked := l.asked.filter (· != a) } } }

/-- After an answer: the rows it did not bring are asked of the next source. -/
def afterAnswer (s : State) (n : Nat) (a : Asked) (got : Option (Nat × Nat)) : State :=
  let s := dropAsked s n a
  match got with
  | some (row, k) =>
    advanceLoad (ask (ask s n a.entry a.row (row - a.row) (a.source + 1)) n a.entry (row + k) (a.row + a.rows - (row + k)) (a.source + 1)) n
  | none => advanceLoad (ask (countRefused s n) n a.entry a.row a.rows (a.source + 1)) n

/-- The request that an arrival answers. -/
def Load.askedFor (l : Load) (x : Piece) : Option Asked :=
  l.asked.find? fun a => a.covers x.entry x.row && decide (a.source < l.sources.length)

/-- PIECE_ARRIVAL. A piece for another epoch, or that nothing asked for, is dropped (R269). -/
def pieceArrival (s : State) (n : Nat) (x : Piece) : State :=
  match (s.part? n).bind fun p => p.epo.load.map fun l => (p, l) with
  | none => s
  | some (p, l) =>
    if x.epoch ≠ l.epoch ∨ (p.role ≠ roleLearn ∧ p.epo.bud ≠ .loading) then s
    else
      match l.askedFor x with
      | none => s
      | some a =>
        match l.sources[a.source]?, p.epo.map[a.entry]?, s.dest? p a.entry with
        | some d, some m, some b =>
          match (if d.storage then objectPiece s p a x m b
            else if d.module_ = s.net.moduleId then localPiece s p l a d m b
            else remotePiece s p a x b) with
          | none => s
          | some (t, got) => afterAnswer t n a got
        | _, _, _ => s

def execPieceArrival (part : Nat) (p : Piece) (s : State) : Answer :=
  if s.awake then .next (pieceArrival s part p).noteSched else .next s

/-- PIECE_RETRY: rows that every source refused are asked again 100 µs later, from the start of the list. -/
def pieceRetry (s : State) (n : Nat) : State :=
  match (s.part? n).bind (·.epo.load) with
  | none => s
  | some l =>
    match l.asked.find? fun a => decide (l.sources.length ≤ a.source) && decide (a.at_ + 100 ≤ s.clk.localUs) with
    | some a => ask (dropAsked s n a) n a.entry a.row a.rows 0
    | none => s

def execPieceRetry (part : Nat) (s : State) : Answer := if s.awake then .next (pieceRetry s part) else .next s

/-- A source that did not answer is skipped for the rest of the load, over its re-runs too. -/
def skipSource (s : State) (n : Nat) (l : Load) (i : Nat) : State :=
  (s.modPart n fun q => { q with epo := { q.epo with load := q.epo.load.map fun l => { l with skipped := addOnce i l.skipped } } }).modCmd
    l.cmd fun k => { k with failedReads := addOnce i k.failedReads }

/-- PIECE_REQUEST_TIMEOUT: a request without an answer for 1 ms counts as refused. -/
def pieceTimeout (s : State) (n : Nat) : State :=
  match (s.part? n).bind (·.epo.load) with
  | none => s
  | some l =>
    match l.asked.find? fun a => decide (a.source < l.sources.length) && decide (a.at_ + 1000 ≤ s.clk.localUs) with
    | some a => afterAnswer (skipSource s n l a.source) n a none
    | none => s

def execPieceRequestTimeout (part : Nat) (s : State) : Answer :=
  if s.awake then .next (pieceTimeout s part).noteSched else .next s

/-! ## BUD_PUBLISH (0x0604): E -/

/-- What a publish of an epoch comes to (R270). -/
def publishResult (s : State) (n : Nat) (e : W32) : Result :=
  match s.part? n with
  | none => Result.badState
  | some p =>
    let holds := p.epo.bud ≠ .free ∧ p.epo.budEpoch = e
    if holds then
      match p.epo.bud with
      | .ready => Result.ok (.budPublish e)
      | .pending => Result.bare stALREADY_DONE
      | _ => Result.bare stEPOCH_INCOMPLETE
    else if p.bloomEpoch = some e then Result.bare stALREADY_DONE
    else Result.badState

def runBudPublish (s : State) (c : Cmd) (e : Env) : State × Option Result :=
  checked s c [] (s.epochIssuer e) [] [] e fun s => (s, some (publishResult s e.part.num (c.w 0)))

def execBudPublish (c : CmdId) (s : State) : Answer := runOp 0x0604 c s runBudPublish

/-- The publish is registered. The first one, and one of a PREFILL partition, takes effect now (R270, R272). -/
def commitBudPublish (s : State) (c : Cmd) (e : W32) (r : Result) : State × Result :=
  let n := s.cmdPart c.id
  let now := publishResult s n e
  if now.status ≠ stOK then (s, now)
  else
    let s := s.modPart n fun q => { q with epo := { q.epo with bud := .pending } }
    match s.part? n with
    | none => (s, r)
    | some p => (if p.epo.hasArea .bloom && p.role != rolePrefill then s else s.epochSwitch n, r)

/-- PREFILL_SWITCH: a switch that waited for a held copy takes place once that copy is free. -/
def prefillSwitch (s : State) (n : Nat) : State :=
  match s.part? n with
  | some p => if p.role = rolePrefill then (s.settleHeld n).epochSwitch n else s
  | none => s

def execPrefillSwitch (part : Nat) (s : State) : Answer := if s.awake then .next (prefillSwitch s part) else .next s

/-! ## BUD_DISCARD (0x0605) -/

def runBudDiscard (s : State) (c : Cmd) (e : Env) : State × Option Result :=
  checked s c [] (s.epochIssuer e) [] [] e fun s =>
    match (s.part? e.part.num).map (fun p : Part => p.epo.bud) with
    | some .pending => (s, some (Result.bare stALREADY_DONE))
    | some .free => (s, some (Result.bare stOK))
    | _ => (s, some (Result.ok .budDiscard))

def execBudDiscard (c : CmdId) (s : State) : Answer := runOp 0x0605 c s runBudDiscard

/-- The bud goes, and the load with it (R273). -/
def commitBudDiscard (s : State) (c : Cmd) (r : Result) : State × Result :=
  let n := s.cmdPart c.id
  if (s.part? n).any (·.epo.bud == .pending) then (s, Result.bare stALREADY_DONE)
  else ((endLoad s n).modPart n fun q => { q with epo := q.epo.discardBud.trim }, r)

end Sys2Proof.Machine
end

