-- ==== Sys2Proof/Machine/Checkpoint.lean ====
section
/-!
DEFINITION. Checkpoint and restore: plans and shards, snapshots, draining with the copy-on-write reserve, manifests,
restores and status (spec 13).
-/
namespace Sys2Proof.Machine

/-! ## Reads of storage over queue pairs (spec 14 R363, R365) -/

/-- Asks for `len` bytes at an offset of a storage region; an unreachable region counts as a read that failed. -/
def State.qpRead (s : State) (c : CmdId) (d : Source) (off len tag : Nat) : State :=
  if s.reachable c.iface d then
    s.postWork d.port d.qpn { work := .read c tag, addr := d.base + off, rkey := d.rkey, len := len, bytes := [] }
  else s.modCmd c fun k => { k with failedReads := addOnce tag k.failedReads }

/-- A read asked for, by tag: what to read. -/
structure Want where
  tag : Nat
  source : Source
  off : Nat
  len : Nat
deriving DecidableEq, Repr, Inhabited

/-- Begins a phase of a command: its reads are issued. -/
def State.beginReads (s : State) (c : CmdId) (stage : Nat) (ws : List Want) : State :=
  ws.foldl (fun s w => s.qpRead c w.source w.off w.len w.tag) (s.modCmd c fun k => { k with stage := stage })

/-- Every read of a phase has been answered or has failed. -/
def Cmd.answered (c : Cmd) (ws : List Want) : Bool := ws.all fun w => c.failedReads.contains w.tag || c.reads.any (·.1 == w.tag)

/-- The words of an answer; none when the read failed. -/
def Cmd.readBytes (c : Cmd) (tag : Nat) : Option (List Byte) :=
  if c.failedReads.contains tag then none else (c.reads.find? (·.1 == tag)).map (·.2)

def Cmd.readWords (c : Cmd) (tag n : Nat) : Option (List W32) := (c.readBytes tag).map (bytesWords n)

/-! ## The division into shards (R333) -/

/-- The length of a context record for T tiles (Table 13-2). -/
def recordGen (t : Nat) : Nat := roundUp (16 + 288 * t) 4096
def ctxRecordBytes (t : Nat) : Nat := recordGen t + 65536 * t + 4096 + 4 * 4128

/-- Rows of a band. -/
def shardRows (fmt : Byte) (cols mibs : Nat) : Nat :=
  if fmtRowK fmt then 32 * max 1 (mibs * mib / (32 * rowBytes fmt cols)) else max 1 (mibs * mib / rowBytes fmt cols)

/-- The shards of plan entry k, of `fmt`. -/
def entryShards (k : Nat) (m : MapEntry) (fmt : Byte) (mibs : Nat) : List Shard :=
  let b := shardRows fmt m.colCnt mibs
  (List.range ((m.rowCnt + b - 1) / b)).map fun i =>
    let n := min b (m.rowCnt - i * b)
    { ctx := none, entry := k, row := i * b, rows := n, bytes := 64 + shapeBytes fmt n m.colCnt }

/-- All shards of a plan, context records last. -/
def divide (plan : List MapEntry) (fmts : List Byte) (ctxs : List Nat) (mibs tiles : Nat) : List Shard :=
  (((List.range plan.length).zip (plan.zip fmts)).flatMap fun (k, m, f) => entryShards k m f mibs) ++
  ctxs.map fun x => { ctx := some x, entry := 0, row := 0, rows := 0, bytes := 64 + ctxRecordBytes tiles }

/-- Where each shard lies in a set: region and offset from its BASE. Shard j lies in region j mod R, at the first 4 KiB
boundary after the shard before it. -/
def layoutFromShard (rs : List Source) : Nat → List Nat → List Shard → List (Nat × Nat)
  | _, _, [] => []
  | j, ends, h :: t =>
    let r := j % (if rs.length = 0 then 1 else rs.length)
    let e := ends.getD r 0
    let base := (rs.getD r default).base
    let off := if e = 0 then 0 else roundUp (base + e) 4096 - base
    (r, off) :: layoutFromShard rs (j + 1) (ends.set r (off + h.bytes)) t

def setLayout (rs : List Source) (shards : List Shard) : List (Nat × Nat) :=
  layoutFromShard rs 0 (List.replicate rs.length 0) shards

/-- A set holds every shard within its regions' lengths. -/
def setFits (rs : List Source) (shards : List Shard) : Bool :=
  ((setLayout rs shards).zip shards).all fun ((r, off), h) => decide (off + h.bytes ≤ (rs.getD r default).length)

/-! ## CKP_CONFIG (0x0901): PLAN, CONTEXTS, SETS, four sets of regions, RESERVE, SHARD_MIB, TRIG_STEP, TRIG_MS, EVENT -/

/-- Set k of a packet: its shard regions, then its manifest region. -/
def ckpSet (c : Cmd) (e : Env) (k : Nat) : List (List W32) := e.entries (c.a (3 + k)) 64

def splitSet (ws : List (List W32)) : List Source × Source :=
  ((ws.take (ws.length - 1)).map sourceOf, sourceOf (ws.getD (ws.length - 1) []))

/-- A host port that an interface and its partition may use. -/
def mayUsePort (f : Iface) (p : Part) (port : Nat) : Bool := f.ports / 2 ^ port % 2 == 1 && p.host / 2 ^ port % 2 == 1

/-- A rectangle has the shape of its allocation: as many elements, and scale groups that coincide (log 56). -/
def rectangleOk (a : Alloc) (m : MapEntry) : Bool :=
  m.rowCnt * m.colCnt == a.elements && kExtentOk a.fmt 2 [m.rowCnt, m.colCnt] && (!fmtRowK a.fmt || m.colCnt == a.cols)

/-- A planned allocation: COW_ELIGIBLE, an ordinary allocation, of as many elements as its rectangle (R332). -/
def ckpEntryOk (e : Env) (w : List W32) : Bool :=
  let m := mapEntryOf w
  match e.firstAlloc? m.handle with
  | none => false
  | some a => a.cow && (match a.role with | .plain => true | _ => false) && rectangleOk a m

def distinctHandles : List MapEntry → Bool
  | [] => true
  | a :: r => r.all (fun b => b.handle != a.handle) && distinctHandles r

def planOk (e : Env) (ws : List (List W32)) : Bool :=
  ws.all (ckpEntryOk e) && distinctHandles (ws.map mapEntryOf) && pairwiseApart (ws.map mapEntryOf)

/-- The contexts named are of the partition. -/
def State.ctxsOk (s : State) (p : Nat) (xs : List Nat) : Bool := xs.all fun x => ((s.ctx? x).map (·.part == p)).getD false

structure CkpParams where
  plan : List MapEntry
  ctxs : List Nat
  sets : List (List Source × Source)
  shards : List Shard
deriving Repr, Inhabited

def ckpParams (c : Cmd) (e : Env) : CkpParams :=
  let plan := (e.entries (c.a 0) 32).map mapEntryOf
  let ctxs := (e.entries (c.a 1) 4).map fun w => (w.getD 0 0#32).toNat
  let fmts := plan.map fun m => ((e.firstAlloc? m.handle).map (·.fmt)).getD 0#8
  { plan := plan, ctxs := ctxs, sets := (List.range (c.n 2)).map fun k => splitSet (ckpSet c e k)
    shards := divide plan fmts ctxs (c.n 8) e.part.tiles }

def ckpFields (c : Cmd) (e : Env) : List Check :=
  [ (c.off 0, decide ((c.a 0).count ≤ 4096) && e.arrayOk (c.a 0) 32),
    (c.off 1, decide ((c.a 1).count ≤ 8) && e.arrayOk (c.a 1) 4),
    (c.off 2, decide (2 ≤ c.n 2) && decide (c.n 2 ≤ 4)),
    (c.off 7, decide (1 ≤ c.n 7) && decide (c.n 7 ≤ 65536)), (c.off 8, decide (1 ≤ c.n 8) && decide (c.n 8 ≤ 65536)),
    (c.off 11, decide (c.n 11 < 512)) ] ++
  (List.range 4).map fun k =>
    (c.off (3 + k), if k < c.n 2 then decide (2 ≤ (c.a (3 + k)).count) && decide ((c.a (3 + k)).count ≤ 17) && e.arrayOk (c.a (3 + k)) 64
      else (c.a (3 + k)).absent)

/-- The regions obey their rules: storage targets on ports that may be used, room for the manifest. -/
def regionsOk (c : Cmd) (e : Env) (q : CkpParams) : Bool :=
  ((List.range (c.n 2)).all fun k => (ckpSet c e k).all fun w => sourceOk w && (sourceOf w).storage) &&
  q.sets.all fun (rs, m) => (m :: rs).all (fun d => mayUsePort e.iface e.part d.port) &&
    decide (64 + 48 * q.shards.length ≤ m.length)

def manifestMagic : W32 := 0x464D5153#32

/-- The reads of CKP_CONFIG: the header of every set's manifest (R334). -/
def configWants (q : CkpParams) : List Want :=
  ((List.range q.sets.length).zip q.sets).map fun (k, _, m) => { tag := k, source := m, off := 0, len := 64 }

/-- The valid manifests found: per set, CKP_SEQ and STEP. -/
def foundManifests (c : Cmd) (n : Nat) : Tab (W64 × W64) :=
  (List.range n).filterMap fun k =>
    match c.readWords k 16 with
    | some w => if w.getD 0 0#32 = manifestMagic then some (k, w.getD 5 0#32 ++ w.getD 4 0#32, w.getD 3 0#32 ++ w.getD 2 0#32) else none
    | none => none

/-- The set of the newest valid manifest. -/
def newestSet (ms : Tab (W64 × W64)) : Option Nat :=
  (ms.foldl (fun (m : Option (Nat × W64)) e => match m with
    | some (k, q) => if q.toNat < e.2.1.toNat then some (e.1, e.2.1) else some (k, q)
    | none => some (e.1, e.2.1)) none).map (·.1)

/-- The configuration as it is committed. With no valid manifest, the first CKP_SEQ is not the spec's to name (log 36). -/
def newCkp (s : State) (c : Cmd) (q : CkpParams) : Ckp :=
  let ms := foundManifests c q.sets.length
  let top := newestSet ms
  let (seq, step) := (top.map fun k => Tab.get ms k (0#64, 0#64)).getD (0#64, 0#64)
  { plan := q.plan, ctxs := q.ctxs, sets := q.sets, reserve := c.n 7, shardMib := c.n 8, trigStep := c.n 9, trigMs := c.n 10,
    event := c.w 11, iface := c.id.iface, ctx := c.ctx, shards := q.shards
    nextSeq := if top.isSome then seq + 1#64 else BitVec.ofNat 64 (Config.freeCount 130 s.fresh)
    manifests := ms, timerBase := s.clk.localUs, deferred := false, drain := none, taken := 0, completed := 0, failed := 0,
    skipped := 0, stallUs := 0, deferrals := 0, lastFail := 0, lastSeq := seq, lastStep := step, newest := top, peak := 0 }

/-- The manifests are read once no drain of the partition is in progress (R334). A region on an absent host port is answered before the other rules of its regions (DESIGN CHOICE, log 65). -/
def runCkpConfig (s : State) (c : Cmd) (e : Env) : State × Option Result :=
  let q := ckpParams c e
  if c.stage = 0 then
    checked s c (ckpFields c e)
      (e.serving && planOk e (e.entries (c.a 0) 32) && s.ctxsOk e.part.num q.ctxs)
      (((c.a 0).handle, (c.a 0).off, 32 * (c.a 0).count) :: ((c.a 1).handle, (c.a 1).off, 4 * (c.a 1).count) ::
        (List.range 4).map fun k => ((c.a (3 + k)).handle, (c.a (3 + k)).off, 64 * (c.a (3 + k)).count)) [] e fun s =>
      if q.sets.any fun (rs, m) => (m :: rs).any fun d => d.storage && !s.portFitted d.port then (s, some (Result.bare stUNSUPPORTED))
      else if !regionsOk c e q then (s, some Result.badState)
      else if !(q.sets.all fun (rs, _) => setFits rs q.shards) then (s, some (Result.bare stNO_RESOURCE))
      else if e.part.ckp.drain.isSome then (s, none)
      else (s.beginReads c.id 1 (configWants q), none)
  else if !c.answered (configWants q) then (s, none)
  else if (configWants q).any fun w => c.failedReads.contains w.tag then (s, some Result.badState)
  else (s.useFresh, some (Result.ok (.ckpConfig (newCkp s c q))))

def execCkpConfig (c : CmdId) (s : State) : Answer := runOp 0x0901 c s runCkpConfig

/-- The configuration takes effect: the reserve is allocated, the timer restarts (R334). -/
def commitCkpConfig (s : State) (p : Nat) (k : Ckp) (r : Result) : State × Result :=
  match s.part? p with
  | none => (s, Result.badState)
  | some q =>
    let k := { k with timerBase := s.clk.localUs }
    let q' := { q with ckp := k }
    if !(k.plan.all fun m => (s.alloc? p m.handle).isSome) then (s, Result.badState)
    else if s.hbmUsed q' ≤ q.hbmGib * gib then (s.modPart p fun q => { q with ckp := k }, r)
    else (s, Result.bare stNO_RESOURCE)

/-- A plan with no entries and no contexts disables checkpointing (R332). -/
def Ckp.enabled (k : Ckp) : Bool := !(k.plan.isEmpty && k.ctxs.isEmpty)

/-! ## Snapshots (R337 to R340) -/

/-- The epoch that a WEIGHT of a learning plan carries. -/
def State.weightEpoch (s : State) (p : Nat) (h : W32) : Option W32 :=
  if (s.partCtxs p).any fun x => (x.learn.map fun l => l.entries.any (·.weight == h)).getD false then
    (s.alloc? p h).map (·.epoch)
  else none

/-- Allocations that an ATOMIC command past its first write is writing (R340). -/
def State.openAllocs (s : State) (p : Nat) : List W32 :=
  (s.partCmds p).flatMap fun k => match k.phase with
    | .ready r => if k.atomic then r.writes.map (·.handle) else []
    | _ => []

def pageCount (n : Nat) : Nat := (n + pageBytes - 1) / pageBytes

def newDrain (s : State) (p : Part) (trigger : Nat) : Drain :=
  let as := p.ckp.plan.filterMap fun m => s.contents p.num m.handle
  { set := 0, stage := 0, step := p.step, seq := p.ckp.nextSeq, trigger := trigger, snapUs := s.clk.localUs, allocs := as,
    ctxs := p.ckp.ctxs.filterMap s.ctx?
    epochs := as.filterMap fun a => (s.weightEpoch p.num a.handle).map fun e => (a.handle, e)
    open_ := s.openAllocs p.num
    pages := as.flatMap fun a => (List.range (pageCount a.size)).map fun g => (a.handle, g)
    writing := none, awaiting := 0, ctxsLeft := p.ckp.ctxs, reserve := [] }

/-- A drain begins: a CKP_CONFIG that has not committed reads the manifests again once it has ended (R334). -/
def State.rereadConfigs (s : State) (n : Nat) : State :=
  ((s.partCmds n).filter fun c => c.opcode == 0x0901 && c.phase != .fetched && c.stage != 0).foldl (fun (s : State) c =>
    (s.dropReads c.id).modCmd c.id fun k => { k with phase := .dispatched, stage := 0, reads := [], failedReads := [] }) s

/-- A snapshot is taken: the drain waits for its token, and the timer runs from now. -/
def snapshot (s : State) (n trigger : Nat) : State :=
  match s.part? n with
  | none => s
  | some p =>
    ((s.rereadConfigs n).modPart n fun q => { q with ckp := { q.ckp with
      drain := some (newDrain s p trigger), taken := satNat32 (q.ckp.taken + 1), timerBase := s.clk.localUs, deferred := false } }).modMaint
      fun m => { m with waiting := m.waiting ++ [{ cls := 7, scope := n, use := .drain n }] }

/-- The timer has expired (R338). -/
def Ckp.timerDue (k : Ckp) (us : Nat) : Bool := k.enabled && k.trigMs != 0 && decide (k.timerBase + 1000 * k.trigMs ≤ us)

/-! ## CKP_STEP (0x0902): MODE, VALUE -/

def runCkpStep (s : State) (c : Cmd) (e : Env) : State × Option Result :=
  checked s c [ (c.off 0, decide (c.n 0 < 2)), (c.off 1, c.n 0 == 1 || (decide (1 ≤ c.d 1) && decide (c.d 1 < 2 ^ 32))) ] e.serving
    [] [] e fun s => (s, some (Result.ok (.ckpStep (c.n 0 == 0) (BitVec.ofNat 64 (c.d 1)))))

def execCkpStep (c : CmdId) (s : State) : Answer := runOp 0x0902 c s runCkpStep

/-- S changes; a nonzero multiple of TRIG_STEP is a step trigger (R336, R337). -/
def commitCkpStep (s : State) (n : Nat) (add : Bool) (v : W64) : State :=
  match s.part? n with
  | none => s
  | some p =>
    let step := if add then p.step + v else v
    let s := s.modPart n fun q => { q with step := step }
    let k := p.ckp
    if k.enabled && k.trigStep != 0 && step != 0#64 && step.toNat % k.trigStep == 0 then
      if k.drain.isSome then s.modPart n fun q => { q with ckp := { q.ckp with skipped := satNat32 (q.ckp.skipped + 1) } }
      else snapshot s n (if k.timerDue s.clk.localUs then 2 else 0)
    else s

/-- CKP_TIMER_EXPIRY (R338). -/
def ckpTimer (s : State) (n : Nat) : State :=
  match s.part? n with
  | none => s
  | some p =>
    if p.fenced || !p.ckp.timerDue s.clk.localUs then s
    else if p.ckp.drain.isNone then snapshot s.wake n 1
    else if p.ckp.deferred then s
    else s.wake.modPart n fun q => { q with ckp := { q.ckp with deferred := true, deferrals := satNat32 (q.ckp.deferrals + 1) } }

def execCkpTimerExpiry (part : Nat) (s : State) : Answer := if s.windowUp then .next (ckpTimer s part) else .next s

/-! ## What a shard holds (R341, R348, R349) -/

def padTo (n : Nat) (bs : List Byte) : List Byte := bs ++ List.replicate (n - bs.length) 0#8

/-- The words of a live bank. A temperature table that has never been loaded reads 1.0 (05 R135); what another bank without
contents holds is open (log 36). -/
def Banks.record (b : Banks) (ones : Bool) (n use : Nat) : List Byte :=
  match b.bank, ones with
  | .never, true => wordsBytes (List.replicate n one32)
  | .never, false | .emptied, _ => wordsBytes ((List.range n).map fun i => Config.freeWord 2 (use * 2048 + i))
  | .loaded ws, _ => wordsBytes ((List.range n).map fun i => ws.getD i 0#32)

def Banks.loadedBit (b : Banks) : W32 := match b.bank with | .loaded _ => 1#32 | _ => 0#32

/-- A context record (Table 13-2). -/
def contextRecord (x : Ctx) (t use : Nat) : List Byte :=
  padTo (recordGen t) (genBytes x.seed x.det t x.gens) ++
  ((List.range t).flatMap fun i => (List.range 8192).flatMap fun k =>
    let (m, sh) := Tab.get (x.file i) k (0#32, 0#6)
    wordBytes m ++ leBytes 4 sh.toNat) ++
  x.temp.record true 1024 (use * 5) ++
  (List.range 4).flatMap fun k => let b := x.banks (0x10 + k); wordBytes b.loadedBit ++ wordBytes 0#32 ++ b.record false 1030 (use * 5 + k + 1)

/-- Rows [lo, lo + n) of a tensor of `cols` columns, in row-major order, as an object holds them (R349). -/
def tensorImage (a : Alloc) (cols lo n : Nat) : Alloc :=
  let v := rowImage a.fmt a.dscale n cols []
  let b := v.putElems ((List.range (n * cols)).map fun i => (i, a.pattern (lo * cols + i)))
  if a.block then
    b.putScales ((blockGroups v 0 (n * cols)).map fun (addr, ks) => (addr, Mem.get a.mem a.dflt (a.scaleAddr (lo * cols + ks.headD 0))))
  else b

def Drain.alloc? (d : Drain) (h : W32) : Option Alloc := d.allocs.find? (·.handle == h)

def sourceWord (m p : Nat) : W32 := BitVec.ofNat 32 (m + p * 2 ^ 16)

/-- What shard headers and manifest entries share. -/
structure ShardId where
  kind : Nat
  tensor : W32
  epoch : Option W32
  rowLo : Nat
  rows : Nat
  colLo : Nat
  cols : Nat
  fmt : Byte
  dscale : W32
  atomicOpen : Bool
deriving DecidableEq, Repr, Inhabited

def shardId (k : Ckp) (d : Drain) (h : Shard) : ShardId :=
  match h.ctx with
  | some x => { kind := 1, tensor := BitVec.ofNat 32 x, epoch := none, rowLo := 0, rows := 0, colLo := 0, cols := 0, fmt := 0#8,
                dscale := 0#32, atomicOpen := false }
  | none =>
    let m := k.plan.getD h.entry default
    let a := d.alloc? m.handle
    let fmt := (a.map (·.fmt)).getD 0#8
    { kind := 0, tensor := m.tensor, epoch := (d.epochs.find? (·.1 == m.handle)).map (·.2), rowLo := m.rowLo + h.row, rows := h.rows,
      colLo := m.colLo, cols := m.colCnt, fmt := fmt, dscale := if fmtBlock fmt then 0#32 else (a.map (·.dscale)).getD 0#32,
      atomicOpen := d.open_.contains m.handle }

/-- The 64-byte shard header (Table 13-4). -/
def shardHeader (s : State) (p : Nat) (k : Ckp) (d : Drain) (h : Shard) : List Byte :=
  let i := shardId k d h
  wordBytes headerMagic ++
  leBytes 4 (1 + i.kind * 2 ^ 8 + i.fmt.toNat * 2 ^ 16 + boolNat i.atomicOpen * 2 ^ 24 + boolNat i.epoch.isSome * 2 ^ 25) ++
  leBytes 8 d.step.toNat ++ leBytes 8 d.seq.toNat ++ wordBytes (sourceWord s.net.moduleId p) ++ wordBytes i.tensor ++
  wordBytes (i.epoch.getD 0#32) ++ leBytes 4 i.rowLo ++ leBytes 4 i.rows ++ leBytes 4 i.colLo ++ leBytes 4 i.cols ++
  wordBytes i.dscale ++ leBytes 8 (h.bytes - 64)

/-- ACC.PART_GEOM (spec 12 Table 12-5). -/
def Part.geom (p : Part) : W32 := BitVec.ofNat 32 (p.c0 + p.n * 2 ^ 8 + p.role * 2 ^ 16 + p.num * 2 ^ 24)

/-- A manifest (Tables 13-5, 13-6). -/
def manifestBytes (s : State) (p : Part) (d : Drain) : List Byte :=
  let k := p.ckp
  let (rs, _) := k.sets.getD d.set ([], default)
  wordBytes manifestMagic ++ leBytes 4 (1 + d.trigger * 2 ^ 8) ++ leBytes 8 d.step.toNat ++ leBytes 8 d.seq.toNat ++
  wordBytes (sourceWord s.net.moduleId p.num) ++ leBytes 4 k.shards.length ++ leBytes 8 d.snapUs ++ wordBytes p.geom ++
  List.replicate 20 0#8 ++
  ((setLayout rs k.shards).zip k.shards).flatMap fun ((r, off), h) =>
    let i := shardId k d h
    leBytes 4 (i.kind + r * 2 ^ 8) ++ wordBytes i.tensor ++ leBytes 4 i.rowLo ++ leBytes 4 i.rows ++ leBytes 8 off ++
    leBytes 8 h.bytes ++ leBytes 4 i.colLo ++ leBytes 4 i.cols ++ wordBytes (i.epoch.getD 0#32) ++
    leBytes 4 (i.fmt.toNat + boolNat i.atomicOpen * 2 ^ 8 + boolNat i.epoch.isSome * 2 ^ 9)

/-! ## Draining (R343 to R346) -/

/-- A write of a drain: its region, the offset from BASE, the bytes. -/
structure DrainWrite where
  region : Source
  off : Nat
  bytes : List Byte
deriving DecidableEq, Repr, Inhabited

/-- Releases the drain's token, held or asked for. -/
def dropDrainToken (s : State) (n : Nat) : State :=
  s.modMaint fun m => { m with held := m.held.filter (fun t => t.use != .drain n), waiting := m.waiting.filter (fun t => t.use != .drain n) }

/-- A drain ends in failure; a snapshot that the timer deferred is taken now (R338, R346). -/
def State.drainBroken (s : State) (n code : Nat) : State :=
  let due := ((s.part? n).map fun p => p.ckp.deferred && p.ckp.drain.isSome).getD false
  let s := s.drainFails n code
  if due && !s.flt.safe && ((s.part? n).map fun p => !p.fenced).getD false then snapshot s n 1 else s

/-- Posts the writes of a step of a drain; an unreachable region fails it (spec 14 R365). -/
def postDrain (s : State) (n i : Nat) (ws : List DrainWrite) : State :=
  if ws.any fun w => !s.reachable i w.region then s.drainBroken n failWrite
  else
    let s := ws.foldl (fun (s : State) w => s.postWork w.region.port w.region.qpn
      { work := .drain n, addr := w.region.base + w.off, rkey := w.region.rkey, len := w.bytes.length, bytes := w.bytes }) s
    s.modPart n fun q => { q with ckp := { q.ckp with drain := q.ckp.drain.map fun d => { d with awaiting := ws.length } } }

/-- The elements of a shard that a page holds: first and count. -/
def pageElems (a : Alloc) (m : MapEntry) (h : Shard) (g : Nat) : List Nat :=
  ((List.range (h.rows * m.colCnt)).map (h.row * m.colCnt + ·)).filter fun k =>
    (pagesOf (a.elemBit k) (a.elemBit k + fmtBits a.code)).contains g

/-- The scales of a shard lie on a page. -/
def pageScales (a : Alloc) (m : MapEntry) (h : Shard) (g : Nat) : Bool :=
  a.block && (List.range (h.rows * m.colCnt)).any fun k => a.scaleAddr (h.row * m.colCnt + k) / pageBytes == g

/-- What a page contributes to a shard: the bytes of its elements, the scales, and with the shard's first element the
header. -/
def shardWrites (s : State) (p : Part) (d : Drain) (a : Alloc) (g : Nat) (h : Shard) (r : Source) (off : Nat) : List DrainWrite :=
  let m := p.ckp.plan.getD h.entry default
  let img := tensorImage a m.colCnt h.row h.rows
  let ks := pageElems a m h g
  let first := h.row * m.colCnt
  (if ks.contains first then [{ region := r, off := off, bytes := shardHeader s p.num p.ckp d h }] else []) ++
  (match ks with
   | [] => []
   | k :: _ =>
     let lo := img.elemBit (k - first) / 8
     let hi := (img.elemBit (ks.getLastD k - first) + fmtBits a.code + 7) / 8
     [{ region := r, off := off + 64 + lo, bytes := img.bytes lo (hi - lo) }]) ++
  (if pageScales a m h g then
     [{ region := r, off := off + 64 + img.scaleBase, bytes := img.bytes img.scaleBase (h.bytes - 64 - img.scaleBase) }]
   else [])

/-- The writes of a page of the snapshot. -/
def pageWrites (s : State) (p : Part) (d : Drain) (h : W32) (g : Nat) : List DrainWrite :=
  let (rs, _) := p.ckp.sets.getD d.set ([], default)
  match d.alloc? h with
  | none => []
  | some a =>
    (((setLayout rs p.ckp.shards).zip p.ckp.shards).filter fun x =>
      x.2.ctx.isNone && (p.ckp.plan.getD x.2.entry default).handle == h).flatMap fun ((r, off), sh) =>
      shardWrites s p d a g sh (rs.getD r default) off

/-- A drain reads a page of the snapshot, from the reserve or where it stands (06 R165); answers whether that fails. -/
def State.drainRead (s : State) (p : Nat) (d : Drain) (h : W32) (g : Nat) : State × Bool :=
  let lo := g * pageBytes
  if d.reserve.any fun k => k.handle == h && k.page == g then
    (s, ((d.alloc? h).map fun a => !(unitsHit a a.uncorr lo (lo + pageBytes)).isEmpty).getD false)
  else s.readFor p 0 none p h lo (lo + pageBytes)

/-- The page to drain next (R343): one on which a waiting write depends, one held in reserve, else in shard order. -/
def State.nextPage (s : State) (p : Nat) (d : Drain) : Option (W32 × Nat) :=
  let needs := (s.partCmds p).flatMap (·.needs)
  ((d.pages.find? needs.contains).or (d.pages.find? fun x => d.reserve.any fun k => k.handle == x.1 && k.page == x.2)).or d.pages.head?

/-- The writes of a context record. -/
def ctxWrites (s : State) (p : Part) (d : Drain) (x : Nat) : List DrainWrite :=
  let (rs, _) := p.ckp.sets.getD d.set ([], default)
  (((setLayout rs p.ckp.shards).zip p.ckp.shards).filter (·.2.ctx == some x)).flatMap fun ((r, off), h) =>
    match d.ctxs.find? (·.id == x) with
    | some c => [{ region := rs.getD r default, off := off, bytes := shardHeader s p.num p.ckp d h ++ contextRecord c p.tiles (s.fresh * 4096 + x) }]
    | none => []

def setStage (s : State) (n k : Nat) : State :=
  s.modPart n fun q => { q with ckp := { q.ckp with drain := q.ckp.drain.map fun d => { d with stage := k } } }

/-- The set a drain writes (R345): the lowest without a valid manifest, else the one of the lowest CKP_SEQ that is not the
newest. -/
def Ckp.chooseSet (k : Ckp) : Nat :=
  let n := k.sets.length
  match (List.range n).find? fun i => !k.manifests.any (·.1 == i) with
  | some i => i
  | none => ((minBy (fun i => (Tab.get k.manifests i (0#64, 0#64)).1.toNat) ((List.range n).filter fun i => k.newest != some i))).getD 0

/-- A checkpoint is complete. -/
def drainDone (s : State) (n : Nat) (p : Part) (d : Drain) : State :=
  let s := ((s.chargeDrain n).modPart n fun q => { q with ckp := { q.ckp with
      drain := none, completed := satNat32 (q.ckp.completed + 1), manifests := Tab.set q.ckp.manifests d.set (d.seq, d.step),
      newest := some d.set, nextSeq := d.seq + 1#64, lastSeq := d.seq, lastStep := d.step } })
  let s := dropDrainToken s n
  let s := if bitAt p.ckp.event 8 then s.addEvent p.ckp.iface (field p.ckp.event 7 0) 1 else s
  if p.ckp.deferred then snapshot s n 1 else s

/-- A partition's drain has its token and is at work. -/
def State.draining (s : State) (n : Nat) : Bool := (((s.part? n).bind (·.ckp.drain)).map fun d => decide (2 ≤ d.stage)).getD false

/-- Writes of its drain wait for their acknowledgements. -/
def State.drainWaits (s : State) (n : Nat) : Bool := (((s.part? n).bind (·.ckp.drain)).map fun d => decide (0 < d.awaiting)).getD false

/-- Posts what a drain writes next. `fuel` bounds the stages without writes. -/
def driveDrain (fuel : Nat) (s : State) (n : Nat) : State :=
  match fuel with
  | 0 => s
  | f + 1 =>
    match (s.part? n).bind fun p => p.ckp.drain.map fun d => (p, d) with
    | none => s
    | some (p, d) =>
      let i := p.ckp.iface
      let m := (p.ckp.sets.getD d.set ([], default)).2
      match d.stage with
      | 2 => postDrain s n i [{ region := m, off := 0, bytes := wordBytes 0#32 }]
      | 3 =>
        match s.nextPage n d with
        | none => driveDrain f (setStage s n 4) n
        | some (h, g) =>
          let (s, bad) := s.drainRead n d h g
          if bad then s.drainBroken n failRead
          else
            let s := s.modPart n fun q => { q with ckp := { q.ckp with drain := q.ckp.drain.map fun d => { d with writing := some (h, g) } } }
            match pageWrites s p d h g with
            | [] => driveDrain f (s.modPart n fun q => { q with ckp := { q.ckp with drain := q.ckp.drain.map fun d => { d with
                pages := d.pages.filter (· != (h, g)), writing := none
                reserve := d.reserve.filter fun k => !(k.handle == h && k.page == g) } } }) n
            | ws => postDrain s n i ws
      | 4 =>
        match d.ctxsLeft with
        | [] => driveDrain f (setStage s n 5) n
        | x :: r =>
          let s := s.modPart n fun q => { q with ckp := { q.ckp with drain := q.ckp.drain.map fun d => { d with ctxsLeft := r } } }
          match ctxWrites s p d x with
          | [] => driveDrain f s n
          | ws => postDrain s n i ws
      | 5 => postDrain s n i [{ region := m, off := 4, bytes := (manifestBytes s p d).drop 4 }]
      | 6 => postDrain s n i [{ region := m, off := 0, bytes := wordBytes manifestMagic }]
      | _ => s

/-- The checkpoint writer serves the draining partitions in turn, each for the writes of one page or record (R344; 01 R17; log
26): the partition at the front of its queue writes, unless it waits for acknowledgements. `fuel` bounds the drains that fail
at once. -/
def serveDrains (s : State) : Nat → State
  | 0 => s
  | f + 1 =>
    let l := s.shared.drains.filter s.draining
    let s := { s with shared := { s.shared with drains := l } }
    match l with
    | [] => s
    | n :: _ =>
      if s.drainWaits n then s
      else
        let d := (((s.part? n).bind (·.ckp.drain)).map fun d => d.pages.length + d.ctxsLeft.length).getD 0
        let t := driveDrain (d + 4) s n
        if t.draining n && t.drainWaits n then t else serveDrains t f

/-- The writer takes up its queue. -/
def State.drainNext (s : State) : State := serveDrains s (s.shared.drains.length + 1)

/-- A partition's turn of the writer is over. -/
def State.drainTurn (s : State) (n : Nat) : State :=
  ({ s with shared := { s.shared with drains := s.shared.drains.filter (· != n) ++ [n] } } : State).drainNext

/-- The drain has its token: it chooses its set, whose MAGIC it zeroes first (R345). -/
def startDrain (s : State) (n : Nat) : State :=
  match s.part? n with
  | none => s
  | some p =>
    let k := p.ckp.chooseSet
    (s.modPart n fun q => { q with ckp := { q.ckp with
      manifests := q.ckp.manifests.filter (·.1 != k), newest := if q.ckp.newest = some k then none else q.ckp.newest
      drain := q.ckp.drain.map fun d => { d with set := k, stage := 2 } } }).drainTurn n

/-- Every write of a step is acknowledged: the drain moves on, and the writer's turn passes. -/
def drainStep (s : State) (n : Nat) (p : Part) (d : Drain) : State :=
  let t : State := match d.stage with
    | 2 => setStage s n 3
    | 3 =>
      s.modPart n fun q => { q with ckp := { q.ckp with drain := q.ckp.drain.map fun d => { d with
        pages := d.pages.filter fun x => some x != d.writing
        reserve := d.reserve.filter fun k => some (k.handle, k.page) != d.writing, writing := none } } }
    | 5 => setStage s n 6
    | 6 => drainDone s n p d
    | _ => s
  t.drainTurn n

/-- The oldest write of a drain on a queue pair is acknowledged. -/
def drainAckOn (s : State) (n : Nat) (q : Qp) : State :=
  match (s.part? n).bind fun p => p.ckp.drain.map fun d => (p, d) with
  | none => s
  | some (p, d) =>
    if d.awaiting = 0 then s
    else
      let s := s.modQp q.port q.num fun q => { q with work := dropFirst (·.ofDrain n) q.work, retriesLeft := q.retry }
      let s := s.modPart n fun q => { q with ckp := { q.ckp with drain := q.ckp.drain.map fun d => { d with awaiting := d.awaiting - 1 } } }
      if d.awaiting = 1 then drainStep s n p d else s

/-- DRAIN_WRITE_ACK: the oldest write of a drain is acknowledged. -/
def drainAck (s : State) (n : Nat) : State :=
  match s.net.qps.find? fun q => q.work.any (·.ofDrain n) with
  | none => s.drainNext
  | some q => drainAckOn s n q

def execDrainWriteAck (part : Nat) (s : State) : Answer := if s.windowUp then .next (drainAck s part) else .next s

/-! ## CKP_RESTORE (0x0903): MANIFESTS, STEP_VALID, STEP, TARGETS, CONTEXTS, REPORT -/

/-- A shard that a manifest lists (Table 13-6). -/
structure Listed where
  kind : Nat
  region : Nat
  tensor : W32
  rowLo : Nat
  rows : Nat
  off : Nat
  len : Nat
  colLo : Nat
  cols : Nat
  epoch : W32
  flags : W32
deriving DecidableEq, Repr, Inhabited

def Listed.fmt (l : Listed) : Byte := BitVec.ofNat 8 (field l.flags 7 0)

def listedOf (w : List W32) : Listed :=
  let g := fun i => w.getD i 0#32
  { kind := field (g 0) 7 0, region := field (g 0) 11 8, tensor := g 1, rowLo := (g 2).toNat, rows := (g 3).toNat
    off := (g 4).toNat + (g 5).toNat * 2 ^ 32, len := (g 6).toNat + (g 7).toNat * 2 ^ 32, colLo := (g 8).toNat, cols := (g 9).toNat,
    epoch := g 10, flags := g 11 }

/-- A valid manifest: its location, source, step, sequence number and shards. -/
structure Manifest where
  loc : Nat
  source : W32
  step : W64
  seq : W64
  shards : List Listed
deriving DecidableEq, Repr, Inhabited

def restoreLocs (c : Cmd) (e : Env) : List Source := (e.entries (c.a 0) 64).map sourceOf
def restoreTargets (c : Cmd) (e : Env) : List MapEntry := (e.entries (c.a 3) 32).map mapEntryOf
/-- Source module and partition, source context, target context. -/
def restorePairs (c : Cmd) (e : Env) : List (W32 × Nat × Nat) :=
  (e.entries (c.a 4) 8).map fun w => (w.getD 0 0#32, field (w.getD 1 0#32) 11 0, field (w.getD 1 0#32) 27 16)

def headWants (ls : List Source) : List Want :=
  ((List.range ls.length).zip ls).map fun (k, d) => { tag := k, source := d, off := 0, len := 64 }

/-- The header of location k, when it is valid. -/
def headAt (c : Cmd) (k : Nat) : Option (List W32) := (c.readWords k 16).filter fun w => w.getD 0 0#32 == manifestMagic

def listTag (k : Nat) : Nat := 1024 + k

def listWants (c : Cmd) (ls : List Source) : List Want :=
  ((List.range ls.length).zip ls).filterMap fun (k, d) =>
    (headAt c k).map fun w => { tag := listTag k, source := d, off := 64, len := 48 * (w.getD 7 0#32).toNat }

/-- The valid manifests, in location order. -/
def manifests (c : Cmd) (n : Nat) : List Manifest :=
  (List.range n).filterMap fun k =>
    match headAt c k, c.readBytes (listTag k) with
    | some w, some bs =>
      some { loc := k, source := w.getD 6 0#32, step := w.getD 3 0#32 ++ w.getD 2 0#32, seq := w.getD 5 0#32 ++ w.getD 4 0#32
             shards := (List.range (w.getD 7 0#32).toNat).map fun i => listedOf (bytesWords 12 (bs.drop (48 * i))) }
    | _, _ => none

/-- The sources found, each once, in location order. -/
def restoreSources (ms : List Manifest) : List W32 := ms.foldl (fun l m => addOnce m.source l) []

/-- The manifest of a source with the highest CKP_SEQ; the first of equals. -/
def newestOf (ms : List Manifest) (src : W32) : Option Manifest :=
  (ms.filter (·.source == src)).foldl (fun (b : Option Manifest) m => match b with
    | some x => if x.seq.toNat < m.seq.toNat then some m else some x
    | none => some m) none

/-- The used manifests of R352, in location order. -/
def usedManifests (valid : Bool) (step : W64) (ms : List Manifest) : List Manifest :=
  let cand := if valid then ms.filter (·.step == step) else ms
  let picked := (restoreSources cand).filterMap (newestOf cand)
  cand.filter fun m => picked.any (·.loc == m.loc)

/-- The shard of a tensor element: from the used manifest whose location comes first. -/
def holder (us : List Manifest) (tensor : W32) (row col : Nat) : Option (Manifest × Nat × Listed) :=
  us.findSome? fun m => (((List.range m.shards.length).zip m.shards).find? fun (_, l) =>
    l.kind == 0 && l.tensor == tensor && decide (l.rowLo ≤ row) && decide (row < l.rowLo + l.rows) && decide (l.colLo ≤ col) &&
    decide (col < l.colLo + l.cols)).map fun (j, l) => (m, j, l)

/-- The record of a source context. -/
def ckpRecordOf (us : List Manifest) (src : W32) (x : Nat) : Option (Manifest × Nat × Listed) :=
  us.findSome? fun m => if m.source = src then
    (((List.range m.shards.length).zip m.shards).find? fun (_, l) => l.kind == 1 && field l.tensor 11 0 == x).map fun (j, l) => (m, j, l)
  else none

def shardTag (loc j : Nat) : Nat := 4096 + loc * 2 ^ 32 + j

/-- The shards that a restore reads: those that hold an element of a target, and the records of the contexts. -/
def neededShards (us : List Manifest) (ts : List MapEntry) (ps : List (W32 × Nat × Nat)) : List (Manifest × Nat × Listed) :=
  (us.flatMap fun m => ((List.range m.shards.length).zip m.shards).filterMap fun (j, l) =>
    if l.kind == 0 && ts.any (fun t => t.overlaps
      { tensor := l.tensor, rowLo := l.rowLo, rowCnt := l.rows, colLo := l.colLo, colCnt := l.cols, fmt := 0#8, flags := 0#16,
        handle := 0#32, dscale := 0#32 }) then some (m, j, l) else none) ++
  ps.filterMap fun (src, x, _) => ckpRecordOf us src x

/-- The reads of shards: a region's BASE is not in a manifest (log 21). -/
def shardWants (ls : List Source) (ns : List (Manifest × Nat × Listed)) : List Want :=
  ns.foldl (fun ws (m, j, l) =>
    let d := ls.getD m.loc default
    addOnce { tag := shardTag m.loc j, source := { d with base := Config.regionBase d.base l.region }, off := l.off, len := l.len } ws) []

/-- A shard as read, when its header matches its manifest entry and the step (R353). -/
def shardRead (c : Cmd) (m : Manifest) (j : Nat) (l : Listed) : Option (List W32 × List Byte) :=
  match c.readBytes (shardTag m.loc j) with
  | none => none
  | some bs =>
    let w := bytesWords 16 bs
    let h := headerOf w
    if w.getD 0 0#32 = headerMagic ∧ field (w.getD 1 0#32) 15 8 = l.kind ∧ w.getD 3 0#32 ++ w.getD 2 0#32 = m.step ∧
        h.tensor = l.tensor ∧ h.rowLo = l.rowLo ∧ h.rowCnt = l.rows ∧ h.colLo = l.colLo ∧ h.colCnt = l.cols ∧ h.fmt = l.fmt then
      some (w, bs.drop 64)
    else none

/-! ### Reports (R354) -/

def reportRuns (k : Nat) (t : MapEntry) (gone : Nat → Bool) : List (List W32) :=
  (runsOf gone t.rowCnt).map fun (lo, n) => [t.tensor, BitVec.ofNat 32 (t.rowLo + lo), BitVec.ofNat 32 n, BitVec.ofNat 32 k]

/-- The missing rows and contexts. `bad`: shards that were read in vain. The words of a context entry that R354 does not
name are open (log 36). -/
def missingReport (us : List Manifest) (ts : List MapEntry) (ps : List (W32 × Nat × Nat)) (bad : Nat → Nat → Bool) (use : Nat) :
    List (List W32) :=
  (((List.range ts.length).zip ts).flatMap fun (k, t) => reportRuns k t fun r =>
    (List.range t.colCnt).any fun j => match holder us t.tensor (t.rowLo + r) (t.colLo + j) with
      | some (m, i, _) => bad m.loc i
      | none => true) ++
  ps.filterMap fun (src, x, y) => match ckpRecordOf us src x with
    | some (m, i, _) => if bad m.loc i then some [0xFFFFFFFF#32, BitVec.ofNat 32 y, Config.freeWord 1 (use * 8192 + 2 * y), Config.freeWord 1 (use * 8192 + 2 * y + 1)] else none
    | none => some [0xFFFFFFFF#32, BitVec.ofNat 32 y, Config.freeWord 1 (use * 8192 + 2 * y), Config.freeWord 1 (use * 8192 + 2 * y + 1)]

/-- One entry per source, for its newest step. -/
def mixedReport (ms : List Manifest) : List (List W32) :=
  (restoreSources ms).filterMap fun src => (newestOf ms src).map fun m =>
    [src, BitVec.ofNat 32 m.step.toNat, BitVec.ofNat 32 (m.step.toNat / 2 ^ 32), BitVec.ofNat 32 m.loc]

/-- A restore that ends with a report; nothing else is committed. -/
def reportResult (e : Env) (c : Cmd) (st : Nat) (es : List (List W32)) : Result :=
  let size := ((e.alloc? (c.w 5)).map (·.size)).getD 0
  { Result.bare st with
    detail := BitVec.ofNat 32 (if es.length > 0xFFFF then 0xFFFF else es.length)
    writes := if es.isEmpty then [] else [rawWrite (c.w 5) 0 ((es.take (size / 16)).flatMap wordsBytes)], always := true }

/-! ### Elements (R355) -/

/-- A shard of tensor data as an image of its rectangle. -/
def shardImage (w : List W32) (bs : List Byte) : Alloc :=
  let h := headerOf w
  rowImage h.fmt h.scale h.rowCnt h.colCnt bs

/-- The source of target element k: the image and the index in it. -/
def sourceElem (c : Cmd) (us : List Manifest) (t : MapEntry) (k : Nat) : Option (Alloc × Nat) :=
  let row := t.rowLo + k / t.colCnt
  let col := t.colLo + k % t.colCnt
  match holder us t.tensor row col with
  | none => none
  | some (m, j, l) => (shardRead c m j l).map fun (w, bs) => (shardImage w bs, (row - l.rowLo) * l.cols + (col - l.colLo))

/-- The bits may be copied (R355): one format, scale groups that coincide, one decode scale. -/
def copiesBits (a : Alloc) (t : MapEntry) (srcs : List (Alloc × Nat)) : Bool :=
  let d := (srcs.head?.map fun x => x.1.dscale).getD one32
  srcs.all (fun (v, _) => v.fmt == a.fmt && (a.block || v.dscale == d)) &&
  (!a.block || (blockGroups a 0 (t.rowCnt * t.colCnt)).all fun (_, ks) =>
    match srcs[ks.headD 0]? with
    | some (v, i) => (if fmtRowK v.fmt then i / v.cols % 32 == 0 else i % v.cols % 32 == 0) &&
        ((List.range ks.length).zip ks).all fun (n, k) => match srcs[k]? with
          | some (v', i') => v'.mem == v.mem && i' == i + (if fmtRowK v.fmt then n * v.cols else n)
          | none => false
    | none => false)

/-- The shards that hold a target's elements, element by element. -/
def targetSources (c : Cmd) (us : List Manifest) (t : MapEntry) : List (Alloc × Nat) :=
  (List.range (t.rowCnt * t.colCnt)).filterMap (sourceElem c us t)

/-- The D that a target takes with copied bits is a positive normal value (03 R71). -/
def restoredScaleOk (c : Cmd) (us : List Manifest) (t : MapEntry) (a : Alloc) : Bool :=
  let srcs := targetSources c us t
  a.block || !copiesBits a t srcs || (srcs.head?.map fun x => posNormal x.1.dscale).getD true

/-- The write of a target. Copied bits enter its statistics as elements, NaNs and magnitudes, and as neither overflowed nor
vanished (DESIGN CHOICE, log 65). -/
def restoreWrite (c : Cmd) (us : List Manifest) (t : MapEntry) (a : Alloc) : TWrite :=
  let srcs := targetSources c us t
  let vals := srcs.map fun (v, i) => v.full i
  if copiesBits a t srcs then
    { handle := a.handle, elems := (List.range srcs.length).zip (srcs.map fun (v, i) => v.pattern i)
      scales := if a.block then (blockGroups a 0 srcs.length).map fun (addr, ks) =>
          (addr, match srcs[ks.headD 0]? with | some (v, i) => Mem.get v.mem v.dflt (v.scaleAddr i) | none => 0x7F#8)
        else []
      stats := statsOf vals (vals.map fun v => if v = .nan then Cls.nan else Cls.fine)
      dscale := if a.block then none else (srcs.head?.map fun x => x.1.dscale), count := none }
  else encodeInto a 0 none 0 (vals.map fun _ => none) vals

/-! ### Contexts (R356) -/

/-- A target context after the restore of a record, and whether it was reshaped and its scale files zeroed. -/
def restoreCtx (p : Part) (x : Ctx) (bs : List Byte) : Ctx × Bool × Bool :=
  let (seed, det, t, gens) := genParse bs
  let file := fun (i : Nat) => (List.range 8192).filterMap fun k =>
    let o := recordGen t + 65536 * i + 8 * k
    let m := BitVec.ofNat 32 (leNat ((bs.drop o).take 4))
    let sh := BitVec.ofNat 6 (leNat ((bs.drop (o + 4)).take 4))
    if m = 0#32 ∧ sh = 0#6 then none else some (k, m, sh)
  let reshaped := t != p.tiles
  let same := (List.range t).all fun i => file i == file 0
  let at_ := recordGen t + 65536 * t
  let words := fun (o n : Nat) => bytesWords n (bs.drop o)
  let custom := (List.range 4).map fun k =>
    let o := at_ + 4096 + 4128 * k
    if bitAt ((words o 1).getD 0 0#32) 0 then ({ a := .loaded (words (o + 8) 1030), b := .emptied, live := false } : Banks)
    else { a := .never, b := .never, live := false }
  ({ x with seed := seed, det := det, gens := genReshape t p.tiles gens
            scale := if !reshaped then (List.range t).map fun i => (i, file i) else if same then [(0, file 0)] else []
            temp := { a := .loaded (words at_ 1024), b := .emptied, live := false }, custom := custom },
    reshaped, reshaped && !same)

/-! ### The command -/

/-- A target: an ordinary allocation of as many elements as its rectangle (R351). -/
def targetOk (e : Env) (t : MapEntry) : Bool :=
  match e.firstAlloc? t.handle with
  | some a => (match a.role with | .plain => true | _ => false) && rectangleOk a t
  | none => false

def restoreFields (c : Cmd) (e : Env) : List Check :=
  [ (c.off 0, decide (1 ≤ (c.a 0).count) && decide ((c.a 0).count ≤ 1024) && e.arrayOk (c.a 0) 64), (c.off 1, decide (c.n 1 < 2)),
    (c.off 3, decide ((c.a 3).count ≤ 4096) && e.arrayOk (c.a 3) 32), (c.off 4, decide ((c.a 4).count ≤ 8) && e.arrayOk (c.a 4) 8),
    (c.off 5, e.bufferOk (c.w 5) 0 0) ]

def pairOk4 (w : List W32) : Bool := w.getD 0 0#32 &&& 0xFFE0C000#32 == 0#32 && w.getD 1 0#32 &&& 0xF000F000#32 == 0#32

/-- Everything is read: the writes, the contexts, and DETAIL. -/
def restoreResult (s : State) (c : Cmd) (e : Env) (us : List Manifest) (step : W64) : Result :=
  let ts := restoreTargets c e
  let ctxs := (restorePairs c e).filterMap fun (src, x, y) =>
    match ckpRecordOf us src x, s.ctx? y with
    | some (m, j, l), some t => (shardRead c m j l).map fun (_, bs) => restoreCtx e.part t bs
    | _, _ => none
  let epochs := ts.filterMap fun t => (holder us t.tensor t.rowLo t.colLo).map fun (_, _, l) => (t.handle, l.epoch)
  { Result.ok (.ckpRestore step (ctxs.map (·.1)) epochs (ts.map (·.handle))) with
    detail := BitVec.ofNat 32 (boolNat (ctxs.any (·.2.1)) * 2 ^ 16 + boolNat (ctxs.any (·.2.2)) * 2 ^ 17)
    writes := ts.filterMap fun t => (e.alloc? t.handle).map (restoreWrite c us t) }

/-- The context records that a restore has read; their generator state is checked as R130 says (R356). -/
def restoredRecords (c : Cmd) (us : List Manifest) (ps : List (W32 × Nat × Nat)) : List (List Byte) :=
  ps.filterMap fun (src, x, _) => (ckpRecordOf us src x).bind fun (m, j, l) => (shardRead c m j l).map (·.2)

/-- What the manifests decide (R352). -/
def restoreDecide (s : State) (c : Cmd) (e : Env) : State × Option Result :=
  let ls := restoreLocs c e
  let ms := manifests c ls.length
  let us := usedManifests (c.n 1 = 1) (BitVec.ofNat 64 (c.d 2)) ms
  let ts := restoreTargets c e
  let ps := restorePairs c e
  let step := if c.n 1 = 1 then BitVec.ofNat 64 (c.d 2) else (us.headD default).step
  if ms.isEmpty then (s.useFresh, some (reportResult e c stSHARD_MISSING (missingReport us ts ps (fun _ _ => false) s.fresh)))
  else if us.any fun m => m.step != step then (s, some (reportResult e c stMIXED_STEP (mixedReport ms)))
  else
    let miss := missingReport us ts ps (fun _ _ => false) s.fresh
    if !miss.isEmpty then (s.useFresh, some (reportResult e c stSHARD_MISSING miss))
    else
      let ns := neededShards us ts ps
      let ws := shardWants ls ns
      if c.stage = 2 then (s.beginReads c.id 3 ws, none)
      else if !c.answered ws then (s, none)
      else
        let bad := fun (loc j : Nat) => ns.any fun (m, i, l) => m.loc == loc && i == j && (shardRead c m i l).isNone
        let miss := missingReport us ts ps bad s.fresh
        if !miss.isEmpty then (s.useFresh, some (reportResult e c stSHARD_MISSING miss))
        else if !(ts.all fun t => ((e.alloc? t.handle).map (restoredScaleOk c us t)).getD true) ||
            !(restoredRecords c us ps).all genStateOk then (s, some Result.badState)
        else (s, some (restoreResult s c e us step))

def runCkpRestore (s : State) (c : Cmd) (e : Env) : State × Option Result :=
  let ls := restoreLocs c e
  if c.stage = 0 then
    checked s c (restoreFields c e)
      (e.serving && (e.entries (c.a 0) 64).all (fun w => sourceOk w && (sourceOf w).storage) && (restoreTargets c e).all (targetOk e) &&
        (e.entries (c.a 4) 8).all pairOk4 && s.ctxsOk e.part.num ((restorePairs c e).map (·.2.2)))
      [((c.a 0).handle, (c.a 0).off, 64 * (c.a 0).count), ((c.a 3).handle, (c.a 3).off, 32 * (c.a 3).count),
        ((c.a 4).handle, (c.a 4).off, 8 * (c.a 4).count)] [] e fun s =>
      if ls.any fun d => !s.portFitted d.port then (s, some (Result.bare stUNSUPPORTED))
      else (s.beginReads c.id 1 (headWants ls), none)
  else if !c.answered (headWants ls) then (s, none)
  else if c.stage = 1 then (s.beginReads c.id 2 (listWants c ls), none)
  else if !c.answered (listWants c ls) then (s, none)
  else restoreDecide s c e

def execCkpRestore (c : CmdId) (s : State) : Answer := runOp 0x0903 c s runCkpRestore

/-- The parts of a restored context: its generators, scale files and tables (R356); the rest stays (R357). -/
def Ctx.restored (x n : Ctx) : Ctx :=
  { x with seed := n.seed, det := n.det, gens := n.gens, scale := n.scale, temp := n.temp, custom := n.custom }

/-- The commit of a restore, besides its writes (R358). -/
def commitCkpRestore (s : State) (n : Nat) (step : W64) (ctxs : List Ctx) (epochs : List (W32 × W32)) (targets : List W32) : State :=
  let s := s.modPart n fun q => { q with step := step }
  let s := ctxs.foldl (fun (s : State) x => s.modCtx x.id fun y => y.restored x) s
  let learned := targets.filter fun h => ((s.alloc? n h).map (·.tcopy.isSome)).getD false
  let s := learned.foldl (fun (s : State) h =>
    let e := (epochs.find? (·.1 == h)).map (·.2)
    s.modAlloc n h fun a => { a.queueBlocks (List.range a.blockCount) e with epoch := e.getD a.epoch }) s
  if learned.isEmpty then s else s.modPart n fun q => { q with epo := { q.epo with serves := false } }

/-! ## CKP_STATUS (0x0904): OUT -/

/-- The status record (Table 13-9). -/
def ckpStatus (p : Part) : List Byte :=
  let k := p.ckp
  let st := match k.drain with | none => 0 | some d => if d.stage = 0 then 2 else 1
  leBytes 4 (st + k.lastFail % 256 * 2 ^ 8) ++
  leBytes 4 (k.newest.getD 15 + ((k.drain.map (·.set)).getD 0) * 16) ++ leBytes 8 p.step.toNat ++ leBytes 8 k.lastSeq.toNat ++
  leBytes 8 k.lastStep.toNat ++ leBytes 4 k.reserve ++ leBytes 4 ((k.drain.map (·.reserve.length)).getD 0) ++ leBytes 4 k.peak ++
  leBytes 4 ((k.drain.map (·.pages.length)).getD 0) ++ leBytes 4 k.taken ++ leBytes 4 k.completed ++ leBytes 4 k.failed ++
  leBytes 4 k.skipped ++ leBytes 8 k.stallUs ++ leBytes 4 k.deferrals ++ leBytes 4 0

def runCkpStatus (s : State) (c : Cmd) (e : Env) : State × Option Result :=
  checked s c (bufferChecks e (c.off 0) (c.t 0) 80) true [] [] e fun s =>
    (s, some { Result.bare stOK with writes := [rawWrite (c.t 0).handle (c.t 0).off (ckpStatus e.part)] })

def execCkpStatus (c : CmdId) (s : State) : Answer := runOp 0x0904 c s runCkpStatus

/-- The record is that of the commit (R359). -/
def statusWrite (s : State) (c : Cmd) : List TWrite :=
  match s.part? (s.cmdPart c.id) with
  | some p => [rawWrite (c.t 0).handle (c.t 0).off (ckpStatus p)]
  | none => []

end Sys2Proof.Machine
end

