-- ==== Sys2Proof/Machine/Layers.lean ====
section
/-!
DEFINITION. The layers of a learning step (spec 09 R225 to R238; 04 R99, R100): forward passes with what they save, the
derivatives of Table 4-4, backward passes, weight gradients, and the work items of R229. What the compiled commands of a
plan say of a layer, and what stands between one layer's output and the next one's operand, is open (log 8).
-/
namespace Sys2Proof.Machine

def PlanEntry.keep (p : PlanEntry) : Bool := bitAt p.ctrl 0
def PlanEntry.wStoch (p : PlanEntry) : Bool := bitAt p.ctrl 1
def PlanEntry.sStoch (p : PlanEntry) : Bool := bitAt p.ctrl 2
def PlanEntry.gradFmt (p : PlanEntry) : Byte := BitVec.ofNat 8 (field p.ctrl 15 8)
def PlanEntry.hist (p : PlanEntry) : Nat := if field p.ctrl 19 16 = 0 then 15 else field p.ctrl 19 16
def PlanEntry.margin (p : PlanEntry) : Nat := field p.ctrl 22 20

/-- D of a guarded output from its history (R237): `code` its format. -/
def historyScale (code margin : Nat) (hist : List W32) : W32 :=
  match amaxOf (hist.map decode32) |> decode32 with
  | .num _ n d =>
    if n = 0 then one32
    else
      let (tn, td) := blockTop code
      let x := ceilLog2Frac (n * 2 ^ margin * td) (d * tn)
      encode32 (Val.pow false 1 (if x < -126 then -126 else if x > 127 then 127 else x))
  | _ => one32

/-! ## Functions and their derivatives (spec 04 Table 4-4) -/

def fnIdentity : Nat := 0x20
def fnReLU : Nat := 0x21
def fnSoftmax : Nat := 0x22
def fnLogSoftmax : Nat := 0x23

/-- A function that a layer may have, by its code in Table 4-1 or one of the four above; another code is the identity. -/
def layerFn (f : Nat) : Nat := if sfuCodeOk f || f == fnReLU || f == fnSoftmax || f == fnLogSoftmax then f else fnIdentity

/-- The function of a layer on a row. -/
def fnRow (cv : W16) (custom : Nat → Option (List W32)) (f : Nat) (z : List W32) : List W32 :=
  if f = fnIdentity then z
  else if f = fnReLU then z.map (activation cv 1)
  else if f = fnSoftmax then softmaxRow cv one32 z
  else if f = fnLogSoftmax then logSoftmaxRow cv one32 z
  else if 0x10 ≤ f then z.map fun x => ((custom f).map fun ws => customEval ws x).getD nan32
  else z.map (sfu cv f)

/-- What a function saves for its backward pass. -/
inductive Route where
  | nothing | output | input | pre
deriving DecidableEq, Repr, Inhabited

def routeOf (f : Nat) : Route :=
  if f = fnIdentity then .nothing
  else if f = 0x01 ∨ f = 0x02 then .input
  else if (0x07 ≤ f ∧ f ≤ 0x0A) ∨ (0x10 ≤ f ∧ f ≤ 0x13) then .pre
  else .output

/-- The format code of a pre-activation that is saved: FP8 E4M3 without block scaling (R100). -/
def preFmt : Byte := 3#8

/-- The slope of a custom table at an operand: of its line, or of the cubic of its segment (DESIGN CHOICE of the operations,
log 66). -/
def customSlope (ws : List W32) (x : W32) : W32 :=
  let g := fun i => ws.getD i 0#32
  if isNan x then nan32
  else match decode32 (fmul (fsub x (g 0)) (g 1)) with
    | .num neg n d =>
      if neg && n != 0 then g 2
      else if n ≥ 256 * d then g 4
      else
        let i := n / d
        let t := encode32 (.num false (n % d) d)
        let c := fun k => g (6 + 4 * i + k)
        fmul (ffma (ffma (fmul 0x40400000#32 (c 3)) t (fmul 0x40000000#32 (c 2))) t (c 1)) (g 1)
    | .inf true => g 2
    | .inf false => g 4
    | .nan => nan32

/-- k = √(2/π), 0.044715, 0.134145 and ln 2 to nearest even. -/
def geluK : W32 := 0x3F4C422A#32
def geluA : W32 := 0x3D372713#32
def geluB : W32 := 0x3E095D4F#32
def ln2 : W32 := 0x3F317218#32
def half32 : W32 := 0x3F000000#32

/-- The derivative of an element-wise function from its saved value (Table 4-4), each operation rounded to nearest even in
the order in which the formula is written. -/
def derivative (cv : W16) (custom : Nat → Option (List W32)) (f : Nat) (v : W32) : W32 :=
  let sq := fmul v v
  let sig := sfu cv 5 v
  if f = fnIdentity then one32
  else if f = fnReLU then (if isNan v then nan32 else if flt 0#32 v then one32 else 0#32)
  else match f with
    | 0x00 => v
    | 0x01 => sfu cv 3 (fmul v ln2)
    | 0x02 => sfu cv 3 v
    | 0x03 => fneg sq
    | 0x04 => fneg (fmul half32 (fmul sq v))
    | 0x05 => fmul v (fsub one32 v)
    | 0x06 => fsub one32 sq
    | 0x07 => fmul sig (fadd one32 (fmul v (fsub one32 sig)))
    | 0x08 => fadd (Config.normal cv false v) (fmul v (Config.normal cv true v))
    | 0x09 =>
      let t := sfu cv 6 (fmul geluK (fadd v (fmul geluA (fmul sq v))))
      fadd (fmul half32 (fadd one32 t))
        (fmul (fmul (fmul (fmul half32 v) (fsub one32 (fmul t t))) geluK) (fadd one32 (fmul geluB sq)))
    | 0x0A => sig
    | _ => ((custom f).map fun ws => customSlope ws v).getD nan32

/-- The gradient at a function's operand from that at its result (Table 4-4): `vs` is what it saved. -/
def backRow (cv : W16) (custom : Nat → Option (List W32)) (f : Nat) (vs dy : List W32) : List W32 :=
  if f = fnSoftmax then
    let t := pairSum ((List.range dy.length).map fun i => fmul (nth dy i) (nth vs i))
    (List.range dy.length).map fun i => fmul (nth vs i) (fsub (nth dy i) t)
  else if f = fnLogSoftmax then
    let t := pairSum dy
    (List.range dy.length).map fun i => fsub (nth dy i) (fmul (fexp cv (nth vs i)) t)
  else if f = fnIdentity then dy
  else (List.range dy.length).map fun i => fmul (nth dy i) (derivative cv custom f (nth vs i))

/-! ## A step's layers -/

/-- A layer as a step works with it: its entry, the weight that the step bound, its function, whether it is gated, its formats,
and the conversion control of its output, which rounds to nearest even where KEEP is clear (R231). -/
structure Layer where
  index : Nat
  entry : PlanEntry
  w : Alloc
  fn : Nat
  gate : Bool
  inFmt : Byte
  outFmt : Byte
  backFmt : Byte
  argFmt : Byte
  conv : Nat
deriving DecidableEq, Repr, Inhabited

def Layer.outs (l : Layer) : Nat := if l.gate then l.w.cols / 2 else l.w.cols

/-- The layers of a plan over the weights that a step bound. -/
def layersOf (l : LearnPlan) (weight : W32 → Option Alloc) : List Layer :=
  ((List.range l.entries.length).zip l.entries).filterMap fun (k, p) => (weight p.weight).map fun w =>
    let gate := Config.layerGate l.commands k && w.cols % 128 == 0
    let n := if gate then w.cols / 2 else w.cols
    let cv := Config.layerConv l.commands k % 4
    { index := k, entry := p, w := w, fn := layerFn (Config.layerFun l.commands k), gate := gate,
      inFmt := rowFmt (Config.layerFmt l.commands k 0) w.rows, outFmt := tensorFmt (Config.layerFmt l.commands k 1) n,
      backFmt := rowFmt (Config.layerFmt l.commands k 2) w.cols, argFmt := tensorFmt (Config.layerFmt l.commands k 3) n,
      conv := if p.keep then cv else cv - cv % 2 }

/-- The outputs of a layer by ordinal, eight numbers for each: operand row, output, saved value, saved up value, backward row,
GRAD (log 8). -/
def layerOrdinal (k i : Nat) : Nat := 8 * k + i

/-- The format of the saved value of a layer's function, where that is no output that the layer writes anyway. -/
def Layer.savedFmt (l : Layer) : Option Byte :=
  match routeOf l.fn with
  | .nothing => if l.gate then some l.outFmt else none
  | .output => if l.gate then some (if l.fn = fnLogSoftmax then 0#8 else l.outFmt)
      else if l.fn = fnLogSoftmax then some 0#8 else none
  | .input => some l.argFmt
  | .pre => some preFmt

/-- The bytes that a layer keeps for n positions (R230): for KEEP its saved values, else the operand of the first layer of
a segment. -/
def Layer.kept (l : Layer) (first : Bool) (n : Nat) : Nat :=
  if l.entry.keep then
    (match l.savedFmt with
     | some f => shapeBytes f n l.outs
     | none => if routeOf l.fn = .output then shapeBytes l.outFmt n l.outs else 0) +
      (if l.gate then shapeBytes l.outFmt n l.outs else 0)
  else if first then shapeBytes l.inFmt n l.w.rows else 0

/-- Layers with whether each is the first of a segment: a maximal run with KEEP clear (R230). -/
def withSegments (prev : Bool) : List Layer → List (Layer × Bool)
  | [] => []
  | l :: r => (l, prev && !l.entry.keep) :: withSegments l.entry.keep r

/-- The bytes that n positions keep in the activation pool. -/
def keptBytes (ls : List Layer) (n : Nat) : Nat := sumBy (fun x => x.1.kept x.2 n) (withSegments true ls)

/-! ## Micro-batches (R227) -/

/-- A trajectory: the tokens of its prompt followed by those of its records, and its records. -/
structure Seq where
  tokens : List W32
  recs : List ERec
deriving DecidableEq, Repr, Inhabited

/-- The positions that the model reads: the last record's token is not an input. -/
def Seq.len (q : Seq) : Nat := q.tokens.length - 1

/-- Trajectory i of n goes to micro-batch i × M / n: whole trajectories in source order (R227; DESIGN CHOICE of how many,
log 8). -/
def microBatches (m : Nat) (qs : List Seq) : List (List Seq) :=
  (List.range m).map fun b => ((List.range qs.length).zip qs).filterMap fun (i, q) => if i * m / qs.length = b then some q else none

/-- A position of a micro-batch: the first row of its trajectory, its place there, and the tokens of its trajectory. -/
structure Place where
  lo : Nat
  at_ : Nat
  tokens : List W32
deriving DecidableEq, Repr, Inhabited

def Place.row (p : Place) : Nat := p.lo + p.at_

/-- The positions of a micro-batch whose first row is `lo`, one row each. -/
def placesFrom (lo : Nat) : List Seq → List Place
  | [] => []
  | q :: r => (List.range q.len).map (fun i => { lo := lo, at_ := i, tokens := q.tokens }) ++ placesFrom (lo + q.len) r

/-! ## The forward pass -/

/-- What every pass of a step works with: the command and what it works on, the coefficient set, the commands of the plan,
the custom tables it bound, and D of each output by ordinal, layer and format. -/
structure Learn where
  c : Cmd
  e : Env
  commands : List Byte
  custom : Nat → Option (List W32)
  scale : Nat → Layer → Byte → W32

/-- A layer of a micro-batch that the forward pass has run: operand rows, outputs, and saved values. -/
structure LayerRun where
  layer : Layer
  x : Alloc
  out : Alloc
  saved : Option Alloc
  up : Option Alloc
deriving DecidableEq, Repr, Inhabited

def Alloc.rowsOf (a : Alloc) (lo n : Nat) : List (List W32) := (List.range n).map fun i => a.values ((lo + i) * a.cols) a.cols

/-- The output rows of layers, up to a position of its trajectory. -/
def seenAt (rs : List LayerRun) (p : Place) : List (List (List W32)) := rs.map fun l => l.out.rowsOf p.lo (p.at_ + 1)

/-- The random bits of an output whose first element has the index `base`: those of R69 for a stochastic conversion. An ordinal
past 255 takes positions of its own, so that no two elements share bits (log 8). -/
def Learn.bits (g : Learn) (ordinal base : Nat) (code conv n : Nat) (x : Drawer) : List (Option Nat) × Drawer :=
  if !convStoch conv || code = 0 then (List.replicate n none, x)
  else if g.e.det then ((detPiecesFrom g.e.seed g.c.seq ordinal (stochBits code) (ordinal / 256 * 2 ^ 40 + base) n).map some, x)
  else
    let (ps, x) := x.pieces (fun i => g.c.spot g.e ordinal (base + i)) (stochBits code) n
    (ps.map some, x)

/-- What the passes of a step have formed so far. -/
structure Tally where
  x : Drawer
  made : Tab Made
deriving DecidableEq, Repr, Inhabited

/-- Rows encoded into a tensor of a layer. -/
def Learn.keepRows (g : Learn) (l : Layer) (i : Nat) (fmt : Byte) (conv base : Nat) (cols : Nat) (rows : List (List W32)) (t : Tally) :
    Alloc × Tally :=
  let o := layerOrdinal l.index i
  let n := rows.length * cols
  let (bits, x) := g.bits o (base * cols) (fmtCode fmt) conv n t.x
  let (a, w) := (scratch fmt (g.scale o l fmt) rows.length cols).filled conv bits
    (rows.flatMap fun r => (List.range cols).map (nth r))
  (a, { x := x, made := noteMade t.made o a w })

/-- The gate and up halves of a row of products (spec 02 R42). -/
def gateHalf (z : List W32) (up : Bool) : List W32 :=
  (List.range (z.length / 2)).map fun i => nth z (i / 64 * 128 + i % 64 + if up then 64 else 0)

/-- A layer over the positions of a micro-batch: operand rows, products, function, output, and what is saved (R230; spec 02
R43; 04 R100). -/
def Learn.forward (g : Learn) (base : Nat) (ps : List Place) (l : Layer) (rs : List LayerRun) (t : Tally) : LayerRun × Tally :=
  let (x, t) := g.keepRows l 0 l.inFmt 0 base l.w.rows (ps.map fun p =>
    Config.learnIn g.e.coef g.commands l.index (p.tokens.take (p.at_ + 1)) (seenAt rs p)) t
  let zs := (List.range ps.length).map (x.times l.w)
  let args := if l.gate then zs.map (gateHalf · false) else zs
  let ups := zs.map (gateHalf · true)
  let acts := args.map (fnRow g.e.coef g.custom l.fn)
  let outs := if l.gate then (acts.zip ups).map fun (a, u) => (List.range a.length).map fun i => fmul (nth a i) (nth u i) else acts
  let (out, t) := g.keepRows l 1 l.outFmt l.conv base l.outs outs t
  let (saved, t) := match l.savedFmt with
    | none => (none, t)
    | some f =>
      let (a, t) := g.keepRows l 2 f 0 base l.outs (if routeOf l.fn = .input ∨ routeOf l.fn = .pre then args else acts) t
      (some a, t)
  let (up, t) := if l.gate then
      (let (a, t) := g.keepRows l 3 l.outFmt 0 base l.outs ups t
       (some a, t))
    else (none, t)
  ({ layer := l, x := x, out := out, saved := saved, up := up }, t)

/-- The forward items of a micro-batch, layer by layer in plan order (R229). -/
def Learn.forwards (g : Learn) (base : Nat) (ps : List Place) : List Layer → List LayerRun → Tally → List LayerRun × Tally
  | [], rs, t => (rs, t)
  | l :: r, rs, t =>
    let (x, t) := g.forward base ps l rs t
    g.forwards base ps r (rs ++ [x]) t

/-- A micro-batch after its forward pass: its trajectories, positions and layers. -/
structure Batch where
  seqs : List Seq
  places : List Place
  runs : List LayerRun
deriving DecidableEq, Repr, Inhabited

/-- The forward passes of the micro-batches, in order; `base` counts the rows before. -/
def Learn.batches (g : Learn) (ls : List Layer) : Nat → List (List Seq) → Tally → List Batch × Tally
  | _, [], t => ([], t)
  | base, qs :: r, t =>
    let ps := placesFrom 0 qs
    let (rs, t) := g.forwards base ps ls [] t
    let (bs, t) := g.batches ls (base + ps.length) r t
    ({ seqs := qs, places := ps, runs := rs } :: bs, t)

/-- The score row of a record: the model's output at the position before its own; what that is where the model has read none is
open (log 8). -/
def Learn.scores (g : Learn) (b : Batch) (lo : Nat) (q : Seq) (r : ERec) : List W32 :=
  match b.places.find? fun p => p.lo == lo && p.at_ + 1 == r.position.toNat with
  | some p => Config.learnScores g.e.coef g.commands (p.tokens.take (p.at_ + 1)) (seenAt b.runs p)
  | none => Config.learnScores g.e.coef g.commands q.tokens []

/-- The score rows of the records of trajectories from row `lo` on, in source order. -/
def Learn.scoreRows (g : Learn) (b : Batch) : Nat → List Seq → List (List W32)
  | _, [] => []
  | lo, q :: r => q.recs.map (g.scores b lo q) ++ g.scoreRows b (lo + q.len) r

/-! ## The backward pass -/

/-- A layer of a micro-batch that the backward pass has run: its backward rows and the gradients at its operand. -/
structure LayerBack where
  run : LayerRun
  g : Alloc
  dx : List (List W32)
deriving DecidableEq, Repr, Inhabited

/-- The gradients at a layer's products, from those at its output (spec 04 R99; 02 R43). -/
def Learn.productGrads (g : Learn) (r : LayerRun) (i : Nat) (dy : List W32) : List W32 :=
  let l := r.layer
  let vs := ((r.saved.getD r.out).rowsOf i 1).headD []
  if l.gate then
    let ups := (((r.up.getD r.out).rowsOf i 1).headD [])
    let act := match routeOf l.fn with
      | .pre => fnRow g.e.coef g.custom l.fn vs
      | .input => fnRow g.e.coef g.custom l.fn vs
      | _ => vs
    let da := backRow g.e.coef g.custom l.fn vs ((List.range l.outs).map fun j => fmul (nth dy j) (nth ups j))
    let du := (List.range l.outs).map fun j => fmul (nth dy j) (nth act j)
    (List.range l.w.cols).map fun j => if j % 128 < 64 then nth da (j / 128 * 64 + j % 64) else nth du (j / 128 * 64 + j % 64)
  else backRow g.e.coef g.custom l.fn vs ((List.range l.outs).map (nth dy))

/-- The backward items of a layer: the rows that its weight gradient and its operand gradient come from, and the product with
its transposed copy. -/
def Learn.backward (g : Learn) (b : Batch) (dss : List (List W32)) (done : List LayerBack) (r : LayerRun) (t : Tally) : LayerBack × Tally :=
  let dys := b.places.map fun p =>
    let n := b.places.countP (·.lo == p.lo)
    Config.backIn g.e.coef g.commands (r.layer.index, p.at_) p.tokens (b.runs.map fun l => l.out.rowsOf p.lo n)
      ((List.range n).map fun i => dss.getD (p.lo + i) []) (done.map fun d => (List.range n).map fun i => d.dx.getD (p.lo + i) [])
  let (a, t) := g.keepRows r.layer 4 r.layer.backFmt 0 0 r.layer.w.cols
    (((List.range dys.length).zip dys).map fun (i, dy) => g.productGrads r i dy) t
  ({ run := r, g := a, dx := (List.range dys.length).map (a.times (r.layer.w.transposed.getD r.layer.w)) }, t)

/-- The backward items of a micro-batch in reverse plan order (R229). -/
def Learn.backwards (g : Learn) (b : Batch) (dss : List (List W32)) : List LayerRun → List LayerBack → Tally → List LayerBack × Tally
  | [], done, t => (done, t)
  | r :: rest, done, t =>
    let (d, t) := g.backward b dss done r t
    g.backwards b dss rest (done ++ [d]) t

/-- The score gradients of a micro-batch by row: of the record whose score row that row's output is. -/
def scoreGrads (lo : Nat) (dxs : List (List W32)) : List Seq → List (List W32)
  | [] => []
  | q :: r =>
    (List.range q.len).map (fun i => (((List.range q.recs.length).zip q.recs).findSome? fun (k, x) =>
      if x.position.toNat = i + 1 then dxs[lo + k]? else none).getD []) ++ scoreGrads (lo + q.recs.length) dxs r

/-- The backward passes of the micro-batches, in order; `lo` counts the records before. -/
def Learn.allBack (g : Learn) (dxs : List (List W32)) : Nat → List Batch → Tally → List (Batch × List LayerBack) × Tally
  | _, [], t => ([], t)
  | lo, b :: r, t =>
    let (ds, t) := g.backwards b (scoreGrads lo dxs b.seqs) b.runs.reverse [] t
    let (bs, t) := g.allBack dxs (lo + sumBy (fun q => q.recs.length) b.seqs) r t
    ((b, ds) :: bs, t)

/-! ## Weight gradients (R232, R248) -/

/-- The contribution of some positions to a weight's gradient at (i, j): products of operand rows with backward rows, summed
as R37 sums a pair of their formats, in increasing position. -/
def crossSum (x g : Alloc) (i j : Nat) (ps : List Nat) : W32 :=
  let prod := fun (p : Nat) => ((x.raw (p * x.cols + i)).mul (x.scaleVal (p * x.cols + i))).mul
    ((g.raw (p * g.cols + j)).mul (g.scaleVal (p * g.cols + j)))
  let groups := if is16 x.code || is16 g.code then ps.map fun p => [p]
    else (kGroups ps.length).map fun l => l.map fun k => ps.getD k 0
  let acc := groups.foldl (fun acc l => encode32 ((decode32 acc).add (sumVals (l.map prod)))) 0#32
  encode32 (stage3 x g none (decode32 acc))

/-- The sum over micro-batches, in increasing order (R232): none without a contribution. -/
def gradientAt (commands : List Byte) (k i j : Nat) (bs : List (Batch × List LayerBack)) : Option W32 :=
  bs.foldl (fun t (b, ds) =>
    match ds.find? (·.run.layer.index == k) with
    | none => t
    | some d =>
      let ps := ((List.range b.places.length).zip b.places).filterMap fun (n, p) =>
        if Config.layerReads commands k (nth p.tokens p.at_) i then some n else none
      if ps.isEmpty then t
      else
        let v := crossSum d.run.x d.g i j ps
        some (match t with | none => v | some u => fadd u v)) none

/-- The gradient of a weight that several entries share sums their layers', in plan order. -/
def tiedGradientAt (commands : List Byte) (ks : List Nat) (i j : Nat) (bs : List (Batch × List LayerBack)) : Option W32 :=
  ks.foldl (fun t k => match t, gradientAt commands k i j bs with
    | none, v => v
    | some u, some v => some (fadd u v)
    | some u, none => some u) none

/-- The sums of the blocks of a gradient: none for a block without a contribution, and for a frozen one (R249). -/
def blockSums (commands : List Byte) (ks : List Nat) (w : Alloc) (blocks : Nat) (bs : List (Batch × List LayerBack)) :
    List (Option (List W32)) :=
  (List.range blocks).map fun b =>
    if w.frozen.contains b || w.cols = 0 then none
    else
      let l := (List.range (min 64 (w.elements - 64 * b))).map fun i =>
        tiedGradientAt commands ks ((64 * b + i) / w.cols) ((64 * b + i) % w.cols) bs
      if l.any (·.isSome) then some (l.map (·.getD 0#32)) else none

/-! ## The activation pool (R230, R232) -/

/-- The bytes of a tensor that a step keeps. -/
def Alloc.whole (a : Alloc) : List Byte := a.bytes 0 (shapeBytes a.fmt a.rows a.cols)

/-- What a layer keeps of a micro-batch. -/
def LayerRun.keeps (r : LayerRun) (first : Bool) : List Byte :=
  if r.layer.entry.keep then
    (match r.saved with
     | some a => a.whole
     | none => if routeOf r.layer.fn = .output then r.out.whole else []) ++ ((r.up.map Alloc.whole).getD [])
  else if first then r.x.whole else []

/-- The most that two micro-batches in succession keep. -/
def poolNeed (ls : List Layer) : List Nat → Nat
  | [] => 0
  | [n] => keptBytes ls n
  | n :: m :: r => max (keptBytes ls n + keptBytes ls m) (poolNeed ls (m :: r))

/-- The bytes that the forward passes leave in the pool: micro-batches of even number from its first byte on, the others up to
the end of the room that the step needs (DESIGN CHOICE, log 8). -/
def poolBytes (need : Nat) (bs : List Batch) : List (Nat × Byte) :=
  ((List.range bs.length).zip bs).flatMap fun (m, b) =>
    let l := (b.runs.zip (withSegments true (b.runs.map (·.layer)))).flatMap fun (r, _, first) => r.keeps first
    let lo := if m % 2 = 0 then 0 else need - l.length
    ((List.range l.length).zip l).map fun (i, x) => (lo + i, x)

/-! ## Work items (R229) -/

/-- A product of a step: its class, micro-batch, layer, and whether it forms a weight gradient. -/
structure StepItem where
  cls : ItemClass
  batch : Nat
  layer : Nat
  grad : Bool
deriving DecidableEq, Repr, Inhabited

/-- The segments of a plan, lowest first, as layer numbers. -/
def segmentsOf (ls : List Layer) : List (List Nat) :=
  (((List.range ls.length).zip ls).foldl (fun (acc : List (List Nat) × Bool) (i, l) =>
    if l.entry.keep then (acc.1, false)
    else match acc.1, acc.2 with
      | s :: r, true => ((s ++ [i]) :: r, true)
      | ss, _ => ([i] :: ss, true)) ([], false)).1.reverse

/-- The backward items of a micro-batch in reverse plan order. The RECOMPUTE items of a segment come before those of the last
layer of the next segment up, those of the top segment before all. -/
def backItems (ls : List Layer) (m : Nat) : List StepItem :=
  let segs := segmentsOf ls
  let again := fun (s : List Nat) => s.map fun k => { cls := .recompute, batch := m, layer := k, grad := false : StepItem }
  let before := fun (k : Nat) => ((List.range segs.length).zip segs).flatMap fun (i, s) =>
    match segs[i + 1]? with
    | some up => if up.getLast? = some k then again s else []
    | none => []
  (segs.getLast?.map again).getD [] ++
  (List.range ls.length).reverse.flatMap fun k => before k ++
    [{ cls := .backward, batch := m, layer := k, grad := false }, { cls := .backward, batch := m, layer := k, grad := true }]

def frontItems (ls : List Layer) (m : Nat) : List StepItem :=
  (List.range ls.length).map fun k => { cls := .forward, batch := m, layer := k, grad := false }

/-- The order of insertion: the forward items of micro-batch 1; for each later one its forward items and the backward items
of the one before; last, the backward items of the last. -/
def stepItems (ls : List Layer) (m : Nat) : List StepItem :=
  (List.range m).flatMap (fun i => frontItems ls i ++ if i = 0 then [] else backItems ls (i - 1)) ++
  (if m = 0 then [] else backItems ls (m - 1))

/-- The item whose outputs an item reads. -/
def StepItem.source (ls : List Layer) (t : StepItem) : Option StepItem :=
  let keep := fun (k : Nat) => ((ls[k]?).map (·.entry.keep)).getD true
  match t.cls with
  | .forward => if t.layer = 0 then none else some { t with layer := t.layer - 1 }
  | .recompute => if t.layer = 0 || keep (t.layer - 1) then none else some { t with layer := t.layer - 1 }
  | .backward => if t.layer + 1 = ls.length then some { t with cls := .forward, grad := false }
      else some { t with layer := t.layer + 1, grad := false }

/-- The product of an item; `handles` is the layer plan that the command traverses, `ns` the positions of the micro-batches. -/
def StepItem.product (ls : List Layer) (handles : List W32) (ns : List Nat) (all : List StepItem) (t : StepItem) : Product :=
  let w := ((ls[t.layer]?).map (·.w)).getD default
  let x := ((ls[t.layer]?).map fun l => fmtCode l.inFmt).getD 0
  let g := ((ls[t.layer]?).map fun l => fmtCode l.backFmt).getD 0
  let n := ns.getD t.batch 0
  let src := (t.source ls).bind fun s => all.findIdx? (· == s)
  match t.cls, t.grad with
  | .backward, true => { cls := .backward, src := src, weight := fun _ _ => .home, m := w.rows, k := n, n := w.cols, kPass := kPerPass x g }
  | .backward, false =>
    { cls := .backward, src := src, weight := fun b j => .transposed w.handle (w.passBlocks (kPerPass g w.code) b j), m := n,
      k := w.cols, n := w.rows, kPass := kPerPass g w.code }
  | cls, _ =>
    { cls := cls, src := src
      weight := fun _ _ => match handles.findIdx? (· == w.handle) with | some i => .entry i | none => .home
      m := n, k := w.rows, n := w.cols, kPass := kPerPass x w.code }

def stepProducts (ls : List Layer) (handles : List W32) (ns : List Nat) : List Product :=
  let all := stepItems ls ns.length
  all.map (StepItem.product ls handles ns all)

end Sys2Proof.Machine
end

