-- ==== Sys2Proof/Machine/Learning.lean ====
section
/-!
DEFINITION. Learning plans, learning steps and freeze masks (spec 09 R224-R238, R248, R249).
-/
namespace Sys2Proof.Machine

/-! ## Parameter blocks (R226) -/

def zeroVal : Val := .num false 0 1

/-- Blocks of 64 elements in row-major order; the last may be partial. -/
def Alloc.paramBlocks (a : Alloc) : Nat := (a.elements + 63) / 64
def Alloc.blockLen (a : Alloc) (b : Nat) : Nat := min 64 (a.elements - 64 * b)

/-! ## LEARN_PLAN (0x0501): ENTRIES, COMMANDS, POOL, M_MAX -/

/-- A plan entry of Table 9-2. -/
def planEntryOf (w : List W32) : PlanEntry :=
  { weight := w.getD 0 0#32, master := w.getD 1 0#32, grad := w.getD 2 0#32, states := (List.range 4).map fun i => w.getD (3 + i) 0#32,
    ctrl := w.getD 7 0#32 }

/-- GRAD_FMT: FP32, BF16, FP8 with or without block scaling, block-scaled INT8 (R236). -/
def gradFmtOk (f : Byte) : Bool :=
  fmtOk f && (match fmtCode f with
    | 0 => true
    | 1 => true
    | 3 => true
    | 4 => true
    | 8 => fmtBlock f
    | _ => false)

/-- The formats of a state slot (R226). -/
def stateFmtOk (f : Byte) : Bool :=
  match fmtCode f with
  | 0 => true
  | 1 => true
  | 3 => fmtBlock f
  | 4 => fmtBlock f
  | 8 => fmtBlock f
  | _ => false

def sameShape (a b : Alloc) : Bool := a.rows == b.rows && a.cols == b.cols

def Alloc.isPlain (a : Alloc) : Bool := match a.role with | .plain => true | _ => false

/-- An entry on its own (R226; Table 9-2). -/
def planEntryOk (e : Env) (p : PlanEntry) : Bool :=
  match e.alloc? p.weight, e.alloc? p.grad with
  | some w, some g =>
    w.rank == 2 && w.isPlain && g.isPlain && (!w.block || (fmtRowK w.fmt && w.cols % 32 == 0)) &&
    (p.master == 0#32 || ((e.alloc? p.master).map fun m => m.fmt == 0#8 && m.isPlain && sameShape m w).getD false) &&
    sameShape g w && g.fmt == p.gradFmt && gradFmtOk p.gradFmt &&
    p.states.all (fun h => h == 0#32 ||
      ((e.alloc? h).map fun a => stateFmtOk a.fmt && a.isPlain && a.elements == w.elements && a.elements % 32 == 0).getD false) &&
    (p.ctrl &&& 0xFF8000F8#32 == 0#32)
  | _, _ => false

def PlanEntry.named (p : PlanEntry) : List W32 := ([p.weight, p.master, p.grad] ++ p.states).filter (· != 0#32)

/-- Two entries: tied, with everything but CTRL the same, or with no handle in common. -/
def entriesAgree (a b : PlanEntry) : Bool :=
  if a.weight = b.weight then a.master == b.master && a.grad == b.grad && a.states == b.states
  else a.named.all fun h => !b.named.contains h

def entriesOk : List PlanEntry → Bool
  | [] => true
  | a :: r => r.all (entriesAgree a) && entriesOk r

/-- An uncompleted command of the context has bound its learning plan. -/
def State.planBound (s : State) (c : Cmd) : Bool :=
  s.cmds.any fun k => k.ctx == c.ctx && k.id != c.id && bindsLearning k.opcode && decide (0 < k.attempts)

def runLearnPlan (s : State) (c : Cmd) (e : Env) : State × Option Result :=
  let r := c.a 0
  let l := c.a 1
  let ps := (e.entries r 32).map planEntryOf
  let cmds := ((e.firstAlloc? l.handle).map fun a => a.bytes l.off l.count).getD []
  checked s c
    [ (c.off 0, decide (1 ≤ r.count) && decide (r.count ≤ 4096) && e.arrayOk r 32), (c.off 1, e.arrayOk l 1),
      (c.off 2, ((e.alloc? (c.w 2)).map fun a => a.home != .ddr).getD false),
      (c.off 3, decide (1 ≤ c.n 3) && decide (c.n 3 ≤ 64)) ]
    (ps.all (planEntryOk e) && entriesOk ps) [(r.handle, r.off, 32 * r.count), (l.handle, l.off, l.count)] [] e fun s =>
    if s.planBound c then (s, none)
    else (s, some (Result.ok (.learnPlan { entries := ps, commands := cmds, pool := c.w 2, mMax := c.n 3, histories := [] })))

def execLearnPlan (c : CmdId) (s : State) : Answer := runOp 0x0501 c s runLearnPlan

/-- A transposed copy beside a weight, and no block frozen (R225, R249). -/
def Alloc.withTransposed (a : Alloc) : Alloc :=
  let a := { a with frozen := [] }
  match a.tcopy with
  | some _ => a
  | none =>
    let t : TCopy := { mem := [], tags := [], queued := [], jobs := [], inProgress := none }
    (List.range a.blockCount).foldl (fun (a : Alloc) b => a.transposeBlock b) { a with tcopy := some t }

/-- The plan is set at commit, when the transposed copies fit (R225; spec 01 R20). -/
def commitLearnPlan (s : State) (c : Cmd) (l : LearnPlan) (r : Result) : State × Result :=
  let n := s.cmdPart c.id
  let t := (s.modCtx c.ctx fun x => { x with learn := some l }).dropCopies n
  let t := (l.entries.map (·.weight)).eraseDups.foldl (fun (t : State) h => t.modAlloc n h Alloc.withTransposed) t
  match s.part? n with
  | none => (s, Result.badState)
  | some p =>
    if !(l.entries.all fun x => (s.alloc? n x.weight).isSome) then (s, Result.badState)
    else if t.slicesOk p then (t, r) else (s, Result.bare stNO_RESOURCE)

/-! ## LEARN_STEP (0x0502): the loss configuration (Table 9-3) -/

structure LossCfg where
  c : W32
  eps : W32
  dual : W32
  beta : W32
  eCur : W32
  maxLag : Nat
  late : W32
  wts : W32
  norm : Nat
  k : W32
  advNorm : Bool
  advEps : W32
deriving DecidableEq, Repr, Inhabited

def lossCfg (c : Cmd) : LossCfg :=
  { c := c.w 4, eps := c.w 5, dual := c.w 6, beta := c.w 7, eCur := c.w 8, maxLag := c.n 9, late := c.w 10, wts := c.w 11,
    norm := c.n 12, k := c.w 13, advNorm := c.n 14 == 1, advEps := c.w 15 }

/-- The plan that a command bound at its first dispatch (R228). -/
def Env.plan (e : Env) : Option LearnPlan := e.first.ctx.bind (·.learn)
def Env.plan! (e : Env) : LearnPlan :=
  e.plan.getD { entries := [], commands := [], pool := 0#32, mMax := 0, histories := [] }

/-- A record as EXP_GATHER writes it (spec 08 Table 8-1). -/
def recordOf (w : List W32) : ERec :=
  { token := w.getD 0 0#32, logp := w.getD 1 0#32, value := BitVec.ofNat 16 (field (w.getD 2 0#32) 15 0),
    flags := BitVec.ofNat 16 (field (w.getD 2 0#32) 31 16), epoch := w.getD 3 0#32, request := w.getD 4 0#32,
    position := w.getD 5 0#32, ret := w.getD 6 0#32, adv := w.getD 7 0#32 }

def hasFlag (f m : W16) : Bool := f &&& m != 0#16

/-- The records of the source tensor. -/
def stepRecords (c : Cmd) (e : Env) : List ERec :=
  match e.firstAlloc? (c.w 0) with
  | some a => (List.range (c.n 1)).map fun i => recordOf (a.words (32 * i) 8)
  | none => []

/-- The first records of the trajectories: each follows a record with LAST. -/
def trajHeads : Bool → List ERec → List ERec
  | _, [] => []
  | new, r :: t => (if new then [r] else []) ++ trajHeads (hasFlag r.flags flagLast) t

/-- Whole trajectories: the source is empty or its last record has LAST. -/
def wholeTrajs (rs : List ERec) : Bool := (rs.getLast?.map fun r => hasFlag r.flags flagLast).getD true

/-- The prompt of a trajectory (R227): a token tensor that holds as many tokens as the first record's POSITION. -/
def promptEntryOk (e : Env) (w : List W32) (r : ERec) : Bool :=
  w.getD 1 0#32 == 0#32 &&
  ((e.firstAlloc? (w.getD 0 0#32)).map fun a =>
    tokenOk a ((w.getD 2 0#32).toNat + (w.getD 3 0#32).toNat * 2 ^ 32) r.position.toNat).getD false

/-- The record weights tensor: FP32, one element per record. -/
def weightsOk (e : Env) (h : W32) (n : Nat) : Bool :=
  h == 0#32 || ((e.firstAlloc? h).map fun a => a.fmt == 0#8 && decide (n ≤ a.elements)).getD false

/-! ### Weights and advantages (R233, R234) -/

/-- Weighted 0 for its epoch. -/
def lagged (g : LossCfg) (r : ERec) : Bool :=
  !hasFlag r.flags flagInvalid &&
  (epochLater r.epoch g.eCur || (g.maxLag != 0 && decide (g.maxLag < (g.eCur - r.epoch).toNat)))

def recordWeight (g : LossCfg) (base : W32) (r : ERec) : W32 :=
  if hasFlag r.flags flagInvalid || lagged g r then 0#32
  else if hasFlag r.flags flagLate then fmul base g.late else base

def recordWeights (e : Env) (g : LossCfg) (rs : List ERec) : List W32 :=
  let base := fun (k : Nat) => if g.wts = 0#32 then one32 else ((e.firstAlloc? g.wts).map (·.value k)).getD one32
  ((List.range rs.length).zip rs).map fun (k, r) => recordWeight g (base k) r

def normalisedAdvantages (cv : W16) (g : LossCfg) (ws : List W32) (rs : List ERec) : List W32 :=
  let as := rs.map (·.adv)
  let live := ((as.zip ws).filter fun (_, w) => !isZero w).map fun x : W32 × W32 => x.1
  if !g.advNorm || live.isEmpty then as
  else
    let (mean, rstd, _) := normRow cv g.advEps [] [] live
    (as.zip ws).map fun (a, w) => if isZero w then a else fmul (fsub a mean) rstd

/-! ### Loss and score gradients (R235) -/

/-- What a record contributes: its loss, its gradient with respect to lp, whether it was clipped, its entropy, and the
values the backward pass recomputes its probabilities from. -/
structure TokenLoss where
  loss : W32
  g : W32
  clipped : Bool
  h : W32
  m : W32
  lns : W32
  ys : List W32
  target : Nat
deriving DecidableEq, Repr, Inhabited

def tokenLoss (cv : W16) (g : LossCfg) (row : List W32) (r : ERec) (adv : W32) : TokenLoss :=
  let (lp, m, lns, h) := gatherRow cv g.c r.token.toNat row
  let (l, d, cl) := clipToken cv g.eps g.dual lp r.logp adv
  { loss := fsub l (fmul g.beta h), g := d, clipped := cl, h := h, m := m, lns := lns, ys := scaleRow g.c row,
    target := r.token.toNat }

/-- N of R113. -/
def lossNorm (g : LossCfg) (ws : List W32) : W32 :=
  match g.norm with
  | 0 => pairSum (ws.map fun w => if isZero w then 0#32 else w)
  | 1 => ofNat32 (ws.countP fun w => !isZero w)
  | _ => g.k

/-- dx of a record's score row: q is g' of R113, w the record's weight, n the normaliser. -/
def scoreGrad (cv : W16) (g : LossCfg) (n q w : W32) (t : TokenLoss) : List W32 :=
  let h := if isZero w || isZero n then 0#32 else fdiv (fmul g.beta w) n
  ((List.range t.ys.length).zip t.ys).map fun (i, y) =>
    let p := if y = negInf then 0#32 else fexp cv (fsub (fsub y t.m) t.lns)
    let d := if i = t.target then one32 else 0#32
    let ent := if isZero p then fmul h 0#32 else fmul (fmul h p) (fadd (fln cv p) t.h)
    fmul (fadd (fmul q (fsub d p)) ent) g.c

/-- The loss pass: L, the score gradients, how many records were clipped. -/
structure LossPass where
  loss : W32
  dxs : List (List W32)
  clipped : Nat
  tokens : Nat
  lagged : Nat
deriving DecidableEq, Repr, Inhabited

/-- `rows` are the score rows of the records, in source order. -/
def lossPass (e : Env) (g : LossCfg) (rs : List ERec) (rows : List (List W32)) : LossPass :=
  let ws := recordWeights e g rs
  let as := normalisedAdvantages e.coef g ws rs
  let ts := (rows.zip (rs.zip as)).map fun (row, r, a) => tokenLoss e.coef g row r a
  let (l, qs) := reduceLoss g.norm g.k (ts.map (·.loss)) (ts.map (·.g)) ws
  let n := lossNorm g ws
  { loss := l, dxs := ((qs.zip ws).zip ts).map fun ((q, w), t) => scoreGrad e.coef g n q w t, clipped := ts.countP (·.clipped),
    tokens := ws.countP fun w => !isZero w, lagged := rs.countP (lagged g) }

/-! ### Delayed scaling (R236 to R238) -/

/-- The overrides of a step: ordinal and D. -/
def stepOverrides (c : Cmd) (e : Env) : List (Nat × W32) :=
  (e.entries (c.a 17) 8).map fun w => ((w.getD 0 0#32).toNat, w.getD 1 0#32)

/-- D of a guarded output of an entry: an override, or the choice from its history (R237, R238). -/
def outputScale (c : Cmd) (e : Env) (p : PlanEntry) (ordinal : Nat) (fmt : Byte) : W32 :=
  if fmtBlock fmt || decide (fmtCode fmt < 2) then one32
  else (((stepOverrides c e).find? fun o : Nat × W32 => o.1 == ordinal).map (fun o : Nat × W32 => o.2)).getD
    (historyScale (fmtCode fmt) p.margin (Tab.get (e.plan!).histories ordinal []))

/-- Plan entries with their indices, the first of each gradient. -/
def gradEntries (ps : List PlanEntry) : List (Nat × PlanEntry) :=
  ((List.range ps.length).zip ps).foldl (fun l (k, p) => if l.any (fun x : Nat × PlanEntry => x.2.grad == p.grad) then l else l ++ [(k, p)]) []

/-! ### Gradients (R232, R248, R249) -/

/-- What a step does to one gradient: its write, the blocks it contributed to, and its ordinal when it is guarded. -/
structure GradOut where
  index : Nat
  grad : W32
  ordinal : Option Nat
  blocks : List Nat
  write : TWrite
deriving DecidableEq, Repr, Inhabited

/-- The value of element i of a gradient at commit: the sum, added to the committed value with ACCUM. -/
def gradValue (accum : Bool) (g : Alloc) (sums : List (Option (List W32))) (i : Nat) : Val :=
  let old := if accum then decode32 (g.value i) else zeroVal
  match sums.getD (i / 64) none with
  | some l => if accum then decode32 (encode32 (old.add (decode32 (l.getD (i % 64) 0#32)))) else decode32 (l.getD (i % 64) 0#32)
  | none => old

/-- Entries that share a weight share their gradient (R226): their numbers. -/
def tiedWith (ps : List PlanEntry) (p : PlanEntry) : List Nat :=
  ((List.range ps.length).zip ps).filterMap fun (k, q) => if q.weight = p.weight then some k else none

def gradOut (c : Cmd) (e : Env) (l : LearnPlan) (bs : List (Batch × List LayerBack)) (k : Nat) (p : PlanEntry) : Option GradOut :=
  match e.firstAlloc? p.weight, e.alloc? p.grad with
  | some w, some g =>
    let sums := blockSums l.commands (tiedWith l.entries p) w g.paramBlocks bs
    let ord := layerOrdinal k 5
    let vs := (List.range g.elements).map (gradValue (c.n 16 == 1) g sums)
    some { index := k, grad := p.grad, ordinal := if guardedFmt g then some ord else none
           blocks := (List.range g.paramBlocks).filter fun b => (sums.getD b none).isSome
           write := encodeInto g 0 (if guardedFmt g then some (outputScale c e p ord g.fmt) else none) 0 (vs.map fun _ => none) vs }
  | _, _ => none

/-! ### The command -/

def learnFields (c : Cmd) (e : Env) : List Check :=
  let g := lossCfg c
  [ (c.off 0, e.bufferOk (c.w 0) 0 (32 * c.n 1)), (c.off 2, e.arrayOk (c.a 2) 16),
    (c.off 3, decide (1 ≤ c.n 3) && (e.plan.isNone || decide (c.n 3 ≤ (e.plan!).mMax))), (c.off 4, posNormal g.c), (c.off 5, clipOk g.eps),
    (c.off 6, dualOk g.dual), (c.off 7, epsOk g.beta), (c.off 10, fle 0#32 g.late && fle g.late one32),
    (c.off 11, weightsOk e g.wts (c.n 1)), (c.off 12, decide (g.norm < 3)), (c.off 13, g.norm != 2 || posNormal g.k),
    (c.off 14, decide (c.n 14 < 2)), (c.off 15, epsOk g.advEps), (c.off 16, decide (c.n 16 < 2)),
    (c.off 17, decide ((c.a 17).count ≤ 8) && e.arrayOk (c.a 17) 8) ]

/-- What the source, the prompts and the overrides say (R227, R238). -/
def learnState (c : Cmd) (e : Env) : Bool :=
  let rs := stepRecords c e
  let heads := trajHeads true rs
  let prompts := e.entries (c.a 2) 16
  (e.plan.map fun l => l.entries.all fun p => p.named.all fun h => (e.firstAlloc? h).isSome).getD false && wholeTrajs rs && heads.length == prompts.length && (prompts.zip heads).all (fun (w, r) => promptEntryOk e w r) &&
  (stepOverrides c e).all fun o => posNormal o.2

/-- Overrides name guarded outputs that the step writes. -/
def overridesKnown (os : List (Nat × W32)) (known : List Nat) : Bool := os.all fun o => known.contains o.1

/-- The weights, and with ACCUM the gradients, that a step reads. -/
def learnReads (c : Cmd) (e : Env) : List (W32 × Nat × Nat) :=
  let whole := fun (h : W32) => (h, 0, ((e.alloc? h).map (·.size)).getD 0)
  let rs := stepRecords c e
  let ps := (e.plan!).entries
  [(c.w 0, 0, 32 * c.n 1), ((c.a 2).handle, (c.a 2).off, 16 * (c.a 2).count), ((c.a 17).handle, (c.a 17).off, 8 * (c.a 17).count)] ++
  ((e.entries (c.a 2) 16).zip (trajHeads true rs)).map (fun (w, r) =>
    (w.getD 0 0#32, 4 * ((w.getD 2 0#32).toNat + (w.getD 3 0#32).toNat * 2 ^ 32), 4 * r.position.toNat)) ++
  (if c.w 11 = 0#32 then [] else [(c.w 11, 0, 4 * c.n 1)]) ++
  (ps.map fun p => whole p.weight) ++ (if c.n 16 = 1 then ps.map fun p => whole p.grad else [])

/-- A weight of the plan has transposed blocks that are not rebuilt (spec 02 R49). -/
def State.transposing (s : State) (p : Nat) (l : LearnPlan) : Bool :=
  l.entries.any fun x => !((s.alloc? p x.weight).map tagsCurrent).getD true

/-- The trajectories of the source with their prompts (R227). -/
def splitTrajs : List ERec → List ERec → List (List ERec)
  | [], [] => []
  | acc, [] => [acc]
  | acc, r :: t => if hasFlag r.flags flagLast then (acc ++ [r]) :: splitTrajs [] t else splitTrajs (acc ++ [r]) t

def stepSeqs (c : Cmd) (e : Env) : List Seq :=
  ((splitTrajs [] (stepRecords c e)).zip (e.entries (c.a 2) 16)).map fun (rs, w) =>
    let prompt := ((e.firstAlloc? (w.getD 0 0#32)).map fun a =>
      a.tokens ((w.getD 2 0#32).toNat + (w.getD 3 0#32).toNat * 2 ^ 32) ((rs.head?.map (·.position.toNat)).getD 0)).getD []
    { tokens := prompt ++ rs.map (·.token), recs := rs }

/-- The layers of a step over the weights it bound; their transposed copies as the engine has built them (R228; spec 02 R49). -/
def stepLayers (s : State) (e : Env) (l : LearnPlan) : List Layer :=
  layersOf l fun h => (e.firstAlloc? h).map fun a => { a with tcopy := ((s.alloc? e.part.num h).map (·.tcopy)).getD a.tcopy }

/-- What the passes of a step work with. -/
def learnEnv (c : Cmd) (e : Env) (l : LearnPlan) : Learn :=
  { c := c, e := e, commands := l.commands, custom := boundCustom e
    scale := fun o x fmt => outputScale c e x.entry o fmt }

/-- What the passes of a step form: the loss pass, the gradients, and its inner outputs with the draws they took. -/
structure StepWork where
  pass : LossPass
  grads : List GradOut
  tally : Tally
  pool : List (Nat × Byte)

/-- The passes of a step: forward, loss, backward (R229, R235). -/
def stepWork (s : State) (c : Cmd) (e : Env) (l : LearnPlan) (mbs : List (List Seq)) : StepWork :=
  let g := learnEnv c e l
  let ls := stepLayers s e l
  let (bs, t) := g.batches ls 0 mbs { x := s.drawer e, made := [] }
  let pass := lossPass e (lossCfg c) (stepRecords c e) (bs.flatMap fun b => g.scoreRows b 0 b.seqs)
  let (ds, t) := g.allBack pass.dxs 0 bs t
  { pass := pass, grads := (gradEntries l.entries).filterMap fun (k, p) => gradOut c e l ds k p, tally := t
    pool := poolBytes (poolNeed ls (mbs.map fun qs => sumBy Seq.len qs)) bs }

/-- The outputs that RECOMPUTE items encode again: operands and outputs of layers with KEEP clear, but for the stored input of a
segment (R230). They count again in the format counters (spec 03 R79). -/
def recomputed (ls : List Layer) (o : Nat) : Bool :=
  (withSegments true ls).any fun (l, first) =>
    !l.entry.keep && (o == layerOrdinal l.index 1 || (o == layerOrdinal l.index 0 && !first))

/-- Outputs by ordinal. -/
def insertOrdinal (x : Nat × Bool × TWrite) : List (Nat × Bool × TWrite) → List (Nat × Bool × TWrite)
  | [] => [x]
  | y :: r => if x.1 < y.1 then x :: y :: r else y :: insertOrdinal x r

/-- Every output of a step, in the order of the ordinals. -/
def StepWork.outputs (w : StepWork) (ls : List Layer) : List (Nat × Bool × TWrite) :=
  let again := (madeWrites (w.tally.made.filter fun m => recomputed ls m.1)).map fun x : Nat × Bool × TWrite => (x.1, false, x.2.2)
  let grads := w.grads.map fun g : GradOut => (layerOrdinal g.index 5, g.ordinal.isSome, g.write)
  (madeWrites w.tally.made ++ again ++ grads).foldr insertOrdinal []

/-- The maxima that the histories take, with their lengths (R237). -/
def StepWork.maxima (w : StepWork) (ps : List PlanEntry) : List (Nat × Nat × W32) :=
  let hist := fun (o : Nat) => ((ps[o / 8]?).map PlanEntry.hist).getD 15
  (w.tally.made.filter (·.2.guarded)).map (fun (o, m) => (o, hist o, m.stats.amax)) ++
  w.grads.filterMap fun g => g.ordinal.map fun o => (o, hist o, g.write.stats.amax)

/-- The ordinals of the guarded outputs that a step writes. -/
def StepWork.ordinals (w : StepWork) : List Nat :=
  (w.tally.made.filter (·.2.guarded)).map (·.1) ++ w.grads.filterMap (·.ordinal)

/-- The presence bits that a step leaves to a gradient (R248). -/
def stepPresence (e : Env) (accum : Bool) (g : GradOut) : W32 × List Nat :=
  let old := if accum then ((e.alloc? g.grad).bind (·.presence)).getD [] else []
  (g.grad, g.blocks.foldl (fun l b => addOnce b l) old)

/-- What a step answers: SCALE_RANGE for the first output past the threshold, else its gradients, what it leaves in the
activation pool, presence and histories. -/
def learnResult (c : Cmd) (e : Env) (l : LearnPlan) (ls : List Layer) (w : StepWork) : Result :=
  outputsResult c (w.outputs ls) (if e.det || !c.layersStoch then none else some w.tally.x.gens)
    { Result.bare stOK with
      detail := w.pass.loss, aux0 := BitVec.ofNat 32 (c.n 1), aux1 := BitVec.ofNat 32 w.pass.clipped
      writes := if w.pool.isEmpty then []
        else [{ handle := l.pool, elems := [], scales := w.pool, stats := Stats.zero, dscale := none, count := none }]
      eff := .learnStep (w.grads.map (stepPresence e (c.n 16 == 1))) (w.maxima l.entries) w.pass.tokens w.pass.clipped w.pass.lagged }

/-- The passes of a step whose work items have run. -/
def stepBody (s : State) (c : Cmd) (e : Env) (l : LearnPlan) (mbs : List (List Seq)) : State × Option Result :=
  let w := stepWork s c e l mbs
  if !overridesKnown (stepOverrides c e) w.ordinals then (s, some Result.badState)
  else (s, some (learnResult c e l (stepLayers s e l) w))

def runLearnStep (s : State) (c : Cmd) (e : Env) : State × Option Result :=
  checked s c (learnFields c e) (learnState c e && e.planOk) (learnReads c e) [] e fun s =>
    let l := e.plan!
    let ls := stepLayers s e l
    let mbs := microBatches (c.n 3) (stepSeqs c e)
    let ns := mbs.map fun qs => sumBy Seq.len qs
    if ((e.alloc? l.pool).map (·.size)).getD 0 < poolNeed ls ns then (s, some (Result.bare stNO_RESOURCE))
    else
      let (s, done) := s.traverse c
      let s := s.runItems c e (stepProducts ls ((c.plan.map (·.handles)).getD []) ns)
      if !done || !s.itemsDone c.id || s.transposing e.part.num l || (!e.det && c.layersStoch && s.generatorHeld c e.part.tiles) then
        (s, none)
      else stepBody s c e l mbs

def execLearnStep (c : CmdId) (s : State) : Answer := runOp 0x0502 c s runLearnStep

/-- A history takes a maximum and drops its oldest past its length. -/
def noteMaximum (n : Nat) (m : W32) (l : List W32) : List W32 := (l ++ [m]).drop (l.length + 1 - n)

/-- A step commits (R237, R248, R251): presence bits, histories, counters. -/
def commitLearnStep (s : State) (c : Cmd) (presence : List (W32 × List Nat)) (maxima : List (Nat × Nat × W32))
    (tokens clipped lagged : Nat) : State :=
  let n := s.cmdPart c.id
  let s := presence.foldl (fun (s : State) (h, bs) => s.modAlloc n h fun a => { a with presence := some bs }) s
  let s := s.modCtx c.ctx fun x => { x with learn := x.learn.map fun l => { l with
    histories := maxima.foldl (fun t (o, k, m) => Tab.mod t o [] (noteMaximum k m)) l.histories } }
  s.modIface c.id.iface fun f =>
    { f with lrnTokens := satNat32 (f.lrnTokens + tokens), lrnClipped := satNat32 (f.lrnClipped + clipped),
             lrnLagged := satNat32 (f.lrnLagged + lagged) }

/-! ## What waits for a running step (R228) -/

/-- A step of the partition that has bound a weight and has not completed. -/
def State.stepHolds (s : State) (p : Nat) (c : CmdId) (hs : List W32) : Bool :=
  (s.partCmds p).any fun k => k.id != c && k.opcode == 0x0502 && decide (0 < k.attempts) &&
    (((k.first.bind (·.ctx)).bind (·.learn)).map fun l => l.entries.any fun x => hs.contains x.weight).getD false

/-! ## MASK_SET (0x0507): ENTRY, MASK -/

/-- The weights of plan entries. -/
def Env.weights (e : Env) (ks : List Nat) : List W32 := ks.map fun k => (((e.plan!).entries[k]?).map (·.weight)).getD 0#32

/-- The blocks whose bits are set in a bitmap of a byte buffer. -/
def maskBlocks (a : Alloc) (off n : Nat) : List Nat :=
  (List.range n).filter fun b => (a.bytes (off + b / 8) 1).any fun x => x.toNat / 2 ^ (b % 8) % 2 == 1

def runMaskSet (s : State) (c : Cmd) (e : Env) : State × Option Result :=
  let w : List Alloc := (e.weights [c.n 0]).filterMap e.alloc?
  let n := (w.map Alloc.paramBlocks).headD 0
  let r := c.t 1
  checked s c ([(c.off 0, e.plan.isNone || decide (c.n 0 < (e.plan!).entries.length))] ++ inputChecks e (c.off 1) r ++
      [(c.off 1, r.fmt == int8Field && e.bufferOk r.handle r.off ((n + 7) / 8)), (c.off 1 + 24, decide ((n + 7) / 8 ≤ e.len r))])
    (e.plan.isSome && !w.isEmpty) [(r.handle, r.off, (n + 7) / 8)] [] e fun s =>
    (s, some (Result.ok (.mask (c.n 0) (((e.alloc? r.handle).map fun a => maskBlocks a r.off n).getD []))))

def execMaskSet (c : CmdId) (s : State) : Answer := runOp 0x0507 c s runMaskSet

def commitMask (s : State) (c : Cmd) (entry : Nat) (bs : List Nat) : State :=
  match ((s.ctx? c.ctx).bind (·.learn)).bind fun l => l.entries[entry]? with
  | some p => s.modAlloc (s.cmdPart c.id) p.weight fun a => { a with frozen := bs }
  | none => s

end Sys2Proof.Machine
end

