-- ==== Sys2Proof/Machine/Rules.lean ====
section
/-!
DEFINITION. Zaldy rule programs: loading and applying them (spec 09 R243-R247).
-/
namespace Sys2Proof.Machine

/-! ## Instruction words (Tables 9-6 to 9-8) -/

structure Rule where
  op : Nat
  dst : Nat
  a : Nat
  b : Nat
  c : Nat
  negA : Bool
  negB : Bool
  negC : Bool
  sub : Nat
deriving DecidableEq, Repr, Inhabited

def ruleOf (w : W32) : Rule :=
  { op := field w 31 27, dst := field w 26 22, a := field w 21 17, b := field w 16 12, c := field w 11 7, negA := bitAt w 6,
    negB := bitAt w 5, negC := bitAt w 4, sub := field w 3 0 }

/-- How many of the source fields A, B, C an opcode uses; none for a reserved opcode. -/
def ruleSources (op : Nat) : Option Nat :=
  match op with
  | 1 => some 2
  | 2 => some 2
  | 3 => some 3
  | 4 => some 1
  | 5 => some 1
  | 6 => some 2
  | 7 => some 2
  | 8 => some 1
  | 9 => some 3
  | 10 => some 2
  | _ => none

def ruleSubOk (op sub : Nat) : Bool :=
  if op = 9 then decide (sub < 4) else if op = 10 then decide (1 ≤ sub) && decide (sub ≤ 7) else sub == 0

/-- Operands that a program may write: t0 to t7, W, S0 to S3. -/
def ruleWritable (d : Nat) : Bool := decide (d ≤ 8) || (decide (0xB ≤ d) && decide (d ≤ 0xE))

def ruleOk (w : W32) : Bool :=
  let r := ruleOf w
  match ruleSources r.op with
  | none => false
  | some n =>
    ruleSubOk r.op r.sub && ruleWritable r.dst && (decide (2 ≤ n) || (r.b == 0 && !r.negB)) &&
    (decide (3 ≤ n) || (r.c == 0 && !r.negC))

/-- The result of an opcode on its sources (Table 9-8, R244). -/
def ruleValue (cv : W16) (op sub : Nat) (a b c : W32) : W32 :=
  match op with
  | 1 => fadd a b
  | 2 => fmul a b
  | 3 => ffma a b c
  | 4 => if isNan a || isZero a then a else if flt a 0#32 then fneg one32 else one32
  | 5 => if isNan a then nan32 else a &&& 0x7FFFFFFF#32
  | 6 => fmax a b
  | 7 => fmin a b
  | 8 => frsqrt cv a
  | 9 =>
    let holds := match sub with
      | 0 => flt 0#32 a
      | 1 => fle 0#32 a
      | 2 => isZero a
      | _ => isNan a
    if holds then b else c
  | _ => encode32 (decodeElem sub false (encodeElem sub false none (decode32 (fmul a b))).1)

def negIf (n : Bool) (w : W32) : W32 := if n then fneg w else w

/-- One instruction on the operand file of 32 values: sources are read before the destination is written. -/
def ruleStep (cv : W16) (regs : List W32) (w : W32) : List W32 :=
  let r := ruleOf w
  regs.set r.dst (ruleValue cv r.op r.sub (negIf r.negA (nth regs r.a)) (negIf r.negB (nth regs r.b)) (negIf r.negC (nth regs r.c)))

/-- A parameter's operand file at the start (Table 9-6). -/
def ruleRegs (w g n : W32) (states ks : List W32) : List W32 :=
  List.replicate 8 0#32 ++ [w, g, n] ++ (List.range 4).map (nth states) ++ [one32] ++ (List.range 16).map (nth ks)

def runRule (cv : W16) (prog regs : List W32) : List W32 := prog.foldl (ruleStep cv) regs

/-- A program writes an operand. -/
def ruleWrites (prog : List W32) (d : Nat) : Bool := prog.any fun w => (ruleOf w).dst == d

/-! ## RULE_LOAD (0x0504): SLOT, WORDS -/

def emptyBanks : Banks := { a := .never, b := .never, live := false }

/-- An uncompleted RULE_APPLY bound the bank of a slot that is now the shadow (R243; spec 04 R104). -/
def State.ruleBound (s : State) (p slot : Nat) : Bool :=
  match s.part? p with
  | none => false
  | some q => (s.partCmds p).any fun k => k.opcode == 0x0505 && k.n 0 == slot &&
      (k.first.map fun v => (Tab.get v.rules slot emptyBanks).live != (Tab.get q.rules slot emptyBanks).live).getD false

def runRuleLoad (s : State) (c : Cmd) (e : Env) : State × Option Result :=
  let r := c.a 1
  let ws := (e.entries r 4).map fun w => w.getD 0 0#32
  checked s c [(c.off 0, decide (c.n 0 < 8)), (c.off 1, decide (1 ≤ r.count) && decide (r.count ≤ 32) && e.arrayOk r 4)]
    (ws.all ruleOk) [(r.handle, r.off, 4 * r.count)] [] e fun s =>
    if s.ruleBound e.part.num (c.n 0) then (s, none) else (s, some (Result.ok (.ruleLoad (c.n 0) ws)))

def execRuleLoad (c : CmdId) (s : State) : Answer := runOp 0x0504 c s runRuleLoad

def commitRuleLoad (s : State) (p slot : Nat) (ws : List W32) : State :=
  s.modPart p fun q => { q with rules := Tab.mod q.rules slot emptyBanks (·.load ws) }

/-! ## The combined gradients (R240, R246) -/

/-- Blocks ⌊rB/O⌋ to ⌊(r+1)B/O⌋ − 1 belong to rank r (R239). -/
def ownedBlocks (blocks o r : Nat) : List Nat :=
  let o := max 1 o
  (List.range ((r + 1) * blocks / o - r * blocks / o)).map (r * blocks / o + ·)

def reduceRecordBytes (vote : Bool) : Nat := if vote then 136 else 264

/-- The owned blocks of a reduction in the order of its records, as (place of the entry, block). -/
def Reduced.records (r : Reduced) : List (Nat × Nat) :=
  ((List.range r.blocks.length).zip r.blocks).flatMap fun (k, n) => (ownedBlocks n r.o r.rank).map fun b => (k, b)

/-- N and the 64 values G of record i of a buffer. -/
def reduceRecord (r : Reduced) (a : Alloc) (i : Nat) : Nat × List W32 :=
  let base := i * reduceRecordBytes r.vote
  if r.vote then
    let n := leNat (a.bytes (base + 128) 2)
    (n, (List.range 64).map fun j =>
      let x := 2 * leNat (a.bytes (base + 2 * j) 2)
      if n = 0 then 0#32 else if n ≤ x then encode32 (.num false (x - n) n) else encode32 (.num true (n - x) n))
  else (leNat (a.bytes (base + 256) 2), a.words base 64)

/-! ## RULE_APPLY (0x0505): SLOT, K0 to K15, MODE, BUFFER, Q, ENTRIES, E -/

/-- The program that the slot held at the first dispatch. -/
def boundRule (e : Env) (slot : Nat) : Option (List W32) := (Tab.get e.first.rules slot emptyBanks).bank.words

/-- The entries of a command's array: indices of the plan's entries. -/
def entryList (c : Cmd) (e : Env) (i : Nat) : List Nat := (e.entries (c.a i) 4).map fun w => (w.getD 0 0#32).toNat

def ruleReduced (c : Cmd) (e : Env) : Option Reduced :=
  e.part.reduced.find? fun r => r.buffer == c.w 18 && r.q == c.w 19 && boolNat r.vote == c.n 17

/-- A block to run over: the plan entry, the block, N, its values G. -/
structure RuleBlock where
  entry : Nat
  block : Nat
  n : Nat
  vals : List W32
deriving DecidableEq, Repr, Inhabited

/-- The blocks of an entry that are owned, counted and not frozen. -/
def ruleBlocks (e : Env) (r : Reduced) (buf : Alloc) (entry : Nat) : List RuleBlock :=
  let frozen := (((e.weights [entry]).filterMap e.alloc?).map fun a : Alloc => a.frozen).headD []
  let recs := r.records
  ((List.range recs.length).zip recs).filterMap fun (i, k, b) =>
    if r.entries.getD k 0 = entry ∧ k = (r.entries.findIdx? (· == entry)).getD 0 ∧ frozen.contains b = false then
      let (n, vs) := reduceRecord r buf i
      if n = 0 then none else some { entry := entry, block := b, n := n, vals := vs }
    else none

/-- Everything a command runs over. -/
def ruleWork (c : Cmd) (e : Env) : List RuleBlock :=
  match ruleReduced c e, e.alloc? (c.w 18) with
  | some r, some buf => (entryList c e 20).flatMap (ruleBlocks e r buf)
  | _, _ => []

def blockParams (e : Env) (x : RuleBlock) : List Nat :=
  match ((e.weights [x.entry]).filterMap e.alloc?).head? with
  | some w => (List.range (w.blockLen x.block)).map (64 * x.block + ·)
  | none => []

/-- The operand files of the parameters of a block after the program, by element index. -/
def blockResults (e : Env) (prog ks : List W32) (p : PlanEntry) (x : RuleBlock) : List (Nat × List W32) :=
  let src := fun (h : W32) (k : Nat) => if h = 0#32 then 0#32 else ((e.alloc? h).map (·.value k)).getD 0#32
  (blockParams e x).map fun k =>
    (k, runRule e.coef prog (ruleRegs (src (if p.master = 0#32 then p.weight else p.master) k) (nth x.vals (k % 64)) (ofNat32 x.n)
      (p.states.map fun h => src h k) ks))

/-! ### Writing back (R245) -/

/-- The ordinal of an output among the outputs of a RULE_APPLY: by entry, MASTER, WEIGHT, then the state slots (log 40). -/
def ruleOrdinal (entry slot : Nat) : Nat := entry * 6 + slot

/-- Random bits for elements of an output (spec 03 R69; 05 R117, R121). An ordinal past 255 takes positions of its own, so that
no two elements share bits (log 40). -/
def someBits (c : Cmd) (e : Env) (ordinal : Nat) (a : Alloc) (ks : List Nat) (x : Drawer) : List (Option Nat) × Drawer :=
  let w := stochBits a.code
  if a.code = 0 then (ks.map fun _ => none, x)
  else if e.det then
    let at_ := fun (k : Nat) => ordinal / 256 * 2 ^ 40 + k
    (ks.map fun k => some (pieceOf (ctrWord e.seed 2 c.seq (ordinal % 256) (at_ k / pieceCount w)) w (at_ k % pieceCount w)), x)
  else
    let (ps, x) := x.pieces (fun i => c.spot e ordinal (ks.getD i 0)) w ks.length
    (ps.map some, x)

/-- One tensor written back, nearest even or with stochastic rounding. -/
def ruleWrite (c : Cmd) (e : Env) (h : W32) (ordinal : Nat) (stoch : Bool) (new : List (Nat × W32)) (x : Drawer) :
    List TWrite × Drawer :=
  match e.alloc? h with
  | none => ([], x)
  | some a =>
    let ks := new.map fun y : Nat × W32 => y.1
    let (bits, x) := if stoch then someBits c e ordinal a ks x else (ks.map fun _ => none, x)
    ([encodeSome a 0 none ((new.zip bits).map fun (y, b) => (y.1, decode32 y.2, b))], x)

/-- The tensors that an entry writes back: MASTER, WEIGHT, and the state slots that the program writes. -/
def entryTargets (p : PlanEntry) (prog : List W32) (entry : Nat) : List (W32 × Nat × Bool × Nat) :=
  (if ruleWrites prog 8 then
    (if p.master = 0#32 then [] else [(p.master, ruleOrdinal entry 0, false, 8)]) ++ [(p.weight, ruleOrdinal entry 1, p.wStoch, 8)]
   else []) ++
  (List.range 4).filterMap fun i =>
    if ruleWrites prog (0xB + i) then some (nth p.states i, ruleOrdinal entry (2 + i), p.sStoch, 0xB + i) else none

def ruleTargets (c : Cmd) (e : Env) (ok : W32 → Nat → Bool) (res : List (Nat × List W32)) : List (W32 × Nat × Bool × Nat) → Drawer → List TWrite × Drawer
  | [], x => ([], x)
  | (h, ord, stoch, d) :: r, x =>
    let (ws, x) := ruleWrite c e h ord stoch ((res.filter fun y => ok h y.1).map fun (k, regs) => (k, nth regs d)) x
    let (vs, x) := ruleTargets c e ok res r x
    (ws ++ vs, x)

/-- `ok` selects the elements that are written: of a tensor, by index. -/
def ruleEntries (c : Cmd) (e : Env) (ok : W32 → Nat → Bool) (prog : List W32) (work : List RuleBlock) : List Nat → Drawer → List TWrite × Drawer
  | [], x => ([], x)
  | k :: r, x =>
    match (e.plan!).entries[k]? with
    | none => ruleEntries c e ok prog work r x
    | some p =>
      let ks := (List.range 16).map fun i => c.w (1 + i)
      let res := (work.filter (·.entry == k)).flatMap (blockResults e prog ks p)
      let (ws, x) := if res.isEmpty then ([], x) else ruleTargets c e ok res (entryTargets p prog k) x
      let (vs, x) := ruleEntries c e ok prog work r x
      (ws ++ vs, x)

/-! ### The command -/

/-- The program writes no slot that an entry does not have (R245). -/
def slotsPresent (e : Env) (prog : List W32) (ks : List Nat) : Bool :=
  ks.all fun k => match (e.plan!).entries[k]? with
    | some p => (List.range 4).all fun i => !ruleWrites prog (0xB + i) || nth p.states i != 0#32
    | none => false

def ruleParams (e : Env) (work : List RuleBlock) : Nat := sumBy (fun x => (blockParams e x).length) work

def ruleState (c : Cmd) (e : Env) : Bool :=
  let ks := entryList c e 20
  match boundRule e (c.n 0), ruleReduced c e with
  | some prog, some r =>
    e.plan.isSome && ks.all (fun k => decide (k < (e.plan!).entries.length) && r.entries.contains k) && decide (r.rank < r.o) &&
    slotsPresent e prog ks && e.bufferOk (c.w 18) 0 (reduceRecordBytes r.vote * r.records.length) &&
    (!bitAt c.flags 0 || decide (ruleParams e (ruleWork c e) ≤ 2 ^ 20))
  | _, _ => false

/-- What the parameters of the work read: their elements in each tensor of their entry, and their records. -/
def ruleReads (c : Cmd) (e : Env) : List (W32 × Nat × Nat) :=
  let work := ruleWork c e
  let buf := match ruleReduced c e with
    | some r => [(c.w 18, 0, reduceRecordBytes r.vote * r.records.length)]
    | none => []
  ((c.a 20).handle, (c.a 20).off, 4 * (c.a 20).count) :: buf ++ work.flatMap fun x =>
    match (e.plan!).entries[x.entry]? with
    | some p => ([if p.master = 0#32 then p.weight else p.master] ++ p.states).filterMap fun h =>
        (e.alloc? h).bind fun a =>
          let n := (blockParams e x).length
          if n = 0 then none
          else some (h, a.elemBit (64 * x.block) / 8, (a.elemBit (64 * x.block + n - 1) + fmtBits a.code + 7) / 8 - a.elemBit (64 * x.block) / 8)
    | none => []

/-- The record of a block cannot be read. -/
def recordBad (s : State) (c : Cmd) (e : Env) (entry block : Nat) : Bool :=
  match ruleReduced c e, s.alloc? e.part.num (c.w 18) with
  | some r, some a =>
    let n := reduceRecordBytes r.vote
    match r.records.findIdx? fun (k, b) => r.entries.getD k 0 == entry && b == block with
    | some i => !(unitsHit a a.uncorr (i * n) ((i + 1) * n)).isEmpty
    | none => false
  | _, _ => false

/-- An element of a parameter whose input cannot be read: of its weight, its states, its record. -/
def paramBad (s : State) (c : Cmd) (e : Env) (h : W32) (k : Nat) : Bool :=
  let ps := (e.plan!).entries
  match ((List.range ps.length).zip ps).find? fun (_, p) => p.named.contains h with
  | none => false
  | some (i, p) =>
    recordBad s c e i (k / 64) || ([if p.master = 0#32 then p.weight else p.master] ++ p.states).any fun g =>
      ((s.alloc? e.part.num g).map fun a => elemBad a k).getD false

/-- The result of the whole work. -/
def ruleOutcome (c : Cmd) (e : Env) (r : Reduced) (writes : List TWrite) (gens : Option (Tab Gen)) : Result :=
  let work := ruleWork c e
  { Result.bare stOK with
    writes := writes, gens := gens
    eff := .ruleApply { q := r.q, changed := (entryList c e 20).map fun k => (k, (work.filter (·.entry == k)).map (·.block)) }
      (c.w 21) (ruleParams e work) (r.o == 1) }

/-- The elements that an update of an entry writes, over its tensors: an ATOMIC one leaves those unwritten whose inputs cannot
be read. -/
def ruleMissed (s : State) (c : Cmd) (e : Env) (prog : List W32) (ks : List Nat) : Nat :=
  sumBy (fun k => match (e.plan!).entries[k]? with
    | some p => sumBy (fun x : RuleBlock => sumBy (fun t : W32 × Nat × Bool × Nat =>
        (blockParams e x).countP fun i => paramBad s c e t.1 i) (entryTargets p prog k)) ((ruleWork c e).filter (·.entry == k))
    | none => 0) ks

/-- An ATOMIC RULE_APPLY writes in place once no step holds its weights and the reserve has its pages (R247; spec 11 R297;
13 R342). One that ends with UNCORRECTABLE leaves the generators where they were (05 R122). -/
def ruleAtomic (s : State) (c : Cmd) (e : Env) (missed : Nat) (r : Result) : State × Option Result :=
  let p := e.part.num
  let need := s.reserveNeed p r.writes
  match s.takeReserve c (some c.id) need with
  | none => (s.stall c.id need, none)
  | some s =>
    let t := (r.writes.foldl (fun t w => t.writeNow p w) s).modCmd c.id fun k => { k with atomic := true }
    (t, some { r with
      status := if missed = 0 then stOK else stUNCORRECTABLE
      detail := BitVec.ofNat 32 missed
      writes := r.writes.map fun w => { w with elems := [], scales := [] }
      gens := if missed = 0 then r.gens else none
      always := true })

/-- The writes of an update, as outputs: only a forward copy can be guarded (R81), since states are wide or block-scaled. -/
def guardedRule (e : Env) (ks : List Nat) (ws : List TWrite) : List (Nat × Bool × TWrite) :=
  ws.map fun w =>
    let k := (ks.find? fun k => (((e.plan!).entries[k]?).map fun p => p.weight == w.handle).getD false).getD 0
    (ruleOrdinal k 1, ((e.alloc? w.handle).map guardedFmt).getD false, w)

/-- The update once its checks hold: an output that trips its guard leaves SCALE_RANGE (spec 03 R82), an ATOMIC one has none
(R247). -/
def ruleBody (s : State) (c : Cmd) (e : Env) : State × Option Result :=
  match boundRule e (c.n 0), ruleReduced c e with
  | some prog, some r =>
    let draws := !e.det && c.planStoch
    if draws && s.generatorHeld c e.part.tiles then (s, none)
    else
      let ks := entryList c e 20
      let atomic := bitAt c.flags 0
      let (ws, x) := ruleEntries c e (fun h k => !(atomic && paramBad s c e h k)) prog (ruleWork c e) ks.eraseDups (s.drawer e)
      let out := ruleOutcome c e r ws (if draws then some x.gens else none)
      if atomic then
        if s.stepHolds e.part.num c.id (e.weights ks) then (s, none) else ruleAtomic s c e (ruleMissed s c e prog ks.eraseDups) out
      else (s, some ((guardResult c (guardedRule e ks ws)).getD out))
  | _, _ => (s, some Result.badState)

def ruleFields (c : Cmd) (e : Env) : List Check :=
  [ (c.off 0, decide (c.n 0 < 8)), (c.off 17, decide (c.n 17 < 2)), (c.off 18, (e.alloc? (c.w 18)).isSome),
    (c.off 20, e.arrayOk (c.a 20) 4) ]

def runRuleApply (s : State) (c : Cmd) (e : Env) : State × Option Result :=
  if bitAt c.flags 0 then
    checked s c (ruleFields c e) (ruleState c e) [] [] e fun s => ruleBody (s.readBuffers c (ruleReads c e)).1 c e
  else checked s c (ruleFields c e) (ruleState c e) (ruleReads c e) [] e fun s => ruleBody s c e

def execRuleApply (c : CmdId) (s : State) : Answer := runOp 0x0505 c s runRuleApply

/-! ### The commit -/

/-- The weight of an entry after an update: every entry's forward copy is of epoch E, and the blocks that the update changed,
which wait for their job, carry E (R246). -/
def Alloc.carryEpoch (a : Alloc) (bs : List Nat) (epoch : W32) : Alloc :=
  let touched := bs.flatMap fun b => (List.range (a.blockLen b)).map fun i => a.blockOf (64 * b + i)
  let fresh := (a.tcopy.map fun t => t.queued.filter fun b => !t.jobs.any (·.1 == b)).getD []
  { a with blockEpochs := fresh.foldl (fun m b => if touched.contains b then Tab.set m b epoch else m) a.blockEpochs, epoch := epoch }

def commitRuleApply (s : State) (c : Cmd) (u : Update) (epoch : W32) (count : Nat) (serves : Bool) : State :=
  let n := s.cmdPart c.id
  let ps := (((s.ctx? c.ctx).bind (·.learn)).map (·.entries)).getD []
  let s := u.changed.foldl (fun (s : State) (k, bs) => match ps[k]? with
    | some p => s.modAlloc n p.weight (·.carryEpoch bs epoch)
    | none => s) s
  let s := s.modPart n fun q => { q with
    updates := q.updates.filter (·.q != u.q) ++ [u], epo := { q.epo with fwdEpoch := epoch, serves := serves } }
  s.modIface c.id.iface fun f => { f with lrnUpdated := sat64 (f.lrnUpdated + count) }

end Sys2Proof.Machine
end

