-- ==== Sys2Proof/Machine/Collectives.lean ====
section
/-!
DEFINITION. The exchange of gradients and of updated weights: collectives (spec 09 R239-R242, R250; 14 R379-R383).
-/
namespace Sys2Proof.Machine

/-! ## The group (R379) -/

def memberModule (w : W32) : Nat := field w 13 0
def memberPart (w : W32) : Nat := field w 20 16

/-- A group of V members: V + 1 words, reserved bits zero, no member twice, and this rank is this module and partition. -/
def groupOk (s : State) (p rank v : Nat) (g : List W32) : Bool :=
  g.length == v + 1 && decide (rank < v) && (g.drop 1).all (fun w => w &&& 0xFFE0C000#32 == 0#32) &&
  decide ((g.drop 1).eraseDups.length = v) &&
  memberModule (g.getD (rank + 1) 0#32) == s.net.moduleId && memberPart (g.getD (rank + 1) 0#32) == p

/-- DIGEST: the CRC-32C of the group array, then MODE (E for a gather), V, O, q and the entry list. -/
def collDigest (group : List W32) (mode : W32) (v o : Nat) (q : W32) (entries : List Nat) : W32 :=
  crc32c (wordsBytes (group ++ [mode, BitVec.ofNat 32 v, BitVec.ofNat 32 o, q] ++ entries.map (BitVec.ofNat 32)))

/-! ## Positions (R380, R383) -/

/-- The least L with V ≤ 2^L. -/
def treeLevels (v : Nat) : Nat := if v ≤ 1 then 0 else Nat.log2 (v - 1) + 1

/-- The position of a rank for an owner, and the rank at a position. -/
def collPos (v o r : Nat) : Nat := (r + v - o % max 1 v) % max 1 v
def collRank (v o i : Nat) : Nat := (o + i) % max 1 v

/-- Trailing zeros of a position; a position of zero has as many as there are levels. -/
def trailing (levels i : Nat) : Nat := ((List.range levels).find? fun t => i / 2 ^ t % 2 == 1).getD levels

/-- The positions whose partials come to position i, by rising level; also those to which it passes a gather on. -/
def collChildren (v i : Nat) : List Nat :=
  ((List.range (trailing (treeLevels v) i)).map fun l => i + 2 ^ l).filter fun j => decide (j < v)

/-- The position that position i ≠ 0 sends its partial to, and receives a gather from. -/
def collParent (v i : Nat) : Nat := i - 2 ^ trailing (treeLevels v) i

/-! ## Partials (R241, R380) -/

def zeroBlock : List W32 := List.replicate 64 0#32

/-- Two partials of one block: FP32 sums rounded to nearest even, or exact counts. An absent block is +0 (R380). -/
def addVals (vote : Bool) (a b : List W32) : List W32 :=
  (List.range 64).map fun i => if vote then nth a i + nth b i else fadd (nth a i) (nth b i)

def blockAt (bs : List CollBlock) (k b : Nat) : Option CollBlock := bs.find? fun x => x.entry == k && x.block == b

/-- partial(i) + partial(j) over blocks in the order of entries and blocks; a block that neither has stays absent. -/
def addPartials (vote : Bool) (keys : List (Nat × Nat)) (a b : List CollBlock) : List CollBlock :=
  keys.filterMap fun (k, n) =>
    match blockAt a k n, blockAt b k n with
    | none, none => none
    | x, y =>
      some { entry := k, block := n, n := (x.map (·.n)).getD 0 + (y.map (·.n)).getD 0
             vals := addVals vote ((x.map fun z : CollBlock => z.vals).getD zeroBlock) ((y.map fun z : CollBlock => z.vals).getD zeroBlock) }

/-- The owner's blocks of a collective. -/
def Coll.keys (x : Coll) (owner : Nat) : List (Nat × Nat) :=
  ((List.range x.blocks.length).zip x.blocks).flatMap fun (k, n) => (ownedBlocks n x.o owner).map fun b => (k, b)

def Coll.msgFrom (x : Coll) (owner rank : Nat) : Option CollMsg := x.got.find? fun m => m.owner == owner && m.rank == rank

/-- Everything that must come to this module's position for an owner has come. -/
def Coll.ready (x : Coll) (owner : Nat) : Bool :=
  (collChildren x.v (collPos x.v owner x.rank)).all fun j => (x.msgFrom owner (collRank x.v owner j)).isSome

/-- The partial of this module's position: its own contribution, then its children by rising level. A level whose other
position has no module adds +0. -/
def Coll.partial_ (x : Coll) (owner : Nat) : List CollBlock :=
  let i := collPos x.v owner x.rank
  let keys := x.keys owner
  let own := x.mine.filter fun b => keys.contains (b.entry, b.block)
  (List.range (trailing (treeLevels x.v) i)).foldl (fun p l =>
    let other := if i + 2 ^ l < x.v then ((x.msgFrom owner (collRank x.v owner (i + 2 ^ l))).map (·.blocks)).getD [] else []
    addPartials x.vote keys p other) own

/-- The ERR word of a partial: the maximum of its parts. -/
def Coll.errOf (x : Coll) (owner : Nat) : W32 :=
  (x.got.filter (·.owner == owner)).foldl (fun e m => if e.toNat < m.err.toNat then m.err else e) x.err

def Coll.kind (x : Coll) : Nat := if x.gather then 2 else boolNat x.vote

/-- A message of a collective for an owner. -/
def Coll.msg (x : Coll) (owner : Nat) (err : W32) (bs : List CollBlock) : CollMsg :=
  { groupId := x.groupId, q := x.q, rank := x.rank, owner := owner, kind := x.kind, digest := x.digest, err := err, blocks := bs }

/-! ## Sending -/

def bitmapBytes (bs : List Bool) : List Byte :=
  (List.range ((bs.length + 7) / 8)).map fun i =>
    BitVec.ofNat 8 (((bs.drop (8 * i)).take 8).foldr (fun b n => boolNat b + 2 * n) 0)

/-- Elements of some bits each, packed from the lowest bit up. -/
def packElems (bits : Nat) (vals : List Nat) : List Byte :=
  leBytes (vals.length * bits / 8) (vals.foldr (fun v n => v % 2 ^ bits + 2 ^ bits * n) 0)

/-- A block as it travels: the patterns of its elements, and for a block-scaled weight the scales of their groups (log 41). -/
def gatherBlock (a : Alloc) (place b : Nat) : CollBlock :=
  let ks := (List.range 64).map fun i => 64 * b + i
  let n := a.blockLen b
  { entry := place, block := b, n := 1
    vals := (ks.map fun k => if k < 64 * b + n then BitVec.ofNat 32 (a.pattern k) else 0#32) ++
      if a.block then ks.map fun k => if k < 64 * b + n then BitVec.ofNat 32 (Mem.get a.mem a.dflt (a.scaleAddr k)).toNat else 0#32
      else [] }

/-- Its bytes in the format of its tensor: the 64 elements, then the scale of each of its groups once (R381, R383; log 38). -/
def Alloc.travelBytes (a : Alloc) (x : CollBlock) : List Byte :=
  let at_ := fun i => a.scaleAddr (64 * x.block + i)
  packElems (fmtBits a.code) ((x.vals.take 64).map fun w : W32 => w.toNat) ++
  if a.block then ((List.range (a.blockLen x.block)).filter fun i => !((List.range i).map at_).contains (at_ i)).map fun i =>
    (nth x.vals (64 + i)).truncate 8
  else []

/-- The bytes of a block's values in a partial over more than one voter, or of votes: one bit, 8 or 16 bits per element for
votes, else FP32 (R381). -/
def valueBytes (vote : Bool) (t : Nat) (vals : List W32) : List Byte :=
  if !vote then wordsBytes vals
  else if t = 0 then bitmapBytes (vals.map (· != 0#32))
  else vals.flatMap fun w => leBytes (if t < 8 then 1 else 2) w.toNat

/-- The bytes of a block of a partial that covers 2^t positions: N, then the values; a voter's own block of a SUM, t = 0,
travels in the format of its gradient (R381). -/
def Coll.blockBytes (x : Coll) (t : Nat) (b : CollBlock) : List Byte :=
  if t = 0 then
    (if x.vote then valueBytes true 0 b.vals
     else ((x.raw.find? fun r => r.1 == b.entry && r.2.1 == b.block).map fun r => r.2.2).getD [])
  else leBytes (if t < 8 then 1 else 2) b.n ++ valueBytes x.vote t b.vals

/-- The payload of a message: the header of R379; a partial's ERR word; the presence bitmap of the owner's blocks; each
block. -/
def collBytes (keys : List (Nat × Nat)) (m : CollMsg) (body : CollBlock → List Byte) : List Byte :=
  wordsBytes ([m.groupId, m.q, BitVec.ofNat 32 (m.rank + m.owner * 2 ^ 16 + m.kind * 2 ^ 30), m.digest] ++
    if m.kind = 2 then [] else [m.err]) ++
  bitmapBytes (keys.map fun (k, b) => (blockAt m.blocks k b).isSome) ++ m.blocks.flatMap body

/-- The weight of an entry of a collective. -/
def State.collWeight (s : State) (p : Nat) (x : Coll) (place : Nat) : Option Alloc :=
  ((((s.cmd? x.cmd).bind (·.first)).bind (·.ctx)).bind (·.learn)).bind fun l =>
    (l.entries[x.entries.getD place 0]?).bind fun q => s.alloc? p q.weight

/-- A message for another partition of this module stays on it: it waits with that partition's early messages, unless its
collective is over there (R242; log 38). -/
def collHere (s : State) (p : Nat) (m : CollMsg) : State :=
  s.modPart p fun q => if q.shut.contains (msgKey m) then q else { q with early := q.early ++ [m] }

/-- Sends a message of a collective to a position. -/
def collSend (s : State) (p : Nat) (x : Coll) (owner pos : Nat) (m : CollMsg) : State :=
  let w := x.group.getD (collRank x.v owner pos + 1) 0#32
  let body := fun (b : CollBlock) =>
    if x.gather then ((s.collWeight p x b.entry).map fun a : Alloc => a.travelBytes b).getD []
    else x.blockBytes (trailing (treeLevels x.v) (collPos x.v owner x.rank)) b
  if memberModule w = s.net.moduleId then collHere s (memberPart w) m
  else
    (s.sendMessage p (memberModule w) (memberPart w) 0 0 true (some x.cmd) (collBytes (x.keys owner) m body)).emit
      (.coll (memberModule w) (memberPart w) m)

/-- The sends that a position owes for an owner: its partial, or the blocks it passes on. -/
def Coll.owed (x : Coll) (owner : Nat) : List Nat :=
  let i := collPos x.v owner x.rank
  if x.gather then collChildren x.v i else if i = 0 then [] else [collParent x.v i]

/-- What may be sent for an owner: a partial once its parts have come; a gather once its blocks are here. -/
def Coll.payload (x : Coll) (owner : Nat) : Option (List CollBlock) :=
  let i := collPos x.v owner x.rank
  if x.gather then
    if i = 0 then some x.mine else (x.msgFrom owner (collRank x.v owner (collParent x.v i))).map (·.blocks)
  else if x.ready owner then some (x.partial_ owner) else none

def modColl (s : State) (p : Nat) (c : CmdId) (f : Coll → Coll) : State :=
  s.modPart p fun q => { q with colls := modWhere (·.cmd == c) f q.colls }

/-- Sends for an owner what is due and has not been sent. -/
def collFlush (s : State) (p : Nat) (x : Coll) (owner : Nat) (bs : List CollBlock) : State :=
  (x.owed owner).foldl (fun (s : State) pos =>
    if x.sent.contains (owner, pos) then s
    else (modColl (collSend s p x owner pos (x.msg owner (x.errOf owner) bs)) p x.cmd fun y => { y with sent := y.sent ++ [(owner, pos)] })) s

/-- The engine sends everything that is due. -/
def collAdvance (s : State) (p : Nat) (x : Coll) : State :=
  (List.range x.o).foldl (fun (s : State) owner => match x.payload owner with
    | some bs => collFlush s p x owner bs
    | none => s) s

def Part.coll? (p : Part) (c : CmdId) : Option Coll := p.colls.find? (·.cmd == c)

/-- Every send is done and acknowledged. -/
def collSent (s : State) (p : Nat) (x : Coll) : Bool :=
  (List.range x.o).all (fun o => (x.owed o).all fun pos => x.sent.contains (o, pos)) && !s.outstanding p x.cmd

/-- What this module still waits to receive for an owner has come. -/
def Coll.received (x : Coll) (owner : Nat) : Bool :=
  if x.gather then collPos x.v owner x.rank == 0 || (x.payload owner).isSome else x.ready owner

/-! ## GRAD_REDUCE (0x0503): MODE, GROUP, RANK, V, O, Q, ENTRIES, BUFFER -/

/-- The record of a block in a reduction buffer (Table 9-4). -/
def recordBytes (vote : Bool) (b : Option CollBlock) : List Byte :=
  let vals := (b.map fun x : CollBlock => x.vals).getD zeroBlock
  ((List.range 64).flatMap fun i => leBytes (if vote then 2 else 4) (nth vals i).toNat) ++
  leBytes 2 ((b.map fun x : CollBlock => x.n).getD 0) ++ leBytes 6 0

/-- An element's vote (R241): index within the tensor, q, the gradient. -/
def voteOf (i : Nat) (q g : W32) : W32 :=
  if isNan g || isZero g then (if (i + q.toNat) % 2 = 0 then 1#32 else 0#32) else if flt g 0#32 then 0#32 else 1#32

/-- This voter's blocks of an entry: present and not frozen. -/
def ownBlocks (e : Env) (vote : Bool) (q : W32) (place : Nat) (p : PlanEntry) : List CollBlock :=
  match e.alloc? p.grad, e.alloc? p.weight with
  | some g, some w =>
    ((List.range g.paramBlocks).filter fun b => (g.presence.getD []).contains b && !w.frozen.contains b).map fun b =>
      { entry := place, block := b, n := 1
        vals := (List.range 64).map fun i =>
          if i < g.blockLen b then
            (let v := g.value (64 * b + i); if vote then voteOf (64 * b + i) q v else v)
          else 0#32 }
  | _, _ => []

/-- This voter's blocks of an entry as they travel in a SUM. -/
def ownRaw (e : Env) (place : Nat) (p : PlanEntry) (bs : List CollBlock) : List (Nat × Nat × List Byte) :=
  match e.alloc? p.grad with
  | some g => bs.map fun b => (place, b.block, g.travelBytes (gatherBlock g place b.block))
  | none => []

/-- NaN elements that a voter votes with. -/
def ownNans (e : Env) (p : PlanEntry) : Nat :=
  match e.alloc? p.grad, e.alloc? p.weight with
  | some g, some w =>
    sumBy (fun b => (List.range (g.blockLen b)).countP fun i => isNan (g.value (64 * b + i)))
      ((List.range g.paramBlocks).filter fun b => (g.presence.getD []).contains b && !w.frozen.contains b)
  | _, _ => 0

def collEntries (e : Env) (ks : List Nat) : List PlanEntry := ks.filterMap fun k => (e.plan!).entries[k]?

def groupWords (c : Cmd) (e : Env) (i : Nat) : List W32 := (e.entries (c.a i) 4).map fun w => w.getD 0 0#32

/-- The number of blocks of each entry. -/
def blockCounts (e : Env) (ks : List Nat) : List Nat :=
  ks.map fun k => (((e.weights [k]).filterMap e.alloc?).map Alloc.paramBlocks).headD 0

def reduceColl (c : Cmd) (e : Env) : Coll :=
  let ks := entryList c e 6
  let g := groupWords c e 1
  let vote := c.n 0 == 1
  { cmd := c.id, groupId := g.headD 0#32, q := c.w 5, digest := collDigest g (c.w 0) (c.n 3) (c.n 4) (c.w 5) ks, gather := false,
    vote := vote, v := c.n 3, o := c.n 4, rank := c.n 2, group := g, blocks := blockCounts e ks
    mine := ((List.range ks.length).zip (collEntries e ks)).flatMap fun (k, p) => ownBlocks e vote (c.w 5) k p
    raw := if vote then [] else ((List.range ks.length).zip (collEntries e ks)).flatMap fun (k, p) =>
      ownRaw e k p (ownBlocks e false (c.w 5) k p)
    got := [], sent := [], entries := ks, err := 0#32, epoch := 0#32, buffer := c.w 7 }

/-- The result of a collective that is complete: a reduction in its buffer, or BAD_PACKET when its owner's result carries
ERR (R242, R380, R382). -/
def reduceResult (s : State) (p : Nat) (nans : Nat) (x : Coll) : Option Result :=
  if !collSent s p x || !(List.range x.o).all (fun o => o != x.rank || x.received o) then none
  else
    let done : Reduced := { buffer := x.buffer, q := x.q, vote := x.vote, rank := x.rank, o := x.o, entries := x.entries, blocks := x.blocks }
    let eff := Eff.reduce nans done
    if x.rank < x.o then
      if x.errOf x.rank ≠ 0#32 then some Result.badState
      else
        let res := x.partial_ x.rank
        some { Result.ok eff with
          writes := [rawWrite x.buffer 0 ((x.keys x.rank).flatMap fun (k, b) => recordBytes x.vote (blockAt res k b))] }
    else some (Result.ok eff)

def entriesKnown (c : Cmd) (e : Env) (i : Nat) : Bool :=
  e.plan.isSome && (entryList c e i).all fun k => decide (k < (e.plan!).entries.length)

def reduceReads (c : Cmd) (e : Env) : List (W32 × Nat × Nat) :=
  ((c.a 1).handle, (c.a 1).off, 4 * (c.a 1).count) :: ((c.a 6).handle, (c.a 6).off, 4 * (c.a 6).count) ::
  (collEntries e (entryList c e 6)).flatMap fun p => match e.alloc? p.grad with
    | some g => (g.presence.getD []).flatMap fun b => (refRanges g (64 * b) (g.blockLen b)).map fun (lo, hi) => (p.grad, lo, hi - lo)
    | none => []

def ownedBytes (c : Cmd) (e : Env) : Nat :=
  reduceRecordBytes (c.n 0 == 1) * sumBy (fun n => (ownedBlocks n (c.n 4) (c.n 2)).length) (blockCounts e (entryList c e 6))

def nansOf (c : Cmd) (e : Env) : Nat := if c.n 0 = 1 then sumBy (ownNans e) (collEntries e (entryList c e 6)) else 0

/-- Partials that came before the command was dispatched, each once (log 38). -/
def firstOfEach (l : List CollMsg) : List CollMsg :=
  l.foldl (fun r m => if r.any fun y => y.owner == m.owner && y.rank == m.rank then r else r ++ [m]) []

/-- A collective opens with the partials that came early. -/
def openColl (s : State) (p : Nat) (x : Coll) : State :=
  s.modPart p fun q =>
    let mine := fun (m : CollMsg) => msgKey m == x.key
    { q with
      colls := q.colls ++ [{ x with got := firstOfEach (q.early.filter fun m => mine m && m.digest == x.digest) }]
      early := q.early.filter fun m => !mine m
      shut := q.shut.filter (· != x.key) }

/-- A partial with another DIGEST came early. -/
def earlyMismatch (s : State) (p : Nat) (x : Coll) : Bool :=
  ((s.part? p).map fun q => q.early.any fun m => msgKey m == x.key && m.digest != x.digest).getD false

/-- A DIGEST that differs is recorded, and the partials still owed go out with ERR set (R379). -/
def collSpoil (s : State) (p : Nat) (x : Coll) : State :=
  let s := s.detect { source := 0x4C, inst := 0, part := some p, info := ((s.cmd? x.cmd).map (·.opcode)).getD 0, cmd := some x.cmd }
  if x.gather then s
  else
    let y := { x with err := 1#32 }
    (List.range x.o).foldl (fun (s : State) o => collFlush s p y o (y.partial_ o)) s

/-- An open collective takes the messages that have come from this module since its row last ran, each once. -/
def collAbsorb (s : State) (p : Nat) (x : Coll) : State :=
  s.modPart p fun q =>
    { q with
      colls := modWhere (·.cmd == x.cmd) (fun y => { y with
        got := firstOfEach (y.got ++ q.early.filter fun m => msgKey m == x.key && m.digest == x.digest) }) q.colls
      early := q.early.filter fun m => msgKey m != x.key }

/-- At most 64 collectives are open in a partition (R382). -/
def collsOpen : Nat := 64

def runGradReduce (s : State) (c : Cmd) (e : Env) : State × Option Result :=
  let p := e.part.num
  match (s.part? p).bind (·.coll? c.id) with
  | some x =>
    if earlyMismatch s p x then (collSpoil s p x, some Result.badState)
    else
      let s := collAbsorb s p x
      let s := collAdvance s p (((s.part? p).bind (·.coll? c.id)).getD x)
      (s, ((s.part? p).bind (·.coll? c.id)).bind (reduceResult s p (nansOf c e)))
  | none =>
    checked s c
      [ (c.off 0, decide (c.n 0 < 2)), (c.off 1, e.arrayOk (c.a 1) 4), (c.off 2, decide (c.n 2 < c.n 3)),
        (c.off 3, decide (1 ≤ c.n 3) && decide (c.n 3 ≤ 16384)), (c.off 4, decide (1 ≤ c.n 4) && decide (c.n 4 ≤ c.n 3)),
        (c.off 6, e.arrayOk (c.a 6) 4), (c.off 7, decide (c.n 4 ≤ c.n 2) || e.bufferOk (c.w 7) 0 0) ]
      (groupOk s p (c.n 2) (c.n 3) (groupWords c e 1) && entriesKnown c e 6) (reduceReads c e) [] e fun s =>
      if c.n 2 < c.n 4 ∧ e.bufferOk (c.w 7) 0 (ownedBytes c e) = false then (s, some (Result.bare stNO_RESOURCE))
      else if collsOpen ≤ ((s.part? p).map (·.colls.length)).getD 0 then (s, none)
      else
        let bad := earlyMismatch s p (reduceColl c e)
        let s := openColl s p (reduceColl c e)
        if bad then (collSpoil s p (reduceColl c e), some Result.badState) else
        let s := match (s.part? p).bind (·.coll? c.id) with | some x => collAdvance s p x | none => s
        (s, ((s.part? p).bind (·.coll? c.id)).bind (reduceResult s p (nansOf c e)))

def execGradReduce (c : CmdId) (s : State) : Answer := runOp 0x0503 c s runGradReduce

/-- The reduction is committed in its buffer; NaN votes are counted. -/
def commitReduce (s : State) (c : Cmd) (nans : Nat) (r : Reduced) : State :=
  let s := if r.rank < r.o then s.modPart (s.cmdPart c.id) fun q =>
    { q with reduced := q.reduced.filter (·.buffer != r.buffer) ++ [r] } else s
  s.modIface c.id.iface fun f => { f with lrnNonfinite := satNat32 (f.lrnNonfinite + nans) }

/-! ## PARAM_GATHER (0x0506): GROUP, RANK, O, Q, ENTRIES, E -/

/-- The blocks that this owner's RULE_APPLY changed. -/
def changedBy (e : Env) (q : W32) (ks : List Nat) : List CollBlock :=
  match e.part.updates.find? (·.q == q) with
  | none => []
  | some u => ((List.range ks.length).zip ks).flatMap fun (place, k) =>
      match ((e.weights [k]).filterMap e.alloc?).head?, u.changed.find? fun x : Nat × List Nat => x.1 == k with
      | some a, some (_, bs) => bs.map (gatherBlock a place)
      | _, _ => []

def gatherColl (c : Cmd) (e : Env) : Coll :=
  let ks := entryList c e 4
  let g := groupWords c e 0
  let v := g.length - 1
  { cmd := c.id, groupId := g.headD 0#32, q := c.w 3, digest := collDigest g (c.w 5) v (c.n 2) (c.w 3) ks, gather := true,
    vote := false, v := v, o := c.n 2, rank := c.n 1, group := g, blocks := blockCounts e ks
    mine := if c.n 1 < c.n 2 then changedBy e (c.w 3) ks else [], raw := [], got := [], sent := [], entries := ks, err := 0#32,
    epoch := c.w 5, buffer := 0#32 }

/-- The write of received blocks into a forward copy. A block that is frozen here is not written (R249); a scale group that
such a block shares keeps its scale, and the elements received for it are encoded under that scale (log 39). -/
def gatherWrite (a : Alloc) (bs : List CollBlock) : TWrite :=
  let came := (bs.filter fun b => !a.frozen.contains b.block).flatMap fun b =>
    (List.range (a.blockLen b.block)).map fun i => (64 * b.block + i, (nth b.vals i).toNat, ((nth b.vals (64 + i)).truncate 8 : Byte))
  let kept := fun (k : Nat) => a.block && (a.groupOf k).any fun j => a.frozen.contains (j / 64)
  let es := came.map fun (k, x, sc) =>
    if kept k then
      (k, (encodeUnder a.code false none (Mem.get a.mem a.dflt (a.scaleAddr k)) (toRange32 ((decodeElem a.code true x).mul (decodeScale sc)))).1)
    else (k, x)
  let sc := if a.block then (came.filter fun x => !kept x.1).map fun (k, _, sc) => (a.scaleAddr k, sc) else []
  let v := (a.putElems es).putScales sc
  { handle := a.handle, elems := es, scales := sc
    stats := statsOf (es.map fun (k, _) => v.exact k) [], dscale := none, count := none }

def gatherResult? (s : State) (p : Nat) (e : Env) (x : Coll) : Option Result :=
  if !collSent s p x || !(List.range x.o).all x.received then none
  else
    let bs := x.got.flatMap (·.blocks)
    let writes := ((List.range x.entries.length).zip x.entries).filterMap fun (place, k) =>
      (((e.weights [k]).filterMap e.alloc?).head?).bind fun a =>
        let mine := bs.filter (·.entry == place)
        if mine.isEmpty then none else some (gatherWrite a mine)
    some { Result.ok (.gather x.entries x.epoch) with writes := writes }

def runParamGather (s : State) (c : Cmd) (e : Env) : State × Option Result :=
  let p := e.part.num
  match (s.part? p).bind (·.coll? c.id) with
  | some x =>
    if earlyMismatch s p x then (collSpoil s p x, some Result.badState)
    else
      let s := collAbsorb s p x
      let s := collAdvance s p (((s.part? p).bind (·.coll? c.id)).getD x)
      (s, ((s.part? p).bind (·.coll? c.id)).bind (gatherResult? s p e))
  | none =>
    let g := groupWords c e 0
    checked s c
      [ (c.off 0, e.arrayOk (c.a 0) 4 && decide (2 ≤ g.length) && decide (g.length ≤ 16385)),
        (c.off 1, decide (c.n 1 + 1 < g.length)), (c.off 2, decide (1 ≤ c.n 2) && decide (c.n 2 < g.length)), (c.off 4, e.arrayOk (c.a 4) 4) ]
      (groupOk s p (c.n 1) (g.length - 1) g && entriesKnown c e 4)
      ([((c.a 0).handle, (c.a 0).off, 4 * (c.a 0).count), ((c.a 4).handle, (c.a 4).off, 4 * (c.a 4).count)] ++
        (e.weights (entryList c e 4)).map fun h => (h, 0, ((e.alloc? h).map (·.size)).getD 0)) [] e fun s =>
      if collsOpen ≤ ((s.part? p).map (·.colls.length)).getD 0 then (s, none)
      else
        let bad := earlyMismatch s p (gatherColl c e)
        let s := openColl s p (gatherColl c e)
        if bad then (collSpoil s p (gatherColl c e), some Result.badState) else
        let s := match (s.part? p).bind (·.coll? c.id) with | some x => collAdvance s p x | none => s
        (s, ((s.part? p).bind (·.coll? c.id)).bind (gatherResult? s p e))

def execParamGather (c : CmdId) (s : State) : Answer := runOp 0x0506 c s runParamGather

/-- The forward copies are of epoch E, and serve (R250). -/
def commitParamGather (s : State) (c : Cmd) (entries : List Nat) (epoch : W32) (writes : List TWrite) : State :=
  let n := s.cmdPart c.id
  let ps := (((s.ctx? c.ctx).bind (·.learn)).map (·.entries)).getD []
  let s := entries.foldl (fun (s : State) k => match ps[k]? with
    | some p =>
      let bs := ((writes.filter (·.handle == p.weight)).flatMap fun w => w.elems.map fun (k, _) => k / 64).eraseDups
      s.modAlloc n p.weight (·.carryEpoch bs epoch)
    | none => s) s
  s.modPart n fun q => { q with epo := { q.epo with fwdEpoch := epoch, serves := true } }

/-! ## COLL_PACKET_RECEIVE -/

/-- The open collective that a message belongs to. -/
def Part.collFor (p : Part) (m : CollMsg) : Option Coll :=
  p.colls.find? fun x => x.key == msgKey m

/-- A collective whose command runs gives its result once it is complete. -/
def collTry (s : State) (p : Nat) (c : CmdId) : State :=
  match s.cmd? c with
  | none => s
  | some k =>
    if k.phase ≠ .dispatched then s
    else
      match s.env? k.opcode c, (s.part? p).bind (·.coll? c) with
      | some (k, e), some x =>
        match (if x.gather then gatherResult? s p e x else reduceResult s p (nansOf k e) x) with
        | some r => finishRow s k r
        | none => s
      | _, _ => s

/-- A DIGEST that differs: the command completes with BAD_PACKET. -/
def collMismatch (s : State) (p : Nat) (x : Coll) : State :=
  let s := collSpoil s p x
  match s.cmd? x.cmd with
  | some k => s.complete k Result.badState
  | none => s

/-- A message of a collective. A duplicate, and one of a collective whose command has completed, is discarded (R242, R382);
one that comes before its command is dispatched waits for it (log 38). -/
def collReceive (s : State) (p : Nat) (m : CollMsg) : State :=
  match (s.part? p).bind (·.collFor m) with
  | none => s.modPart p fun q => if q.shut.contains (msgKey m) then q else { q with early := q.early ++ [m] }
  | some x =>
    if m.digest ≠ x.digest then collMismatch s p x
    else if (x.msgFrom m.owner m.rank).isSome then s
    else
      let s := modColl s p x.cmd fun y => { y with got := y.got ++ [m] }
      match (s.part? p).bind (·.coll? x.cmd) with
      | some y => collTry (collAdvance s p y) p x.cmd
      | none => s

def execCollPacketReceive (part : Nat) (m : CollMsg) (s : State) : Answer :=
  if s.awake then .next (collReceive s.wake part m).noteSched else .next s

end Sys2Proof.Machine
end

