-- ==== Sys2Proof/Machine/Completion.lean ====
section
/-!
DEFINITION. COMMAND_COMPLETION: the oldest ready command of a partition commits what it has to commit and completes (spec 11
R287-R289, R295-R298; 13 R342).
-/
namespace Sys2Proof.Machine

/-! ## What still holds a ready command back -/

/-- No command of a context runs with what a restore replaces: scale entries, tables, seed and mode (R358). -/
def State.ctxQuiet (s : State) (c : Cmd) (x : Nat) : Bool :=
  let k := { c with ctx := x }
  !scaleBusy s k 0 8192 && !s.seedBound k && !(shadowBound s k 0 || (List.range 4).any fun i => shadowBound s k (0x10 + i))

/-- The weights that an update of plan entries changes. -/
def State.planWeights (s : State) (c : Cmd) (ks : List Nat) : List W32 :=
  let ps := (((s.ctx? c.ctx).bind (·.learn)).map (·.entries)).getD []
  ks.filterMap fun k => (ps[k]?).map (·.weight)

/-- A write of a whole allocation, as the reserve sees it. -/
def wholeWrite (a : Alloc) : TWrite :=
  { handle := a.handle, elems := [], scales := (List.range (pageCount a.size)).map fun g => (g * pageBytes, 0#8)
    stats := Stats.zero, dscale := none, count := none }

/-- The writes of a commit, with those of a learner's load: its weights and their masters (R274). -/
def State.commitSet (s : State) (c : Cmd) (r : Result) : List TWrite :=
  let p := s.cmdPart c.id
  match r.eff, s.part? p with
  | .budLoad, some q =>
    if q.role = roleLearn then
      let ms := q.epo.map.map (·.handle)
      let plan := (((s.partCtxs p).findSome? (·.learn)).map (·.entries)).getD []
      let hs := ms ++ (plan.filter fun e => ms.contains e.weight && e.master != 0#32).map (·.master)
      r.writes ++ (hs.filterMap (s.alloc? p)).map wholeWrite
    else r.writes
  | _, _ => r.writes

/-- A completion changes committed state (R295). -/
def Result.commits (r : Result) : Bool := r.status == stOK || r.always

/-- Waits that a commit may still have to make: for bindings of running commands (R76, R104, R127, R225, R228), for the end
of a drain (R334), for a batch step (R199), and for reserve pages (R342). -/
def State.mayCommit (s : State) (c : Cmd) (r : Result) : Bool :=
  let p := s.cmdPart c.id
  !r.commits || c.pastWrite ||
  ((match r.eff with
    | .rngSet _ _ => !s.seedBound c
    | .rngPut _ _ _ => !s.seedBound c
    | .scale es => es.all fun e => !scaleBusy s c e.1 (e.1 + 1)
    | .table sel _ => !shadowBound s c sel
    | .ruleLoad slot _ => !s.ruleBound p slot
    | .learnPlan _ => !s.planBound c
    | .ruleApply u _ _ _ => !s.stepHolds p c.id (s.planWeights c (u.changed.map (·.1)))
    | .gather ks _ => !s.stepHolds p c.id (s.planWeights c ks)
    | .mask k _ => !s.stepHolds p c.id (s.planWeights c [k])
    | .budLoad => ((s.part? p).map fun q => q.role != roleLearn || !s.stepHolds p c.id (q.epo.map.map (·.handle))).getD true
    | .genCancel n => match (s.part? p).bind (·.reqOf c.id.iface n) with
      | some q => !s.inStep p q.slot
      | none => true
    | .complRing _ _ => !s.owes c.id.iface
    | .ringDestroy n => s.ringIdle p n
    | .ckpConfig _ => ((s.part? p).map (·.ckp.drain.isNone)).getD true
    | .ckpRestore _ ctxs _ hs => ctxs.all (fun x => s.ctxQuiet c x.id) && !s.stepHolds p c.id hs
    | _ => true) &&
   decide ((s.reserveNeed p (s.commitSet c r)).length ≤ ((s.part? p).map (·.ckp.reserveFree)).getD 0))

/-! ## The commit -/

/-- Effects that can turn out to have no room or no target at the commit; they answer the result that the reply shows. -/
def commitFirst (s : State) (c : Cmd) (r : Result) : State × Result :=
  let p := s.cmdPart c.id
  match r.eff with
  | .queCreate q k => commitQueCreate s c q k r
  | .alloc a => commitAlloc s c a r
  | .free h => commitFree s c h r
  | .plan hs w d => commitPlan s c hs w d r
  | .expose h => commitExpose s c h r
  | .genConfig g => commitGenConfig s p g r
  | .genAdd ds res off => commitGenAdmit s c ds res off r
  | .genCancel n => commitGenCancel s c n r
  | .learnPlan l => commitLearnPlan s c l r
  | .epoMap ms arr off => commitEpoMap s c ms arr off r
  | .budPublish e => commitBudPublish s c e r
  | .budDiscard => commitBudDiscard s c r
  | .ringCreate h gs => commitRingCreate s p h gs r
  | .semInit m n => commitSemInit s c m n r
  | .semAcquire m u => commitSemAcquire s c m u r
  | .semRelease m u => commitSemRelease s c m u r
  | .ckpConfig k => commitCkpConfig s p k r
  | .ctxCreate foot prio => commitCtxCreate s c foot prio r
  | _ => (s, r)

/-- A table's words are written on every tile of the partition. -/
def strikeTiles (s : State) (p n : Nat) : State :=
  match s.part? p with
  | some q => (List.range q.tiles).foldl (fun s i => s.strikeTable p (q.firstTile + i) n) s
  | none => s

/-- Effects that always take place with the commit. -/
def commitAfter (s : State) (c : Cmd) (r : Result) : State :=
  let p := s.cmdPart c.id
  match r.eff with
  | .unexpose h => commitUnexpose s p h
  | .scale es => commitScale s c.ctx es
  | .table sel ws => commitTable (strikeTiles s p ((ws.length + 1) / 2)) c.ctx sel ws
  | .genStep b => commitGenStep s p c.id.iface b
  | .genPrefill n => commitGenPrefill s c.id.iface n
  | .complRing h n => commitComplRing s c.id.iface h n
  | .learnStep pr mx tk cl lg => commitLearnStep s c pr mx tk cl lg
  | .reduce n x => commitReduce s c n x
  | .ruleLoad slot ws => commitRuleLoad s p slot ws
  | .ruleApply u e n sv => commitRuleApply s c u e n sv
  | .gather ks e => commitParamGather s c ks e r.writes
  | .mask k bs => commitMask s c k bs
  | .epoGrant gs => commitEpoGrant s p gs
  | .budLoad => commitBudLoad s c
  | .classSet n k gamma lambda => commitClassSet s p n k gamma lambda
  | .score n req recs => commitScore s c n req recs
  | .expGather src n => commitGather s src n c.id
  | .ringDestroy n => commitRingDestroy s p n
  | .evtSet e add v => commitEvtSet s c.id.iface e add v
  | .ckpStep add v => commitCkpStep s p add v
  | .ckpRestore st xs es hs => commitCkpRestore s p st xs es hs
  | .rngSet seed det => commitRngSet s c.ctx seed det
  | .rngPut seed det gs => commitRngPut s c.ctx seed det gs
  | .ctxDestroy t => s.dropCtx t
  | .ctxPriority t n => commitCtxPriority s t n
  | _ => s

/-- The records that are formed at the commit: statistics (spec 06 R146) and checkpoint status (R359). -/
def State.recordsAt (s : State) (c : Cmd) (r : Result) : Result :=
  if r.status ≠ stOK then r
  else if c.opcode = 0x0205 then
    let seen := c.view.bind fun v => v.allocs.find? (·.handle == c.w 0)
    match (s.contents (s.cmdPart c.id) (c.w 0)).or seen with
    | some a => { r with writes := [rawWrite (c.t 1).handle (c.t 1).off (statsBytes a.stats)] }
    | none => r
  else if c.opcode = 0x0904 then { r with writes := statusWrite s c }
  else r

/-- The committed generators of the context whose seed and mode a command bound (spec 05 R122). -/
def commitGens (s : State) (c : Cmd) (r : Result) : State :=
  match r.gens with
  | some gs => s.modCtx c.boundCtx fun x => { x with gens := gs }
  | none => s

/-- The writes of a command, in the copies that its handles name (spec 10 R252). Nothing holds for it a copy that a switch has
freed since: what it writes there is lost with that copy (log 68). -/
def State.copyWrites (s : State) (c : Cmd) (ws : List TWrite) : List TWrite :=
  if c.copyEpoch.isSome && (s.copyIndex c).isNone then
    ws.filter fun w => ((s.alloc? (s.cmdPart c.id) w.handle).map fun a => match a.role with | .epoch _ => false | _ => true).getD true
  else ws

/-- Everything a command commits, in one step; answers the result of its reply. -/
def commitAll (s : State) (c : Cmd) (r : Result) : State × Result :=
  let p := s.cmdPart c.id
  let r := s.recordsAt c r
  let need := s.reserveNeed p (s.commitSet c r)
  let (t, r') := commitFirst s c r
  if !r'.commits then (t, r')
  else
    let t := if need.isEmpty then t else t.modPart p fun q => { q with ckp := q.ckp.keepPages none need }
    let ws := t.copyWrites c r'.writes
    (commitAfter (commitGens (t.facing p (t.copyIndex c) fun t => t.commitWrites p c.id.iface ws) c r') c r', r')

/-- A ready command completes: it commits, replies and signals; failures pass down its dependents (R295, R296). A queue that
it destroys is freed after the reply (R298). -/
def completeReady (s : State) (c : Cmd) (r : Result) : State :=
  let (t, r') := if r.commits then commitAll s c r else (s, r)
  let t := t.complete c r'
  let t := match r'.eff with
    | .queDestroy q => if r'.status = stOK then freeQueue t c.id.iface q else t
    | _ => t
  let t := if r.commits then t.numberJobs (s.cmdPart c.id) (t.openAllocs (s.cmdPart c.id)) else t
  if c.opcode = 0x0405 then t.settleHeld (s.cmdPart c.id) else t

/-- The ready commands of a partition, with their results. -/
def State.readyCmds (s : State) (p : Nat) : List (Cmd × Result) :=
  (s.partCmds p).filterMap fun c => match c.phase with | .ready r => some (c, r) | _ => none

/-- The oldest ready command that nothing holds back. -/
def State.nextCommit (s : State) (p : Nat) : Option (Cmd × Result) :=
  minBy (fun x : Cmd × Result => x.1.order) ((s.readyCmds p).filter fun (c, r) => s.mayCommit c r)

/-- The reserve pages that the commit of a ready command waits for. -/
def State.lacksPages (s : State) (p : Nat) (c : Cmd) (r : Result) : List (W32 × Nat) :=
  let need := if r.commits && !c.pastWrite then s.reserveNeed p (s.commitSet c r) else []
  if need.length ≤ ((s.part? p).map (·.ckp.reserveFree)).getD 0 then [] else need

/-- Commits that wait for reserve pages call for those pages (13 R342, R343). -/
def State.stallCommits (s : State) (p : Nat) : State :=
  (s.readyCmds p).foldl (fun t (c, r) => match s.lacksPages p c r with
    | [] => t
    | need => t.stall c.id need) s

/-- COMMAND_COMPLETION. -/
def commandCompletion (s : State) (p : Nat) : State :=
  match s.nextCommit p with
  | some (c, r) => completeReady s c r
  | none => s.stallCommits p

def execCommandCompletion (part : Nat) (s : State) : Answer :=
  if s.awake then .next (commandCompletion s part).noteSched else .next s

/-- ATOMIC commands past their first write finish, each with its own status (R297). -/
def finishAtomic (s : State) : List CmdId → State
  | [] => s
  | i :: l =>
    match s.cmd? i with
    | none => finishAtomic s l
    | some c =>
      match c.phase with
      | .ready r => finishAtomic (if c.pastWrite then completeReady s c r else s) l
      | _ => finishAtomic s l

end Sys2Proof.Machine
end

