-- ==== Sys2Proof/Machine/Flags.lean ====
section
/-!
DEFINITION. Status words that the module forms from its state: links and host ports (spec 14), the collector and the fault
view (spec 15).
-/
namespace Sys2Proof.Machine

/-- A word of fields, each with its lowest bit. -/
def packed (fs : List (Nat × Nat)) : W32 := BitVec.ofNat 32 (fs.foldl (fun n (lo, v) => n + v * 2 ^ lo) 0)

/-- The partition that owns a fabric link. -/
def State.linkOwner (s : State) (k : Nat) : Option Part := s.parts.find? (·.ownsLink k)

/-- NET.LINK_STAT (spec 14 Table 14-11). -/
def State.linkStat (s : State) (k : Nat) : W32 :=
  match s.link? k with
  | none => 0#32
  | some l =>
    let o := s.linkOwner k
    packed [(0, boolNat l.up), (1, boolNat l.training), (2, boolNat l.lpi), (3, boolNat l.seed), (4, boolNat l.failed),
      (16, ((o.map (·.num)).getD 0)), (21, boolNat o.isSome)]

/-- NET.HP_STAT (spec 14 Table 14-9). -/
def State.portStat (s : State) (p : Nat) : W32 :=
  match s.port? p with
  | none => 0#32
  | some h => packed [(0, boolNat h.up), (1, boolNat h.training), (2, boolNat h.pfcIgnored)]

/-- FLT.STATUS (spec 15 Table 15-10). -/
def State.fltStatus (s : State) : W32 :=
  packed [(0, boolNat s.flt.safe), (1, boolNat s.faultN), (2, boolNat s.flt.self), (3, boolNat s.flt.armed), (8, s.flt.lastSrc % 128),
    (16, s.flt.recs.countP (fun e => e.2.pending && decide (sevNotify ≤ e.2.sev)) % 128)]

/-- FLT.PEND[i]. -/
def State.fltPend (s : State) (i : Nat) : W32 :=
  packed ((List.range 32).map fun j => (j, boolNat (s.flt.recOf (32 * i + j)).pending))

def Scope.code : Scope → Nat
  | .c => 0
  | .p => 1
  | .s => 2

/-- FLT.SEV (spec 15 Table 15-11). -/
def State.fltSev (s : State) (n : Nat) : W32 :=
  match sourceScope n with
  | none => 0#32
  | some sc => packed [(0, s.severity n), (4, sc.code), (6, boolNat (sourceLocked n))]

/-- FLT.REC_CTRL (spec 15 Table 15-12). -/
def State.recCtrl (s : State) (n : Nat) : W32 :=
  let r := s.flt.recOf n
  packed [(0, boolNat r.pending), (1, r.sev), (16, r.count)]

/-- FLT.V_STATUS of an interface (spec 15 Table 15-4). -/
def State.viewStatus (s : State) (f : Iface) : W32 :=
  match s.part? f.part with
  | some p => packed [(0, boolNat p.fenced), (1, boolNat p.degraded)]
  | none => 0#32

/-- FLT.INJ_COUNT (spec 15 Table 15-10). -/
def Flt.injWord (f : Flt) : W32 := packed [(0, f.injCount), (31, boolNat f.armed)]

/-- INFO of a link or port source: bits [15:0] of its status (spec 15 R395). -/
def State.linkInfo (s : State) (k : Nat) : Nat := (s.linkStat k).toNat % 65536
def State.portInfo (s : State) (p : Nat) : Nat := (s.portStat p).toNat % 65536

/-! ## Capability words (spec 00 Tables 0-2 to 0-5; 02, 04, 05, 06, 09, 14) -/

def Variant.code : Variant → Nat
  | .f => 0
  | .l => 1
  | .n => 2

/-- The capability register at an offset of the window (R7). -/
def State.capWord (s : State) (off : Nat) : W32 :=
  let f := s.fit
  match off with
  | 0x2000 => packed [(16, 0x5351), (8, 4), (0, f.stepping.toNat)]
  | 0x2004 => BitVec.ofNat 32 f.variant.code
  | 0x2008 => packed [(12, boolNat f.scan), (8, 2 ^ f.hostPorts - 1), (0, f.ddrMask)]
  | 0x200C => BitVec.ofNat 32 (2 ^ f.links - 1)
  | 0x2010 => BitVec.ofNat 32 f.ddrGib
  | 0x2014 => 0x10804080#32
  | 0x2018 => 0x00030FFF#32
  | 0x201C => packed [(16, s.mgt.coefVer.toNat), (8, 4)]
  | 0x2020 => 0x00411040#32
  | 0x2024 => packed [(24, f.ddrRate), (20, f.ddrDev), (0, 0x170)]
  | 0x2028 => 0x40008420#32
  | 0x202C => packed [(17, boolNat s.net.fam6), (16, boolNat s.net.idValid), (0, s.net.moduleId)]
  | _ => 0#32

/-! ## Power, clocks and management words (spec 16 Tables 16-5 to 16-10; 17 Tables 17-10, 17-11) -/

/-- The issue fraction in force: the smallest of the three (spec 16 R423). -/
def Pwr.effFrac (p : Pwr) : Nat := min (min p.gov p.thermFrac) p.brake

/-- PWR.STATE. -/
def State.powerWord (s : State) : W32 :=
  packed [(11, boolNat s.pwr.guard), (10, boolNat (decide (s.pwr.thermFrac < 16))), (9, boolNat (!s.pins.pwrbrkN)), (8, boolNat s.pwr.cap),
    (0, s.pwr.state.toNat)]

/-- PWR.ISSUE. -/
def Pwr.issueWord (p : Pwr) : W32 := packed [(24, p.effFrac), (16, p.brake), (8, p.thermFrac), (0, p.gov)]

/-- PWR.ALLOW: whole millijoules, rounded down. -/
def Pwr.allowWord (p : Pwr) : W32 := BitVec.ofInt 32 (p.allow / 1000000)

def meanOf (l : List Nat) : Nat := if l.isEmpty then 0 else l.foldl (· + ·) 0 / l.length

/-- Averages over 50 windows in a row, of the newest n starts. -/
def runMeans (l : List Nat) : Nat → Nat
  | 0 => 0
  | n + 1 => max (meanOf (l.take 50)) (runMeans (l.drop 1) n)

/-- PWR.IN_W: the mean of the last 1 ms, and the highest 100 µs mean of the last 100 ms, in watts. -/
def Pwr.inputWord (p : Pwr) : W32 :=
  packed [(0, satNat16 (meanOf (p.windows.take 500) / 1000)), (16, satNat16 (runMeans p.windows (p.windows.length - 49) / 1000))]

/-- MGT.STATUS. -/
def State.mgtStatus (s : State) : W32 :=
  let m := s.mgt
  packed [(8, boolNat m.pref), (5, boolNat (s.phase == .recovery)), (4, boolNat m.key.isSome), (3, boolNat m.otherSvn.isSome),
    (2, boolNat m.fallback), (0, boolNat m.running)]

/-- MGT.SVN. -/
def Mgt.svnWord (m : Mgt) : W32 := packed [(16, m.otherSvn.getD 0xFF), (8, m.svn), (0, m.fuses.rollback)]

/-- MGT.PROXY_CFG. -/
def Mgt.proxyWord (m : Mgt) : W32 :=
  match m.proxy with
  | some (i, p) => packed [(16, 1), (8, p), (0, i)]
  | none => 0#32

/-! ## Epoch words (spec 10 Tables 10-7, 10-8) -/

def BudSt.code : BudSt → Nat
  | .free => 0
  | .waitArea => 1
  | .loading => 2
  | .partial_ => 3
  | .ready => 4
  | .pending => 5

/-- EPO.STATE. -/
def Part.epoWord (p : Part) : W32 :=
  if p.role = roleLearn then packed [(8, boolNat p.epo.serves)]
  else packed [(10, p.epo.areas.length), (9, boolNat (p.epo.hasArea .held)), (8, boolNat (p.epo.hasArea .bloom)), (0, p.epo.bud.code)]

/-- The epoch of an area; 0 with none. -/
def Part.areaEpoch (p : Part) (r : AreaRole) : W32 := ((p.epo.area? r).map (·.epoch)).getD 0#32

def Part.bloomWord (p : Part) : W32 := if p.role = roleLearn then p.epo.fwdEpoch else p.areaEpoch .bloom

end Sys2Proof.Machine
end

