-- ==== Sys2Proof/Machine/Fabric.lean ====
section
/-!
DEFINITION. The Benzel transport: receiving packets, acknowledgements, credits, rates, retransmission and paths
(spec 14 R367, R370-R378).
-/
namespace Sys2Proof.Machine

/-! ## Receiving a packet (R371, R372) -/

def BzPacket.word (p : BzPacket) (i : Nat) : W32 := p.hdr.getD i 0#32
def bzType (p : BzPacket) : Nat := field (BzPacket.word p 0) 7 4
def bzSrc (p : BzPacket) : End := endOf (BzPacket.word p 1)
def bzDst (p : BzPacket) : End := endOf (BzPacket.word p 2)
def bzFlow (p : BzPacket) : Nat := field (BzPacket.word p 3) 15 0
def bzInc (p : BzPacket) : Nat := field (BzPacket.word p 3) 31 16
def bzPsn (p : BzPacket) : Nat := (BzPacket.word p 4).toNat
def bzArg (p : BzPacket) : W32 := BzPacket.word p 5
def bzGrant (p : BzPacket) : Bool := bitAt (bzArg p) 16

/-- A request for credits: it may arrive on any link (R370, R372). -/
def bzRequest (p : BzPacket) : Bool := bzType p == tyCredit && !bzGrant p

/-- The CRC-32C of a packet is right. -/
def bzCrcOk (p : BzPacket) : Bool := crc32c (wordsBytes p.hdr ++ p.payload) == p.crc

/-- R372: what a receiver discards. A partition receives only on links it owns (R370). -/
def State.bzDropped (s : State) (k : Nat) (l : Link) (p : BzPacket) : Bool :=
  let d := bzDst p
  field (BzPacket.word p 0) 3 0 != 1 || decide (6 < bzType p) || d.module_ != s.net.moduleId ||
  !(((s.part? d.part).map fun q => bzRequest p || (q.ownsLink k && d.link == k)).getD false) ||
  decide (l.limit < field (BzPacket.word p 0) 31 16) || !p.udpOk

def State.countNet (s : State) (f : Net → Net) : State := s.modNet f

/-- A packet of one of some types, received on a link that is up: `good` with a right CRC, `bad` with a wrong one. -/
def bzReceive (s : State) (k : Nat) (p : BzPacket) (types : List Nat) (good bad : State → State) : Answer :=
  if !decide (k < 32) then .fault .noSuchUnit
  else
    match (if s.windowUp then s.link? k else none) with
    | none => .next s
    | some l =>
      if !l.up then .next s
      else
        let s := (s.wake).modLink k fun l => { l with asleep := false, lastFrame := s.clk.localUs }
        if s.bzDropped k l p then .next (s.countNet fun n => { n with drops := sat64 (n.drops + 1) })
        else if !types.contains (bzType p) then .next s
        else if bzCrcOk p then .next (good s).noteSched
        else .next (bad s)

/-! ## Control packets of a receiver -/

/-- A control packet from a link of a partition to the link a flow's packets come from. -/
def State.answerFlow (s : State) (part link : Nat) (f : RecvId) (peer inc type psn : Nat) (arg : W32) : State :=
  s.emitPacket link (bzHeader type false false 0 { module_ := s.net.moduleId, part := part, link := link }
    { module_ := f.srcModule, part := f.srcPart, link := peer } f.flow inc psn arg 0) [] 0#32

def State.recv? (s : State) (f : RecvId) : Option RecvFlow := s.net.recvs.find? (·.id == f)
def State.modRecv (s : State) (f : RecvId) (g : RecvFlow → RecvFlow) : State :=
  s.modNet fun n => { n with recvs := modWhere (·.id == f) g n.recvs }

/-! ## Credits of a link (R376) -/

def creditFloor : Nat := 16
def creditCeiling : Nat := 1024
def linkCredits : Nat := 16384

/-- Credits granted to a path and not used. -/
def Net.granted (n : Net) (f : RecvId) : Nat := ((n.grants.find? (·.flow == f)).map (·.credits)).getD 0

/-- What a want gets when `waiting` paths share `free` credits: an equal share, at least 16, at most 1,024 outstanding. -/
def grantAmount (free waiting want outstanding : Nat) : Nat :=
  let a := min (max creditFloor (min want (free / max 1 waiting))) (creditCeiling - outstanding)
  if a < creditFloor ∨ free < a then 0 else a

/-- Credits move from a link's pool to a path. -/
def State.giveCredits (s : State) (w : Grant) (a : Nat) : State :=
  (s.modLink w.link fun l => { l with credits := l.credits - a }).modNet fun n =>
    { n with grants := if n.grants.any (·.flow == w.flow) then modWhere (·.flow == w.flow) (fun g => { g with credits := g.credits + a }) n.grants
                       else n.grants ++ [{ w with credits := a }]
             wants := (n.wants.map fun x => if x.flow = w.flow then { x with credits := x.credits - a } else x).filter fun x => decide (0 < x.credits) }

/-- The amount that a path which wants credits can have now. -/
def State.share (s : State) (w : Grant) : Nat :=
  grantAmount (((s.link? w.link).map (·.credits)).getD 0) (s.net.wants.countP (·.link == w.link)) w.credits (s.net.granted w.flow)

/-- Serves a want with a CREDIT packet. -/
def State.serveWant (s : State) (w : Grant) : State :=
  let a := s.share w
  if a = 0 then s
  else
    (s.giveCredits w a).answerFlow w.part w.link w.flow w.peer w.inc tyCredit 0
      (BitVec.ofNat 32 (a + 2 ^ 16 + w.link * 2 ^ 21))

/-- The paths that wait on a link are served in turn. -/
def State.serveLink (s : State) (k : Nat) : State := (s.net.wants.filter (·.link == k)).foldl State.serveWant s

/-- Credits of a path return to its link's pool. -/
def State.takeBack (s : State) (f : RecvId) (n : Nat) : State :=
  match s.net.grants.find? (·.flow == f) with
  | none => s
  | some g =>
    let a := min n g.credits
    ((s.modLink g.link fun l => { l with credits := l.credits + a }).modNet fun m =>
      { m with grants := modWhere (·.flow == f) (fun g => { g with credits := g.credits - a }) m.grants }).serveLink g.link

/-- A packet's credits return when it has been delivered or discarded. -/
def State.packetCredits (s : State) (f : RecvId) (len : Nat) : State := s.takeBack f (creditsOf len)

/-- The link of a partition that carries the fewest granted paths; the lowest of equals (R370). -/
def State.pathLink (s : State) (part : Nat) : Option Nat :=
  minBy (fun k : Nat => s.net.grants.countP (·.link == k)) (s.upLinks part)

/-- A request for credits: a path that is new, comes by another link or starts a new incarnation, gets its link; the want is served in turn. -/
def creditRequest (s : State) (p : BzPacket) : State :=
  let f : RecvId := { srcModule := (bzSrc p).module_, srcPart := (bzSrc p).part, flow := bzFlow p }
  let peer := (bzSrc p).link
  let n := field (bzArg p) 15 0
  let part := (bzDst p).part
  let old := s.net.grants.find? fun g => g.flow == f
  let keep := old.any fun g => g.inc == bzInc p && g.peer == peer && (s.upLinks part).contains g.link
  let s := if keep then s
    else match old with
      | some g => (s.takeBack f g.credits).modNet fun m => { m with grants := m.grants.filter (·.flow != f), wants := m.wants.filter (·.flow != f) }
      | none => s
  match (if keep then old.map (·.link) else s.pathLink part) with
  | none => s
  | some k =>
    let w : Grant := { flow := f, inc := bzInc p, peer := peer, part := part, link := k, credits := n }
    let s := s.modNet fun m => { m with
      wants := m.wants.filter (·.flow != f) ++ (if n = 0 then [] else [w])
      grants := if m.grants.any (·.flow == f) then m.grants else m.grants ++ [{ w with credits := 0 }] }
    s.serveLink k

/-! ## DATA and COLL packets (R373, R374) -/

/-- The state of a new flow, or of a new incarnation of one. -/
def RecvFlow.start (f : RecvId) (part link peer inc : Nat) : RecvFlow :=
  { id := f, part := part, link := link, peer := peer, incarnation := inc, expected := 0, sinceAck := 0, oldest := none, nak := none,
    lastCnp := 0, aborted := [], held := [] }

/-- Acknowledges a flow, with credits for it that wait. -/
def sendAck (s : State) (f : RecvId) : State :=
  match s.recv? f with
  | none => s
  | some r =>
    let want := s.net.wants.find? (·.flow == f)
    let a := (want.map s.share).getD 0
    let s := match want with | some w => if a = 0 then s else s.giveCredits w a | none => s
    (s.modRecv f fun r => { r with sinceAck := 0, oldest := none }).answerFlow r.part r.link f r.peer r.incarnation tyAck r.expected
      (BitVec.ofNat 32 a)

/-- Sends a NAK for the PSN expected, but no second one before RTO (R374). -/
def sendNak (s : State) (f : RecvId) (reason : Nat) : State :=
  match s.recv? f with
  | none => s
  | some r =>
    let quiet := r.nak.any fun x : Nat × Nat => x.1 == r.expected && decide (s.clk.localUs < x.2 + field s.net.bzRto 15 0)
    if quiet then s
    else (s.modRecv f fun r => { r with nak := some (r.expected, s.clk.localUs) }).answerFlow r.part r.link f r.peer r.incarnation tyNak
      r.expected (BitVec.ofNat 32 reason)

/-- A packet marked Congestion Experienced and accepted: one notification per 50 µs (R367). -/
def congestion (s : State) (f : RecvId) (ce : Bool) : State :=
  match s.recv? f with
  | none => s
  | some r =>
    if ce && (r.lastCnp == 0 || decide (r.lastCnp + 50 ≤ s.clk.localUs)) then
      let s := s.modRecv f fun r => { r with lastCnp := max 1 s.clk.localUs }
      let s := s.modNet fun n => { n with cnpTx := sat64 (n.cnpTx + 1) }
      s.answerFlow r.part r.link f r.peer r.incarnation tyCnp 0 0#32
    else s

/-- The payload of an accepted packet: kept with its message until the message is whole; of an aborted attempt, discarded. -/
def RecvFlow.deliver (r : RecvFlow) (p : BzPacket) : RecvFlow :=
  let tag := field (bzArg p) 23 0
  let attempt := field (bzArg p) 31 24
  let off := (BzPacket.word p 6).toNat + (BzPacket.word p 7).toNat * 2 ^ 32
  if bzType p = tyColl ∨ r.aborted.contains (tag, attempt) = true then r
  else if bitAt (BzPacket.word p 0) 9 then { r with held := r.held.filter fun d => !(d.tag == tag && d.attempt == attempt) }
  else { r with held := r.held ++ [{ tag := tag, attempt := attempt, offset := off, bytes := p.payload }] }

/-- The receiver's side of a DATA or COLL packet with a right CRC. -/
def dataReceive (s : State) (k : Nat) (p : BzPacket) : State :=
  let f : RecvId := { srcModule := (bzSrc p).module_, srcPart := (bzSrc p).part, flow := bzFlow p }
  let part := (bzDst p).part
  let fresh := RecvFlow.start f part k (bzSrc p).link (bzInc p)
  let s := match s.recv? f with
    | none => s.modNet fun n => { n with recvs := n.recvs ++ [fresh] }
    | some r => if r.incarnation = bzInc p then s.modRecv f fun r => { r with link := k, peer := (bzSrc p).link }
      else s.modRecv f fun _ => fresh
  match s.recv? f with
  | none => s
  | some r =>
    let s := s.packetCredits f p.payload.length
    let d := (bzPsn p + 2 ^ 32 - r.expected) % 2 ^ 32
    if d = 0 then
      let s := s.modRecv f fun r => { (r.deliver p) with
        expected := (r.expected + 1) % 2 ^ 32, sinceAck := r.sinceAck + 1, oldest := some (r.oldest.getD s.clk.localUs), nak := none }
      let s := congestion s f p.ce
      if 16 ≤ r.sinceAck + 1 then sendAck s f else s
    else if 2 ^ 31 ≤ d then sendAck s f
    else sendNak s f 0

/-- A DATA or COLL packet with a wrong CRC. One with the PSN that is expected permits another NAK for it (R374). -/
def dataCorrupt (s : State) (k : Nat) (p : BzPacket) : State :=
  let f : RecvId := { srcModule := (bzSrc p).module_, srcPart := (bzSrc p).part, flow := bzFlow p }
  let s := s.modNet fun n => { n with crcFail := sat64 (n.crcFail + 1) }
  let s := if (s.recv? f).isSome then s.modRecv f fun r => if r.expected = bzPsn p then { r with nak := none } else r
    else s.modNet fun n => { n with recvs := n.recvs ++ [RecvFlow.start f (bzDst p).part k (bzSrc p).link (bzInc p)] }
  sendNak (s.packetCredits f p.payload.length) f 1

/-- BENZEL_DATA_RECEIVE: DATA and COLL packets. -/
def execBenzelDataReceive (link : Nat) (p : BzPacket) (s : State) : Answer :=
  bzReceive s link p [tyData, tyColl] (fun s => dataReceive s link p) (fun s => dataCorrupt s link p)

/-- ACK_TIMER_EXPIRY: 1 µs after the oldest accepted packet that is not acknowledged. -/
def execAckTimerExpiry (f : RecvId) (s : State) : Answer :=
  if s.windowUp && ((s.recv? f).bind (·.oldest)).any (fun t => decide (t + 1 ≤ s.clk.localUs)) then .next (sendAck s f) else .next s

/-! ## Acknowledgements (R374) -/

/-- The flow of this module that an answer belongs to. -/
def ownFlow (p : BzPacket) : FlowId :=
  { part := (bzDst p).part, dstModule := (bzSrc p).module_, dstPart := (bzSrc p).part, flow := bzFlow p }

/-- An answer names a flow of this module's own incarnation (R373). -/
def State.answersMe (s : State) (p : BzPacket) : Bool := bzInc p == s.incarnation

/-- Packets before the PSN that is expected next are acknowledged; progress sets RTO back. -/
def SendFlow.acked (f : SendFlow) (psn base us : Nat) : SendFlow :=
  let old := fun (x : Sent) => let d := (psn + 2 ^ 32 - x.psn) % 2 ^ 32; decide (1 ≤ d) && decide (d < 2 ^ 31)
  if f.unacked.any old then
    { f with unacked := f.unacked.filter fun x => !old x, rto := base, expiries := 0, progress := us }
  else f

/-- Credits granted to a path of this module. -/
def gainCredits (s : State) (f : FlowId) (n : Nat) : State :=
  let s := if n = 0 then s else s.modFlow f fun w => { w with credits := w.credits + n, lastUse := s.clk.localUs }
  match s.flow? f with
  | some w => sendReady s f w.unsent.length
  | none => s

/-- The collectives whose packets may all be acknowledged now. -/
def tryColls (s : State) (part : Nat) : State :=
  match s.part? part with
  | some p => (p.colls.map fun x : Coll => x.cmd).foldl (fun s c => collTry s part c) s
  | none => s

def ackFlow (s : State) (f : FlowId) (psn : Nat) : State :=
  let base := field s.net.bzRto 15 0
  (s.modFlow f fun w => w.acked psn base s.clk.localUs).touch

def execBenzelAckReceive (link : Nat) (p : BzPacket) (s : State) : Answer :=
  bzReceive s link p [tyAck] (fun s =>
    let f := ownFlow p
    if s.answersMe p then tryColls (gainCredits (ackFlow s f (bzPsn p)) f (field (bzArg p) 15 0)) f.part else s) id

/-- Resends every unacknowledged packet, from the oldest. -/
def resend (s : State) (f : FlowId) : State :=
  match s.flow? f with
  | none => s
  | some w => w.unacked.foldl (fun (s : State) x => s.emitSent w x true) s

def execBenzelNakReceive (link : Nat) (p : BzPacket) (s : State) : Answer :=
  bzReceive s link p [tyNak] (fun s =>
    let f := ownFlow p
    if s.answersMe p then tryColls (resend (ackFlow s f (bzPsn p)) f) f.part else s) id

/-! ## CREDIT packets -/

/-- A grant to a flow of this module that sends, or the return of credits this module granted (log 42). -/
def creditGrant (s : State) (p : BzPacket) : State :=
  let f := ownFlow p
  let n := field (bzArg p) 15 0
  let r : RecvId := { srcModule := f.dstModule, srcPart := f.dstPart, flow := f.flow }
  let granted := s.net.grants.any fun g => g.flow == r && g.inc == bzInc p
  match s.flow? f with
  | some w =>
    if w.unsent.isEmpty && granted then s.takeBack r n
    else if s.answersMe p then gainCredits (s.modFlow f fun w => { w with dstLink := field (bzArg p) 21 17 }) f n
    else s
  | none => if granted then s.takeBack r n else s

def execBenzelCreditReceive (link : Nat) (p : BzPacket) (s : State) : Answer :=
  bzReceive s link p [tyCredit] (fun s => if bzGrant p then creditGrant s p else creditRequest s p) id

/-- CREDIT_RETURN_TIMER: credits unused on a path for 100 µs are returned. -/
def creditReturn (s : State) (f : FlowId) : State :=
  match s.flow? f with
  | none => s
  | some w =>
    if decide (0 < w.credits) && w.unsent.isEmpty && w.stuck.isNone && decide (w.lastUse + 100 ≤ s.clk.localUs) then
      (s.modFlow f fun w => { w with credits := 0 }).emitControl w tyCredit 0 (BitVec.ofNat 32 (w.credits % 2 ^ 16 + 2 ^ 16))
    else s

def execCreditReturnTimer (f : FlowId) (s : State) : Answer := if s.windowUp then .next (creditReturn s f) else .next s

/-! ## Rates (R367) -/

def ratePeriodUs (n : Net) : Nat := field n.rcCfg 23 8
def rateFloor : Nat := 1000000

/-- A notification lowers the rate, at least PERIOD after the last decrease. -/
def lowerRate (s : State) (k : RateKey) : State :=
  let us := s.clk.localUs
  s.modNet fun n => { n with
    cnpRx := sat64 (n.cnpRx + 1)
    rates := modWhere (·.key == k) (fun r =>
      if r.lastDec = 0 ∨ r.lastDec + ratePeriodUs n ≤ us then
        { r with kbps := max (r.kbps * field n.rcCfg 3 0 / 16) rateFloor, lastDec := max 1 us, lastEvent := us }
      else { r with lastEvent := us }) n.rates }

def execBenzelCnpReceive (link : Nat) (p : BzPacket) (s : State) : Answer :=
  bzReceive s link p [tyCnp] (fun s =>
    match (s.flow? (ownFlow p)).filter fun _ => s.answersMe p with
    | some w => lowerRate s (.path w.link w.id.dstModule)
    | none => s.modNet fun n => { n with cnpRx := sat64 (n.cnpRx + 1) }) id

/-- RATE_PERIOD: a PERIOD without a notification raises a rate. -/
def raiseRate (s : State) (k : RateKey) : State :=
  let us := s.clk.localUs
  s.modNet fun n => { n with rates := modWhere (fun r => r.key == k && decide (r.lastEvent + ratePeriodUs n ≤ us)) (fun r =>
    { r with kbps := min (r.kbps + lineRate k / 2 ^ field n.rcCfg 7 4) (lineRate k), lastEvent := us }) n.rates }

def execRatePeriod (k : RateKey) (s : State) : Answer := if s.windowUp then .next (raiseRate s k) else .next s

/-! ## ABORT (R378) -/

def execBenzelAbortReceive (link : Nat) (p : BzPacket) (s : State) : Answer :=
  bzReceive s link p [tyAbort] (fun s =>
    let f : RecvId := { srcModule := (bzSrc p).module_, srcPart := (bzSrc p).part, flow := bzFlow p }
    let key := (field (bzArg p) 23 0, field (bzArg p) 31 24)
    s.modRecv f fun r => { r with aborted := addOnce key r.aborted, held := r.held.filter fun d => !(d.tag == key.1 && d.attempt == key.2) }) id

/-! ## Paths (R374, R375) -/

/-- The packets of a flow wait for a new path, from the oldest unacknowledged PSN. -/
def SendFlow.rewind (f : SendFlow) (base us : Nat) : SendFlow :=
  { f with unsent := f.unacked ++ f.unsent, unacked := [], next := ((f.unacked.head?).map (·.psn)).getD f.next, credits := 0,
           rto := base, expiries := 0, progress := us }

/-- The flow moves to a link and requests a grant there. -/
def takePath (s : State) (f : FlowId) (k : Nat) : State :=
  let s := s.modFlow f fun w => { w with link := k, stuck := none, progress := s.clk.localUs }
  match s.flow? f with
  | some w => if w.unsent.isEmpty then s else s.requestCredits w
  | none => s

/-- A path fails: it is counted, and the flow moves to the next link that is up, or waits for one. -/
def pathFail (s : State) (f : FlowId) : State :=
  match s.flow? f with
  | none => s
  | some w =>
    let s := s.modNet fun n => { n with pathFail := sat64 (n.pathFail + 1) }
    let s := s.detect { source := 0x47, inst := w.link, part := some f.part, info := s.linkInfo w.link, cmd := none }
    let base := field s.net.bzRto 15 0
    let s := s.modFlow f fun w => w.rewind base s.clk.localUs
    match s.nextLink f.part w.link with
    | some k => takePath s f k
    | none =>
      (s.modFlow f fun w => { w with stuck := some s.clk.localUs }).detect
        { source := 0x48, inst := w.link, part := some f.part, info := s.linkInfo w.link, cmd := none }

/-- RTO_EXPIRY: no progress for RTO. The packets are sent again and RTO doubles; after MAX_EXP expiries the path fails. -/
def rtoExpiry (s : State) (f : FlowId) : State :=
  match s.flow? f with
  | none => s
  | some w =>
    if w.unacked.isEmpty || w.stuck.isSome || !decide (w.progress + w.rto ≤ s.clk.localUs) then s
    else
      let base := field s.net.bzRto 15 0
      if field s.net.bzRto 19 16 ≤ w.expiries + 1 then pathFail s f
      else
        resend (s.modFlow f fun w => { w with rto := min (2 * w.rto) (64 * base), expiries := w.expiries + 1, progress := s.clk.localUs }) f

def execRtoExpiry (f : FlowId) (s : State) : Answer := if s.windowUp then .next (rtoExpiry s f).noteSched else .next s

/-- PATH_RETRY: every second without a path. -/
def pathRetry (s : State) (f : FlowId) : State :=
  match s.flow? f with
  | none => s
  | some w =>
    match w.stuck with
    | none => s
    | some t =>
      if t + 1000000 ≤ s.clk.localUs then
        match s.nextLink f.part w.link with
        | some k => takePath s f k
        | none => s.modFlow f fun w => { w with stuck := some s.clk.localUs }
      else s

def execPathRetry (f : FlowId) (s : State) : Answer := if s.windowUp then .next (pathRetry s f) else .next s

end Sys2Proof.Machine
end

