-- ==== Sys2Proof/Machine/Links.lean ====
section
/-!
DEFINITION. The ports: training, links up and down, low-power idle, next hops, addresses, priority pause (spec 14 R361, R362,
R366, R368, R369, R375, R384-R386).
-/
namespace Sys2Proof.Machine

/-! ## Training (R361, R368; 16 R415) -/

/-- The host ports and fabric links are powered: the module runs in Run, Ready or Doze (spec 16 Table 16-1). -/
def State.portsOn (s : State) : Bool := s.phase == .running && decide (s.pwr.state.toNat ≤ 2)

/-- The management port is powered: from boot step 1 on, in every power state except Dormant (R386; 17 Table 17-2). -/
def State.mgmtOn (s : State) : Bool := s.phase == .running || s.phase == .recovery || s.phase == .held

/-- A fabric link may come up: fitted, enabled, the module identifier valid, no fence on its owner (R361, R368; 15 R396). -/
def State.linkMayRun (s : State) (k : Nat) (l : Link) : Bool :=
  s.linkFitted k && bitAt l.cfg 0 && s.net.idValid && !((s.linkOwner k).map (·.fenced)).getD false

/-- A fabric link whose SerDes is being retuned or moved to a seed lane stays down (spec 15 Table 15-7). -/
def State.linkBusy (s : State) (k : Nat) : Bool :=
  s.maint.held.any fun t => t.use == .serdes (.link k) || t.use == .lane 0 k || t.use == .lane 1 k

/-- Training begins, where the link may run. -/
def State.trainLink (s : State) (k : Nat) : State :=
  match s.link? k with
  | none => s
  | some l =>
    if s.portsOn && s.linkMayRun k l && !s.linkBusy k && !l.failed && !l.up then
      s.modLink k fun l => { l with training := true, trainStart := s.clk.localUs }
    else s

def State.trainPort (s : State) (p : Nat) : State :=
  if s.portsOn && s.portFitted p then s.modPort p fun h => if h.up then h else { h with training := true, trainStart := s.clk.localUs } else s

/-- Every port trains (spec 16 R415; 17 Table 17-2 step 9). -/
def State.trainAll (s : State) : State :=
  (List.range 4).foldl State.trainPort ((List.range 32).foldl State.trainLink s)

/-! ## Up -/

/-- A link that comes up: it takes the addresses and the configuration (R390), its buffer is empty (R376), the peer may have
agreed to low-power idle (R362). -/
def Link.comeUp (l : Link) (n : Net) (idle : Bool) (us : Nat) : Link :=
  { l with up := true, training := false, lpi := bitAt l.cfg 1 && idle, asleep := false, mac := none, resolvedAt := us,
           lastFrame := us, credits := linkCredits, effBase4 := n.fabBase4, effPfx6 := n.fabPfx6, effCfg := n.fabCfg, effNh := l.nh }

/-- Flows of a partition that found no path take the link at their next retry (R375). -/
def linkUp (s : State) (k : Nat) : State :=
  match s.link? k with
  | none => s
  | some l =>
    if l.training && s.portsOn && !s.flt.safe && s.linkMayRun k l && !s.linkBusy k then
      let idle := Config.freeBool 1 s.fresh
      let s := s.useFresh.modLink k fun l => l.comeUp s.net idle s.clk.localUs
      let s := s.emit (.resolve k l.nh)
      if l.seed then s.emit (.announce k) else s
    else s

def portUp (s : State) (p : Nat) : State :=
  if s.portsOn && !s.flt.safe then s.modPort p fun h => if h.training then { h with up := true, training := false, pausedSince := none } else h else s

def mgmtPortUp (s : State) : State := if s.mgmtOn then s.modNet fun n => { n with mgmtUp := true } else s

/-- LINK_UP. -/
def execLinkUp (port : Port) (s : State) : Answer :=
  match port with
  | .host p => if decide (p < 4) then .next (portUp s p) else .fault .noSuchUnit
  | .link k => if decide (k < 32) then .next (linkUp s k) else .fault .noSuchUnit
  | .mgmt => .next (mgmtPortUp s)

/-! ## Down (R375) -/

/-- The paths whose source link went down fail. -/
def failPaths (s : State) (k : Nat) : State :=
  (s.net.flows.filter fun f => f.link == k && f.stuck.isNone).foldl (fun (s : State) f => pathFail s f.id) s

/-- A fabric link goes down: credits granted on it are gone, source 0x44 is recorded, its flows move. -/
def takeLinkDown (s : State) (k : Nat) : State :=
  match s.link? k with
  | none => s
  | some l =>
    if l.up then
      let s := s.modLink k Link.idle
      let s := s.modNet fun n => { n with grants := n.grants.filter (·.link != k), wants := n.wants.filter (·.link != k) }
      let s := s.detect { source := 0x44, inst := k, part := (s.linkOwner k).map (·.num), info := s.linkInfo k, cmd := none }
      if s.flt.safe then s else failPaths s k
    else s.modLink k Link.idle

def takePortDown (s : State) (p : Nat) : State :=
  match s.port? p with
  | none => s
  | some h =>
    let s := s.modPort p fun h => { h with up := false, training := false, pausedSince := none, pfcIgnored := false, waits := [] }
    if h.up then s.detect { source := 0x40, inst := p, part := none, info := s.portInfo p, cmd := none } else s

def takeMgmtDown (s : State) : State :=
  if s.net.mgmtUp then
    (s.modNet fun n => { n with mgmtUp := false, mgmtTrainStart := s.clk.localUs }).detect
      { source := 0x4D, inst := 0, part := none, info := 0, cmd := none }
  else s

/-- LINK_DOWN: the port goes down and trains again. -/
def execLinkDown (port : Port) (s : State) : Answer :=
  match port with
  | .host p =>
    if decide (p < 4) then
      .next (if s.portsOn && ((s.port? p).map (·.up)).getD false then ((takePortDown s p).trainPort p).noteSched else s)
    else .fault .noSuchUnit
  | .link k =>
    if decide (k < 32) then
      .next (if s.portsOn && ((s.link? k).map (·.up)).getD false then ((takeLinkDown s k).trainLink k).noteSched else s)
    else .fault .noSuchUnit
  | .mgmt => .next (if s.mgmtOn then takeMgmtDown s else s)

/-! ## Training that does not come up (R361) -/

def oneSecond : Nat := 1000000

/-- TRAINING_RESTART: after 1 s; a host port records source 0x41. -/
def execTrainingRestart (port : Port) (s : State) : Answer :=
  let us := s.clk.localUs
  match port with
  | .host p =>
    if decide (p < 4) then
      .next (if s.portsOn && ((s.port? p).map fun h => h.training && decide (h.trainStart + oneSecond ≤ us)).getD false then
          let s := s.modPort p fun h => { h with trainStart := us }
          s.detect { source := 0x41, inst := p, part := none, info := s.portInfo p, cmd := none }
        else s)
    else .fault .noSuchUnit
  | .link k =>
    if decide (k < 32) then
      .next (if s.portsOn then
          s.modLink k fun l => if l.training && decide (l.trainStart + oneSecond ≤ us) then { l with trainStart := us } else l
        else s)
    else .fault .noSuchUnit
  | .mgmt =>
    .next (if s.mgmtOn && !s.net.mgmtUp && decide (s.net.mgmtTrainStart + oneSecond ≤ us) then
      s.modNet fun n => { n with mgmtTrainStart := us } else s)

/-! ## Low-power idle (R362) -/

/-- LPI_ENTRY: 20 µs without a frame to send. -/
def execLpiEntry (link : Nat) (s : State) : Answer :=
  if decide (link < 32) then
    .next (if s.portsOn then
        s.modLink link fun l => if l.up && l.lpi && decide (l.lastFrame + 20 ≤ s.clk.localUs) then { l with asleep := true } else l
      else s)
  else .fault .noSuchUnit

/-! ## Addresses (R368, R369, R386) -/

/-- The identifier 32m + k of a link. -/
def State.linkIdent (s : State) (k : Nat) : Nat := 32 * s.net.moduleId + k

def linkLocalPrefix : Nat := 0xFE80000000000000

/-- The port carries the IPv4 address. -/
def State.ownsV4 (s : State) (port : Port) (a : W32) : Bool :=
  match port with
  | .link k => s.portsOn && !s.net.fam6 && ((s.link? k).map fun l => l.up && a == l.effBase4 + BitVec.ofNat 32 (s.linkIdent k)).getD false
  | .host p => s.portsOn && ((s.port? p).map fun h => h.up && h.addr4 == a && a != 0#32).getD false
  | .mgmt => s.mgmtOn && s.net.mgmtUp && netAddr4 s.mgt.provAddr 0 == a && a != 0#32

/-- The IPv6 address of the provisioning record: its octets stand in network order (spec 00 R12). -/
def Mgt.addr6 (m : Mgt) : Nat := (netAddr6 m.provAddr 1).toNat

/-- The port carries the IPv6 address. -/
def State.ownsV6 (s : State) (port : Port) (a : BitVec 128) : Bool :=
  let hi := a.toNat / 2 ^ 64
  let lo := a.toNat % 2 ^ 64
  match port with
  | .link k => s.portsOn && s.net.fam6 && ((s.link? k).map fun l => l.up && lo == s.linkIdent k && (hi == l.effPfx6.toNat || hi == linkLocalPrefix)).getD false
  | .host p => s.portsOn && ((s.port? p).map fun h => h.up && h.addr6hi.toNat == hi && h.addr6lo.toNat == lo && a.toNat != 0).getD false
  | .mgmt => s.mgmtOn && s.net.mgmtUp && s.mgt.addr6 == a.toNat && a.toNat != 0

/-- A frame leaves a port. In the safe state only the management port transmits (spec 15 R397). -/
def State.answerOn (s : State) (port : Port) (o : Out) : State :=
  match port with
  | .link k => if s.flt.safe then s else (s.frameOut k).emit o
  | .host _ => if s.flt.safe then s else s.emit o
  | .mgmt => s.emit o

def execArpRequest (port : Port) (target : W32) (s : State) : Answer :=
  if s.ownsV4 port target then .next (s.answerOn port (.arpReply port)) else .next s

def execNeighbourSolicitation (port : Port) (target : BitVec 128) (s : State) : Answer :=
  if s.ownsV6 port target then .next (s.answerOn port (.neighbourAdvert port)) else .next s

def execEchoRequest (port : Port) (target : BitVec 128) (v6 : Bool) (ident : W32) (s : State) : Answer :=
  let own := if v6 then s.ownsV6 port target else decide (target.toNat < 2 ^ 32) && s.ownsV4 port (target.truncate 32)
  if own then .next (s.answerOn port (.echoReply port ident)) else .next s

/-- NEXT_HOP_REFRESH: every 30 s. -/
def execNextHopRefresh (link : Nat) (s : State) : Answer :=
  match (if decide (link < 32) then s.link? link else none) with
  | none => if decide (link < 32) then .next s else .fault .noSuchUnit
  | some l =>
    if s.portsOn && l.up && !s.flt.safe && decide (l.resolvedAt + 30 * oneSecond ≤ s.clk.localUs) then
      .next (((s.modLink link fun l => { l with resolvedAt := s.clk.localUs }).frameOut link).emit (.resolve link l.effNh))
    else .next s

/-- NEXT_HOP_RESOLVED. -/
def execNextHopResolved (link : Nat) (mac : BitVec 48) (s : State) : Answer :=
  if decide (link < 32) then .next (if s.portsOn then s.modLink link fun l => if l.up then { l with mac := some mac } else l else s)
  else .fault .noSuchUnit

/-! ## Frames that are discarded (R361, R385) -/

/-- FRAME_DISCARD: a bad frame check sequence is counted; an unrecognised frame is dropped without reply. -/
def execFrameDiscard (port : Port) (badFcs : Bool) (s : State) : Answer :=
  if !badFcs then .next s
  else match port with
    | .host p => .next (if s.portsOn then s.modPort p fun h => if h.up then { h with badFcs := sat64 (h.badFcs + 1) } else h else s)
    | .link k => .next (if s.portsOn then s.modLink k fun l => if l.up then { l with badFcs := sat64 (l.badFcs + 1) } else l else s)
    | .mgmt => .next (if s.mgmtOn && s.net.mgmtUp then s.modNet fun n => { n with mgmtBadFcs := sat64 (n.mgmtBadFcs + 1) } else s)

/-! ## Priority pause (R366) -/

/-- PFC_FRAME_RECEIVE: honoured on PRIO of a host port in lossless mode; elsewhere discarded. What a pause held back leaves at its
end. -/
def execPfcFrameReceive (port : Port) (prio : Nat) (pause : Bool) (s : State) : Answer :=
  match port with
  | .host p =>
    .next (if s.portsOn then
        (s.modPort p fun h =>
          if h.up && h.lossless && h.prio == prio && !h.pfcIgnored && !s.flt.safe then
            { h with pausedSince := if pause then some (h.pausedSince.getD s.clk.localUs) else none }
          else h).sendHeld p
      else s)
  | .link _ => .next s
  | .mgmt => .next s

/-- PFC_WATCHDOG: PRIO paused for 100 ms without a break. What could not be sent is discarded (R366; log 47). -/
def execPfcWatchdog (port : Nat) (s : State) : Answer :=
  match (if decide (port < 4) then s.port? port else none) with
  | none => if decide (port < 4) then .next s else .fault .noSuchUnit
  | some h =>
    if h.pausedSince.any (fun t => decide (t + 100000 ≤ s.clk.localUs)) && s.portsOn then
      let s := s.modPort port fun h => { h with pfcIgnored := true, ignoreUntil := s.clk.localUs + oneSecond, pausedSince := none, waits := [] }
      let s := s.modNet fun n => { n with pfcWd := sat64 (n.pfcWd + 1) }
      .next (s.detect { source := 0x42, inst := port, part := none, info := s.portInfo port, cmd := none }).noteSched
    else .next s

/-- PFC_IGNORED_END: after 1 s. -/
def execPfcIgnoredEnd (port : Nat) (s : State) : Answer :=
  if decide (port < 4) then
    .next (if s.portsOn then
        s.modPort port fun h => if h.pfcIgnored && decide (h.ignoreUntil ≤ s.clk.localUs) then { h with pfcIgnored := false } else h
      else s)
  else .fault .noSuchUnit

end Sys2Proof.Machine
end

