-- ==== Sys2Proof/Machine/Maintenance.lean ====
section
/-!
DEFINITION. Maintenance: tokens, scrubs, repairs and seed units (spec 15 R403-R410; 02 R30, R31; 05 R120; 06 R166, R168;
14 R384; 16 R434).
-/
namespace Sys2Proof.Machine

/-! ## Tokens (R407 to R409) -/

/-- Table 15-8: classes that never hold tokens at the same time. -/
def conflicts (a b : Nat) : Bool :=
  let has := fun (x y : Nat) => (a == x && b == y) || (a == y && b == x)
  has 0 1 || has 1 4 || has 3 6 || has 4 8 || has 5 6

/-- Two tokens that cannot be held together, or are one token. -/
def clash (a b : Token) : Bool := conflicts a.cls b.cls || (a.cls == b.cls && a.scope == b.scope)

def Maint.grantable (m : Maint) (t : Token) : Bool := m.held.all fun h => !clash h t

/-- The first waiting request of a class that no earlier waiting request conflicts with. -/
def nextGrant (m : Maint) (cls : Nat) : List Token → List Token → Option Token
  | _, [] => none
  | before, t :: r =>
    if t.cls == cls && m.grantable t && before.all (fun u => !clash u t) then some t else nextGrant m cls (before ++ [t]) r

def State.releaseToken (s : State) (t : Token) : State := (s.modMaint fun m => { m with held := m.held.filter (· != t) }).touch
def State.holds (s : State) (t : Token) : Bool := s.maint.held.contains t

/-- A request of the management plane: granted now or never (R409). -/
def Maint.grantNow (m : Maint) (t : Token) : Bool := m.grantable t && m.waiting.all fun u => !clash u t

/-- The base die of a port: 2 or 3 (spec 00 Table 0-7). -/
def portDie : Port → Nat
  | .host p => if p < 2 then 2 else 3
  | .link k => if k < 16 then 2 else 3
  | .mgmt => 2

def serdesToken (p : Port) : Token := { cls := 3, scope := portDie p, use := .serdes p }
def laneToken (lane link : Nat) : Token := { cls := 3, scope := 2 + lane, use := .lane lane link }
def tileToken (t : Nat) : Token := { cls := 4, scope := 0, use := .tile t }
def rowToken (t r : Nat) : Token := { cls := 4, scope := 0, use := .seedRow t r }
def repairToken (k : Nat) : Token := { cls := 1, scope := 0, use := .row k }
def scrubToken (cls : Nat) : Token := { cls := cls, scope := 0, use := .scrub }
def sensorToken : Token := { cls := 6, scope := 0, use := .sensor }
def calToken : Token := { cls := 6, scope := 0, use := .calSave }
def stagingToken : Token := { cls := 5, scope := 0, use := .staging }
def rekeyToken (d : Nat) : Token := { cls := 8, scope := d, use := .rekey d }

def takeDown (s : State) : Port → State
  | .host p => takePortDown s p
  | .link k => takeLinkDown s k
  | .mgmt => takeMgmtDown s

def trainAgain (s : State) : Port → State
  | .host p => s.trainPort p
  | .link k => s.trainLink k
  | .mgmt => s

/-- The running commands with work on a tile (R404). -/
def State.onTile (s : State) (t : Nat) : List CmdId :=
  (s.cmds.filter fun c => c.phase != .fetched &&
    ((s.part? (s.cmdPart c.id)).map fun p => p.ownsTile t && c.usesTile s.mgt.fwVer p t).getD false).map (·.id)

/-- What begins with a token: the link goes down, the commands on the tile are killed by pre-emption, the drain starts. -/
def beginActivity (s : State) (t : Token) : State :=
  match t.use with
  | .serdes p => takeDown s p
  | .lane _ k => takeDown s (.link k)
  | .tile n => s.preemptAll (s.onTile n)
  | .drain n => startDrain s n
  | .scrub => s
  | .row _ => s
  | .seedRow _ _ => s
  | .staging => s
  | .sensor => s
  | .calSave => s
  | .rekey _ => s

/-- A token is taken, and its activity begins. -/
def takeToken (s : State) (t : Token) : State :=
  beginActivity (s.modMaint fun m => { m with held := m.held ++ [t], waiting := m.waiting.filter (· != t) }) t

/-- TOKEN_GRANT: the class's first waiting request that is grantable (R409). -/
def execTokenGrant (cls : Nat) (s : State) : Answer :=
  if !decide (cls < 9) then .fault .noSuchUnit
  else if !s.awake then .next s
  else match nextGrant s.maint cls [] s.maint.waiting with
    | some t => .next (takeToken s t).noteSched
    | none => .next s

/-- A detection about a unit of the module, with no command. -/
def unitFault (source inst : Nat) (part : Option Nat) : Detection := { source := source, inst := inst, part := part, info := 0, cmd := none }

/-! ## Scrubs (R410; 06 R166, R168) -/

/-- SCRUB_YIELD: a conflicting request waits. -/
def execScrubYield (cls : Nat) (s : State) : Answer :=
  if !decide (cls < 9) then .fault .noSuchUnit
  else
    let t := scrubToken cls
    if s.awake && s.holds t && s.maint.waiting.any (fun u => clash u t) then .next ((s.releaseToken t).requestToken t) else .next s

/-- The locations that can be corrected, of allocations and of their copies, are written back where `hit` says; an
uncorrectable location stays. -/
def State.writeBack (s : State) (hit : Alloc → Nat → Bool) : State :=
  let entry := fun (p k : Nat) => s.allocs.find? fun a => a.part == p && a.role == .epoch k
  { s with
    allocs := s.allocs.map fun a => { a with corr := a.corr.filter fun u => !hit a u }
    parts := s.parts.map fun p => { p with epo := { p.epo with areas := p.epo.areas.map fun r =>
      { r with corrs := ((List.range r.corrs.length).zip r.corrs).map fun (k, us) => match entry p.num k with
        | some a => us.filter fun u => !hit a u
        | none => us } } } }

/-- A location lies in a 4 KiB granule of the allocations of a home with a handle. -/
def inGranule (home : Home) (h : W32) (g : Nat) (a : Alloc) (u : Nat) : Bool :=
  a.handle == h && a.home == home && u * checkUnit a.home / (4 * kib) == g

/-- A scrub works on a granule of its tier while it holds its token; it pauses in Doze (spec 16 R414). -/
def scrub (s : State) (cls : Nat) (home : Home) (h : W32) (g : Nat) : State :=
  if s.live && decide (s.pwr.state.toNat ≤ 1) && s.holds (scrubToken cls) && s.allocs.any (fun a => a.handle == h && a.home == home) then
    (s.writeBack (inGranule home h g)).modMaint fun m => { m with scrubAt := Tab.set m.scrubAt cls g }
  else s

/-- The patrol scrub reads the error counts that the devices of a channel's RDIMM keep; a count above the SPD's threshold is
reported (06 Table 6-8; 15 Table 15-1; count and threshold are free, log 20). -/
def readEcs (s : State) (channel : Nat) : State :=
  let n := Config.freeCount 156 s.fresh
  let s := s.useFresh.modMaint fun m => { m with ecs := Tab.set m.ecs channel n }
  if Config.freeCount 157 channel < n then s.detect (unitFault 0x3B channel none) else s

/-- The channels that a granule lies on. -/
def State.scrubChannels (s : State) (h : W32) (g : Nat) : List Nat :=
  ((s.allocs.filter fun a => a.handle == h && a.home == .ddr).flatMap fun a =>
    (List.range (4 * kib / checkUnit a.home)).map fun i => a.unitAt (s.span a.part) (g * (4 * kib / checkUnit a.home) + i)).eraseDups

/-- A patrol scrub that is at work. -/
def State.patrols (s : State) : Bool := s.live && decide (s.pwr.state.toNat ≤ 1) && s.holds (scrubToken 2)

def execHbmScrub (handle : W32) (granule : Nat) (s : State) : Answer := .next (scrub s 0 .hbm handle granule)
def execDdr5PatrolScrub (handle : W32) (granule : Nat) (s : State) : Answer :=
  let t := scrub s 2 .ddr handle granule
  .next (if s.patrols then (s.scrubChannels handle granule).foldl readEcs t else t)

/-- A location lies in the memory of a tile, or in the commons of its die (06 R147). -/
def onTileMemory (s : State) (tile : Nat) (a : Alloc) (u : Nat) : Bool :=
  match a.home with
  | .tile => a.unitAt (s.span a.part) u == tile
  | .commons => a.unitAt (s.span a.part) u == tile / 16
  | _ => false

/-- TILE_MEMORY_SCRUB: in idle cycles, with no token. -/
def execTileMemoryScrub (tile : Nat) (s : State) : Answer :=
  if !decide (tile < 128) then .fault .noSuchUnit
  else if s.live && decide (s.pwr.state.toNat ≤ 1) then
    .next (s.writeBack (onTileMemory s tile))
  else .next s

/-! ## Repairs -/

/-- Kinds of entries in the repair map (R403). -/
def repairRow : Nat := 0
def repairLane : Nat := 1
def repairTile : Nat := 2
def repairLink : Nat := 3
def repairHbm : Nat := 4

def State.mapRepair (s : State) (kind unit : Nat) : State := s.modMaint fun m => { m with repair := m.repair ++ [(kind, unit)] }

def State.tileOwner (s : State) (t : Nat) : Option Nat := (s.parts.find? (·.ownsTile t)).map (·.num)

/-- A tile that fails: it is replaced live while its die has a free seed tile; else its partition is degraded (R404, R406). -/
def markFailing (s : State) (t : Nat) : State :=
  if s.maint.failing.contains t || s.maint.dead.contains t then s
  else
    let promised := s.maint.failing.countP fun u => u / 16 == t / 16
    if promised < Tab.get s.maint.seedTiles (t / 16) 0 then
      (s.modMaint fun m => { m with failing := m.failing ++ [t] }).requestToken (tileToken t)
    else
      let s := s.modMaint fun m => { m with dead := m.dead ++ [t] }
      let s := { s with parts := modWhere (·.ownsTile t) (fun p => { p with degraded := true }) s.parts }
      s.detect (unitFault 0x09 t (s.tileOwner t))

/-- SEED_TILE_SWAP completes: memory, generators, scale registers and tables were copied, so no content changes (R404). -/
def execSeedTileSwap (tile : Nat) (s : State) : Answer :=
  if !decide (tile < 128) then .fault .noSuchUnit
  else if s.live && s.holds (tileToken tile) then
    let s := s.releaseToken (tileToken tile)
    let s := s.modMaint fun m => { m with failing := m.failing.filter (· != tile), seedTiles := Tab.mod m.seedTiles (tile / 16) 0 (· - 1)
                                          lanes := Tab.set m.lanes tile 0 }
    .next ((s.mapRepair repairTile tile).detect (unitFault 0x08 tile (s.tileOwner tile))).noteSched
  else .next s

/-- SEED_ROW_SWAP completes (R405). Whether the tile has a seed row left is not published (log 20); with none, the whole tile
is replaced. -/
def execSeedRowSwap (tile row : Nat) (s : State) : Answer :=
  if !decide (tile < 128) then .fault .noSuchUnit
  else if s.live && s.holds (rowToken tile row) then
    let s := s.releaseToken (rowToken tile row)
    let left := Config.freeBool 2 s.fresh
    let s := s.useFresh
    if left then
      let s := s.modMaint fun m => { m with rows := m.rows ++ [(tile, row)] }
      .next ((s.mapRepair repairRow (tile * 2 ^ 32 + row)).detect (unitFault 0x0A tile (s.tileOwner tile)))
    else .next (markFailing s tile)
  else .next s

/-- VECTOR_LANE_REPLACE: at a command boundary of the tile, at most two; a third failed lane fails the tile (02 R30, R31). -/
def execVectorLaneReplace (tile lane : Nat) (s : State) : Answer :=
  if !decide (tile < 128) || !decide (lane < 64) then .fault .noSuchUnit
  else if !s.live then .next s
  else if !(s.onTile tile).isEmpty then .next (s.modMaint fun m => { m with laneWait := addOnce (tile, lane) m.laneWait })
  else
    let s := s.modMaint fun m => { m with laneWait := m.laneWait.filter (· != (tile, lane)) }
    if Tab.get s.maint.lanes tile 0 < 2 then
      let s := s.modMaint fun m => { m with lanes := Tab.mod m.lanes tile 0 (· + 1) }
      .next ((s.mapRepair repairLane (tile * 64 + lane)).detect (unitFault 0x06 tile (s.tileOwner tile)))
    else .next (markFailing s tile)

/-- HBM_ROW_REPAIR completes: from spare rows, and once those are used up by remapping granules. How many are left is not
published (log 20); what is used up stays so. -/
def execHbmRowRepair (stack : Nat) (s : State) : Answer :=
  if !decide (stack < 8) then .fault .noSuchUnit
  else if s.live && s.holds (repairToken stack) then
    let s := s.releaseToken (repairToken stack)
    let how := max (Tab.get s.maint.spares stack 0) (Config.freeCount 152 s.fresh % 4)
    let s := s.useFresh
    let s := s.modMaint fun m => { m with rowErrs := m.rowErrs.filter fun x => x.1.1 != 128 + stack, spares := Tab.set m.spares stack how }
    let s := if how = 3 then s else s.mapRepair repairHbm stack
    .next (match how with
      | 0 => s.detect (unitFault 0x20 stack none)
      | 1 => s.detect (unitFault 0x21 stack none)
      | 2 => (s.detect (unitFault 0x21 stack none)).detect (unitFault 0x22 stack none)
      | _ => s.detect (unitFault 0x23 stack none))
  else .next s

/-- SERDES_RETUNE completes: the port trains again. -/
def execSerdesRetune (port : Port) (s : State) : Answer :=
  if s.live && s.holds (serdesToken port) then .next (trainAgain (s.releaseToken (serdesToken port)) port) else .next s

/-- SEED_LANE_SWAP completes: the lane takes over the link's number, addresses, partition and next hop (14 R384). -/
def execSeedLaneSwap (lane link : Nat) (s : State) : Answer :=
  if !decide (lane < 2) || !decide (link < 32) then .fault .noSuchUnit
  else if s.live && s.holds (laneToken lane link) then
    let s := s.releaseToken (laneToken lane link)
    let s := s.modLink link fun l => { l with seed := true, failed := false }
    let s := s.modNet fun n => { n with seedLanes := Tab.set n.seedLanes lane link }
    let s := (s.mapRepair repairLink link).trainLink link
    .next (s.detect { source := 0x45, inst := link, part := (s.linkOwner link).map (·.num), info := s.linkInfo link, cmd := none })
  else .next s

/-! ## Activities that the module starts by time (Table 15-7): they ask for their token, and complete under it -/

/-- SENSOR_RECALIBRATION: the offsets are re-zeroed; no F, LO, HI or U changes (16 R434). -/
def execSensorRecalibration (s : State) : Answer :=
  if !s.live then .next s
  else if s.holds sensorToken then .next (s.releaseToken sensorToken)
  else .next (s.requestToken sensorToken)

/-- RANDOM_TABLE_REKEY: identical contents (05 R120). -/
def execRandomTableRekey (die : Nat) (s : State) : Answer :=
  if !decide (die < 8) then .fault .noSuchUnit
  else if !s.live then .next s
  else if s.holds (rekeyToken die) then .next (s.releaseToken (rekeyToken die))
  else .next (s.requestToken (rekeyToken die))

end Sys2Proof.Machine
end

