-- ==== Sys2Proof/Machine/Faults.lean ====
section
/-!
DEFINITION. Fault detections, the collector's own faults, its records and severities, and injections (spec 15 R391-R402, R411).
-/
namespace Sys2Proof.Machine

/-- The collector works: from boot on, whenever input holds (spec 16 R417; 18 Table 18-10). -/
def State.collectorUp (s : State) : Bool :=
  s.phase == .running || s.phase == .recovery || s.phase == .held || s.phase == .dormant || s.phase == .fuseFault

/-- A collector self-fault: Milpeost's last-resort path enters the safe state, keeps its own record and drives FAULT_N low
(R400). -/
def selfFault (s : State) : State :=
  let s := s.enterSafe.modFlt fun f => { f with self := true, lastResort := true }
  (s.emit (.ibi 0x01#8)).emit (.notification 0x58)

def execCollectorSelfFault (s : State) : Answer := if s.collectorUp then .next (selfFault s).noteSched else .next s

/-- A maintenance activity of a class and scope failed: it releases its token, and what it was doing ends (R410). -/
def activityFails (s : State) (t : Token) : State :=
  let s := s.releaseToken t
  match t.use with
  | .serdes p => trainAgain s p
  | .lane _ k => trainAgain s (.link k)
  | .staging => s.modMgt fun m => { m with stage := 4#3 }
  | .drain n => (s.drainBroken n failWrite).drainNext
  | .scrub => s
  | .row _ => s
  | .tile _ => s
  | .seedRow _ _ => s
  | .sensor => s
  | .calSave => s
  | .rekey _ => s

/-- The activities that hold the token of a class and scope fail. -/
def classFails (s : State) (cls scope : Nat) : State :=
  (s.maint.held.filter fun t => t.cls == cls && t.scope == scope).foldl activityFails s

/-- A PLL that loses lock (spec 16 R429, Table 16-10). -/
def Clk.unlock (c : Clk) (pll : Nat) : Clk := { c with status := c.status &&& ~~~(BitVec.ofNat 5 (2 ^ (pll % 5))) }

/-- What follows a detection besides the reaction of its severity: rows that keep failing, failing tiles, a channel that fails its
check (16 R416), failed links, noisy links, failed activities, lost locks. For source 0x5D the operand names class and scope, for 0x59 the PLL; both sources name
no unit in their record. -/
def afterDetection (s : State) (d : Detection) : State :=
  if (sourceRead d.source).isSome then (s.noteRow d.source d.inst (Config.freeCount 151 s.fresh)).useFresh
  else
    match d.source with
    | 0x07 => markFailing s (d.inst % 128)
    | 0x3D => s.modPwr fun p => { p with ddrCheckFailed := true }
    | 0x46 => (takeLinkDown s (d.inst % 32)).modLink (d.inst % 32) fun l => { l with failed := true, training := false }
    | 0x49 => s.requestToken (serdesToken (.link (d.inst % 32)))
    | 0x59 => { s with clk := s.clk.unlock d.inst }
    | 0x5D => classFails s d.info d.inst
    | _ => s

/-- A source that names a unit: a tile, die, stack, channel, link or port, an interface, a calibration item (R395; 16 R431). -/
def namesUnit (n : Nat) : Bool :=
  decide (n ≤ 0x49) && n != 0x27 || n == 0x50 || n == 0x51 || n == 0x5B || n == 0x5E

/-- INFO of the detail word (R395): the opcode of the command, the status of the port or link, the reading of a temperature, the CAUSE
of a discarded access, else zero. -/
def State.infoOf (s : State) (d : Detection) : Nat :=
  if sourceScope d.source = some .c then ((d.cmd.bind s.cmd?).map (·.opcode)).getD 0
  else if 0x40 ≤ d.source ∧ d.source ≤ 0x42 then s.portInfo d.inst
  else if 0x44 ≤ d.source ∧ d.source ≤ 0x49 then s.linkInfo d.inst
  else if [0x25, 0x39, 0x3A, 0x50, 0x51, 0x52, 0x5B].contains d.source then d.info
  else 0

/-- The partition of a detection (R392, R395): that of the command; that which owns the tile or link; none for a shared unit. -/
def State.partOf (s : State) (d : Detection) : Option Nat :=
  match sourceScope d.source with
  | some .s => none
  | some .c => match d.cmd.filter fun c => (s.cmd? c).isSome with
    | some c => some (s.cmdPart c)
    | none => d.part
  | _ =>
    if [0x06, 0x08, 0x09, 0x0A].contains d.source then s.tileOwner d.inst
    else if 0x44 ≤ d.source ∧ d.source ≤ 0x49 then (s.linkOwner d.inst).map (·.num)
    else d.part

/-- A detection as its record holds it. -/
def State.asRecorded (s : State) (d : Detection) : Detection :=
  { d with inst := if namesUnit d.source then d.inst else 0, part := s.partOf d, info := s.infoOf d }

/-- The tables a command may have read when it met an uncorrectable table read: a temperature table or a custom slot by
its selector, none for a built-in table or a table generator, which the module repairs or refills (spec 04 R107, R108;
05 R124). -/
def Cmd.tablesRead (c : Cmd) : List (Option Nat) :=
  if c.opcode = 0x0303 ∧ 0x10 ≤ c.n 0 then some (c.n 0) :: (if (c.t 2).stoch then [none] else [])
  else none :: [0, 0x10, 0x11, 0x12, 0x13].filterMap fun t => if c.mayReadTable t then some (some t) else none

/-- The table it read: where it may read several, which of them is free. -/
def Cmd.tableRead (c : Cmd) (use : Nat) : Option Nat :=
  c.tablesRead.getD (Config.freeCount 0 use % c.tablesRead.length) none

def Banks.empty (b : Banks) (live : Bool) : Banks := if live then { b with b := .emptied } else { b with a := .emptied }

/-- The bank that a command bound becomes empty on every tile (spec 04 R108). -/
def emptyTable (s : State) (c : Cmd) : State :=
  match c.tableRead s.fresh, c.first.bind (·.ctx) with
  | some sel, some y =>
    let live := (y.banks sel).live
    s.useFresh.modCtx c.ctx fun x =>
      if sel = 0 then { x with temp := x.temp.empty live }
      else { x with custom := (List.range 4).map fun i =>
        let b := x.banks (0x10 + i)
        if 0x10 + i = sel then b.empty live else b }
  | _, _ => s

def faultDetect (s : State) (d : Detection) : State :=
  if d.source = 0x58 then selfFault s
  else
    let t := match (if d.source = 0x05 then d.cmd.bind s.cmd? else none) with
      | some c => emptyTable s c
      | none => s
    (afterDetection (t.detect (t.asRecorded d)) d).drainNext

/-- FAULT_DETECT. -/
def execFaultDetect (d : Detection) (s : State) : Answer :=
  if !decide (d.source < 0x60) then .fault .noSuchUnit
  else if s.collectorUp then .next (faultDetect s d).noteSched
  else .next s

/-! ## The collector's registers -/

def Flt.clearRec (f : Flt) (n : Nat) : Flt :=
  let wipe := fun (e : Nat × Rec) => (e.1, { e.2 with pending := false, count := 0 })
  { f with recs := modWhere (fun e => e.1 == n) wipe f.recs }

/-- RECORD_CLEAR: writing 1 to PENDING clears it and zeroes COUNT, and the rest of the record stays (Table 15-12); in the safe state the write is discarded (R395, R398). -/
def recordClear (s : State) (n : Nat) (v : W32) : State :=
  if bitAt v 0 && !s.flt.safe && (sourceScope n).isSome then
    s.modFlt (·.clearRec n) else s

def execRecordClear (source : Nat) (value : W32) (s : State) : Answer :=
  if !decide (source < 0x60) then .fault .noSuchUnit
  else if s.mgmtOn then .next (recordClear s source value) else .next s

/-- SEVERITY_WRITE: a locked source and a reserved code leave the severity (R393). -/
def severityWrite (s : State) (n : Nat) (v : W32) : State :=
  if (sourceScope n).isSome && !sourceLocked n && decide (field v 2 0 ≤ 4) then
    s.modFlt fun f => { f with sev := f.sev.set n (field v 2 0) } else s

def execSeverityWrite (source : Nat) (value : W32) (s : State) : Answer :=
  if !decide (source < 0x60) then .fault .noSuchUnit
  else if s.mgmtOn then .next (severityWrite s source value) else .next s

/-- INJECTION_ARM: a count arms, zero disarms; a mask on the collector's own registers is a self-fault (R402). -/
def injectionArm (s : State) (v : W32) : State :=
  let n := field v 15 0
  let s := s.modFlt fun f => { f with injCount := n, armed := decide (0 < n) }
  if s.flt.armed && field s.flt.injSel 3 0 == 7 && s.flt.injMask != 0#32 then selfFault s else s

def execInjectionArm (value : W32) (s : State) : Answer := if s.mgmtOn then .next (injectionArm s value) else .next s

end Sys2Proof.Machine
end

