-- ==== Sys2Proof/Machine/Power.lean ====
section
/-!
DEFINITION. Power: Doze, the allowance, the governor and its peak loop, the brake, temperature, coolant, wear, and calibration
values (spec 16 R412-R434; 06 R171; 12 R328).
-/
namespace Sys2Proof.Machine

/-! ## Calibration values (R431 to R433) -/

def Pwr.item (p : Pwr) (i : Nat) : CalItem := Tab.get p.cal i { f := 0#32, lo := 0#32, hi := 0#32 }
def Pwr.userOf (p : Pwr) (i : Nat) : W32 := Tab.get p.user i 0#32

/-- An item of the factory block keeps R438: LO ≤ F ≤ HI, and a reserved item holds zero. -/
def calItemOk (i : Nat) (x : CalItem) : Bool :=
  if calItemUsed i then decide (x.lo.toInt ≤ x.f.toInt) && decide (x.f.toInt ≤ x.hi.toInt) else x.f == 0#32 && x.lo == 0#32 && x.hi == 0#32

/-- Milpeost accepts the factory block (R432; 17 R438). -/
def CalBlock.accepted (b : CalBlock) : Bool :=
  b.magic == 0x4C435153#32 && field b.format 15 0 == 1 && b.count == 256#32 && b.edKeyOk && b.mlKeyOk && b.edOk && b.mlOk &&
  b.items.all fun e => calItemOk e.1 e.2

/-- F + U, exactly. -/
def Pwr.rawCal (p : Pwr) (i : Nat) : Int := (p.item i).f.toInt + (p.userOf i).toInt

/-- The effective value: min(max(F + U, LO), HI). -/
def Pwr.effCal (p : Pwr) (i : Nat) : Int := min (max (p.rawCal i) (p.item i).lo.toInt) (p.item i).hi.toInt

def Pwr.clamped (p : Pwr) (i : Nat) : Bool := p.rawCal i != p.effCal i

/-- A write of U to an item that is not reserved; a clamped value is recorded with its item. -/
def setUser (s : State) (i : Nat) (v : W32) : State :=
  if calItemUsed i then
    let s := s.modPwr fun p => { p with user := Tab.set p.user i v }
    if s.pwr.clamped i then s.detect (unitFault 0x5E i none) else s
  else s

/-- CAL_USER_WRITE. -/
def execCalUserWrite (value : W32) (s : State) : Answer :=
  if s.mgmtOn then .next (setUser s (field s.pwr.calSel 7 0) value) else .next s

/-- A reading with an offset of an item, in 0.01 °C. -/
def offsetBy (p : Pwr) (i reading : Nat) : Nat := ((reading : Int) + p.effCal i).toNat

/-- A reading times a gain in units of 2⁻¹⁶. -/
def gainBy (p : Pwr) (i reading : Nat) : Nat := ((reading : Int) * p.effCal i).toNat / 65536

/-- A temperature in 0.5 °C, in a byte. -/
def halfDegrees (t : Nat) : Nat := if t / 50 > 255 then 255 else t / 50

/-! ## Doze (R414) -/

/-- Nothing is in progress. -/
def State.quiet (s : State) : Bool :=
  s.cmds.isEmpty && s.net.flows.all (fun f => f.unacked.isEmpty && f.unsent.isEmpty) && s.parts.all (fun p => p.colls.isEmpty) &&
  s.parts.all (fun p => p.ckp.drain.isNone) && s.allocs.all (fun a => (a.tcopy.map fun t => t.queued.isEmpty && t.inProgress.isNone).getD true) &&
  s.maint.held.all (fun t => t.use == .scrub)

/-- DOZE_ENTRY. -/
def execDozeEntry (s : State) : Answer :=
  let idle := field s.pwr.cfg 15 0
  if s.live && s.pwr.state == 1#3 && idle != 0 && s.quiet && decide (s.pwr.idleSince + idle ≤ s.clk.localUs) then
    .next (s.setPower 2#3)
  else .next s

/-! ## The allowance, the governor and its peak loop (R418 to R420, R427) -/

def sustained : Nat := 1800000
def peak : Nat := 2200000

/-- The resume threshold in mJ: a signed value, at least 1, at most A_max. -/
def Pwr.resumeAt (p : Pwr) : Int := min (max p.resume.toInt 1) p.allowMax

/-- A in nanojoules after a window of `mw` milliwatts (R418). -/
def Pwr.windowAllow (p : Pwr) (mw : Nat) : Int := min (p.allow + ((sustained : Int) - mw) * 2) ((p.allowMax : Int) * 1000000)

/-- The ceiling L of the peak loop. -/
def Pwr.ceiling (p : Pwr) : Nat := if p.allowMax = 0 then sustained else peak

/-- The peak loop after a window: it lowers in the window after an excess, and raises after 50 windows in a row. -/
def Pwr.peakLoop (p : Pwr) (mw : Nat) : Pwr :=
  let gov := if p.exceeded then (if p.gov ≤ 1 then 1 else p.gov - 1) else p.gov
  let below := if mw ≤ p.ceiling - 150000 then p.below + 1 else 0
  { p with gov := if below = 50 then min (gov + 1) 16 else gov, below := if below = 50 then 0 else below
           exceeded := decide (p.ceiling - 50000 < mw) }

/-- The cap after a window: it begins when A reaches 0 and is lifted at the resume threshold; with A_max 0 there is none. -/
def Pwr.capNext (p : Pwr) : Bool :=
  if p.allowMax = 0 then false
  else if p.cap then decide (p.allow < p.resumeAt * 1000000)
  else decide (p.allow ≤ 0)

/-- POWER_WINDOW: the power measured in a window of 2 µs. The governor fraction that holds 1,800 W under the cap is not given
(log 18). -/
def powerWindow (s : State) (milliwatts : Nat) : State :=
  let mw := gainBy s.pwr 0x20 milliwatts
  let was := s.pwr.cap
  let free := 1 + Config.freeCount 153 s.fresh % 16
  let s := s.useFresh.modPwr fun p =>
    let p := { p with allow := p.windowAllow mw, windows := (mw :: p.windows).take 50000, inMv := BitVec.ofNat 32 s.pins.vin }
    let p := p.peakLoop mw
    let cap := p.capNext
    { p with cap := cap, gov := if cap then min p.gov free else p.gov, caps := if cap && !was then satAdd32 p.caps 1 else p.caps }
  if s.pwr.cap && !was then s.detect (unitFault 0x54 0 none) else s

def execPowerWindow (milliwatts : Nat) (s : State) : Answer := if s.phase == .running then .next (powerWindow s milliwatts).noteSched else .next s

/-! ## The brake (R422) -/

/-- The brake's limit is in force; the fraction that holds 900 W is not given (log 18). -/
def engageBrake (s : State) : State := s.useFresh.modPwr fun p => { p with brake := 1 + Config.freeCount 154 s.fresh % 16 }

/-- PWRBRK_ASSERT. -/
def execPwrbrkAssert (s : State) : Answer :=
  if !s.pins.pwrbrkN then .next s
  else
    let s := { s with pins := { s.pins with pwrbrkN := false } }
    if s.phase == .running then
      let s := (engageBrake s).modPwr fun p => { p with brakes := satAdd32 p.brakes 1 }
      .next (s.detect (unitFault 0x55 0 none)).noteSched
    else .next s

/-- PWRBRK_DEASSERT. -/
def execPwrbrkDeassert (s : State) : Answer :=
  .next { s with pins := { s.pins with pwrbrkN := true }, pwr := { s.pwr with brake := 16 } }

/-! ## Temperature (R424 to R426; 06 R171): in every state in which Milpeost runs (R417) -/

/-- The unit of a junction sensor: its compute die, base die or stack (Table 16-4). -/
def sensorUnit (i : Nat) : Nat := if i < 8 then i else if i < 12 then i - 8 else i - 12

def hotFault (source inst t : Nat) : Detection := { source := source, inst := inst, part := none, info := t / 50, cmd := none }

/-- THERMAL_LOOP: the loop's fraction. Source 0x50 when it first reduces; 0x51 at 105 °C. -/
def execThermalLoop (r : ThermalReading) (s : State) : Answer :=
  if s.mgmtOn then
    let t := offsetBy s.pwr r.sensor r.hottest
    let was := s.pwr.therm
    let s := s.modPwr fun p => { p with
      therm := min r.fraction 16
      temp := BitVec.ofNat 32 (halfDegrees t + r.sensor % 256 * 256 + field p.temp 23 16 * 65536) }
    let s := if was = 16 ∧ s.pwr.therm < 16 then s.detect (hotFault 0x50 (sensorUnit r.sensor) t) else s
    .next (if 10500 ≤ t then s.detect (hotFault 0x51 (sensorUnit r.sensor) t) else s).noteSched
  else .next s

/-- THERMAL_GUARD and its release. -/
def execThermalGuard (hottest : Nat) (s : State) : Answer :=
  .next (if 10100 ≤ hottest ∧ s.mgmtOn = true then s.modPwr fun p => { p with guard := true } else s)

def execThermalGuardRelease (hottest : Nat) (s : State) : Answer :=
  .next (if hottest < 9900 then s.modPwr fun p => { p with guard := false } else s)

/-- COOLANT_READ: sources 0x52 and 0x53 when a reading leaves its limits. -/
def execCoolantRead (inlet flow : Nat) (s : State) : Answer :=
  if s.mgmtOn then
    let t := offsetBy s.pwr 0x14 inlet
    let q := gainBy s.pwr 0x15 flow
    let hot := !(decide (2000 ≤ t) && decide (t ≤ 4000))
    let low := decide (q < 200)
    let was := s.pwr
    let s := s.modPwr fun p => { p with
      temp := BitVec.ofNat 32 (field p.temp 15 0 + halfDegrees t * 65536), flow := BitVec.ofNat 32 (satNat16 q), inletOut := hot, flowOut := low }
    let s := if hot && !was.inletOut then s.detect (hotFault 0x52 0 t) else s
    .next (if low && !was.flowOut then s.detect (unitFault 0x53 0 none) else s).noteSched
  else .next s

/-- RDIMM_TEMP_READ: above 85 °C refresh is doubled; above 95 °C the channel is halved until below 90 °C. -/
def execRdimmTempRead (channel temp : Nat) (s : State) : Answer :=
  if !decide (channel < 8) then .fault .noSuchUnit
  else if s.phase == .running && s.fit.channels.any (·.1 == channel) then
    let was := s.pwr
    let hot := decide (8500 < temp)
    let half := decide (9500 < temp) || (was.halved.contains channel && decide (9000 ≤ temp))
    let put := fun (b : Bool) (l : List Nat) => if b then addOnce channel l else l.filter (· != channel)
    let s := s.modPwr fun p => { p with doubled := put hot p.doubled, halved := put half p.halved }
    let s := if hot && !was.doubled.contains channel then s.detect (hotFault 0x39 channel temp) else s
    .next (if half && !was.halved.contains channel then s.detect (hotFault 0x3A channel temp) else s).noteSched
  else .next s

/-! ## Wear (R427) -/

/-- The largest y below 2^n above `acc` whose test holds, bit by bit. -/
def largestBits (ok : Nat → Bool) : Nat → Nat → Nat
  | 0, acc => acc
  | n + 1, acc => largestBits ok n (if ok (acc + 2 ^ n) then acc + 2 ^ n else acc)

/-- The stress of one second at a junction of t × 0.01 °C, in units of 2⁻⁴⁸: 2^((t − 8500)/1000) / 3600, rounded down
(log 45). -/
def secondStress (t : Nat) : Nat :=
  if 48000 + t < 8500 then 0
  else largestBits (fun y => decide ((y * 3600) ^ 1000 ≤ 2 ^ (48000 + t - 8500))) 80 0

/-- WEAR_SAMPLE: every second of powered time. -/
def execWearSample (hottest : Nat) (s : State) : Answer :=
  if s.mgmtOn then
    .next (s.modPwr fun p => { p with stress := p.stress + secondStress hottest, powered := p.powered + 1 })
  else .next s

/-- ρ: stress over powered hours, compared with n hundredths. -/
def Pwr.wearAbove (p : Pwr) (n : Nat) : Bool := decide (n * 2 ^ 48 * p.powered < p.stress * 3600 * 100)
def Pwr.wearBelow (p : Pwr) (n : Nat) : Bool := decide (p.stress * 3600 * 100 < n * 2 ^ 48 * p.powered)

/-- ρ in units of 1/256, saturating. -/
def Pwr.wearRatio (p : Pwr) : Nat := if p.powered = 0 then 0 else satNat16 (256 * p.stress * 3600 / (2 ^ 48 * p.powered))

/-- WEAR_UPDATE: every 24 h of powered time. A_max falls or rises by 1,000 mJ, and A is clamped to it. -/
def wearUpdate (s : State) : State :=
  let p := s.pwr
  let worn := p.wearAbove 105
  let a := if worn then p.allowMax - 1000 else if p.wearBelow 95 then min (p.allowMax + 1000) 16000 else p.allowMax
  let s := s.modPwr fun p => { p with allowMax := a, allow := min p.allow ((a : Int) * 1000000), wear := BitVec.ofNat 32 p.wearRatio }
  if worn then s.detect (unitFault 0x57 0 none) else s

def execWearUpdate (s : State) : Answer :=
  if s.mgmtOn = true ∧ s.pwr.powered ≠ 0 ∧ s.pwr.powered % 86400 = 0 then .next (wearUpdate s).noteSched else .next s

/-! ## Energy (12 R328) -/

/-- ENERGY_RECALIBRATION: the energy that the rail sensors add to contexts and to idle partitions, in mJ; an interface counts
its contexts'. -/
def execEnergyRecalibration (idle : Tab Nat) (ctx : Tab Nat) (s : State) : Answer :=
  if s.phase == .running then
    .next { s with
      parts := s.parts.map fun p => { p with idleEnergy := sat64 (p.idleEnergy + Tab.get idle p.num 0) }
      ctxs := s.ctxs.map fun x => { x with acct := { x.acct with energy := sat64 (x.acct.energy + Tab.get ctx x.id 0) } }
      ifaces := s.ifaces.map fun f => { f with acct := { f.acct with
        energy := sat64 (f.acct.energy + ((s.ctxs.filter (·.iface == f.num)).map fun x => Tab.get ctx x.id 0).foldl (· + ·) 0) } } }
  else .next s

end Sys2Proof.Machine
end

