-- ==== Sys2Proof/Machine/Registers.lean ====
section
/-!
DEFINITION. The registers: the control window of an interface (spec 11 R303; 00 R13-R16; 03, 06-10, 12, 15) and the management
space (17 R453; 14-16).
-/
namespace Sys2Proof.Machine

def lowWord (n : Nat) : W32 := BitVec.ofNat 32 (n % 2 ^ 32)
def within (off lo hi : Nat) : Bool := decide (lo ≤ off) && decide (off < hi)

/-! ## The control window: what reads return -/

/-- The 64-bit registers of a window (R80, R330). -/
def windowWide (off : Nat) : Bool :=
  within off 0x1E00 0x1EF0 || within off 0x1D10 0x1D18 || within off 0x3010 0x3098 || within off 0x3100 0x3188 ||
  within off 0x3228 0x3238 || within off 0x4010 0x4050 || within off 0x5028 0x5030

/-- Engines, bytes and energy of an account, as the 64-bit register at an offset from its first. -/
def Acct.wide (a : Acct) (off : Nat) : Nat :=
  if off < 0x40 then Tab.get a.eng (off / 8) 0 else if off < 0x80 then Tab.get a.bytes ((off - 0x40) / 8) 0 else a.energy

/-- The value of a 64-bit register. -/
def State.wideReg (s : State) (f : Iface) (off : Nat) : Nat :=
  if within off 0x1E00 0x1EF0 then
    let c := Tab.get f.cnv ((off - 0x1E00) / 24) { total := 0, ovf := 0, van := 0 }
    match (off - 0x1E00) % 24 / 8 with
    | 0 => c.total
    | 1 => c.ovf
    | _ => c.van
  else if within off 0x1D10 0x1D18 then f.lrnUpdated
  else if within off 0x3010 0x3098 then f.snap.wide (off - 0x3010)
  else if within off 0x3100 0x3188 then f.acct.wide (off - 0x3100)
  else if within off 0x3228 0x3230 then ((s.part? f.part).map (·.waste)).getD 0
  else if within off 0x3230 0x3238 then ((s.part? f.part).map (·.idleEnergy)).getD 0
  else if within off 0x4010 0x4030 then Tab.get f.vCe ((off - 0x4010) / 8) 0
  else if within off 0x4030 0x4050 then Tab.get f.vUe ((off - 0x4030) / 8) 0
  else if within off 0x5028 0x5030 then f.served
  else 0

/-- Doorbells, events and queue configuration (Tables 11-11, 11-12). -/
def State.queueReg (s : State) (f : Iface) (off : Nat) : W32 :=
  if within off 0x40 0x80 then ((f.queue? ((off - 0x40) / 4)).map (·.rrHead)).getD 0#32
  else if within off 0x800 0xC00 then Tab.get f.events ((off - 0x800) / 4) 0#32
  else if within off 0x1000 0x1400 then
    let n := (off - 0x1000) / 0x40
    match f.queue? n with
    | none => 0#32
    | some q =>
      match (off - 0x1000) % 0x40 with
      | 0x00 => if q.present then packed [(8, q.base), (4, q.log2), (0, 1)] else 0#32
      | 0x04 => q.head
      | 0x08 => q.tail
      | 0x0C => BitVec.ofNat 32 (s.inflight f.num n)
      | 0x10 => lowWord q.rrAddr.toNat
      | 0x14 => lowWord (q.rrAddr.toNat / 2 ^ 32)
      | 0x18 => q.rrKey
      | 0x1C => q.rrCfg
      | 0x20 => q.rrWr
      | _ => 0#32
  else if off = 0x1400 then f.qareaKey
  else 0#32

/-- Serving registers (Table 7-8). -/
def State.servingReg (s : State) (f : Iface) (off : Nat) : W32 :=
  let p := s.part? f.part
  match off with
  | 0x1A00 => f.tokCfg
  | 0x1A04 => f.tokRate
  | 0x1A08 => f.tokDepth
  | 0x1A0C => f.tokWeights
  | 0x1A10 => BitVec.ofInt 32 f.tokLevel
  | 0x1A14 => BitVec.ofNat 32 f.slotCap
  | 0x1A18 => BitVec.ofNat 32 ((p.map fun q => q.gen.reqs.countP (·.iface == f.num)).getD 0)
  | 0x1A1C => f.classL
  | 0x1A20 => BitVec.ofNat 32 ((p.map (·.pinLimit)).getD 0)
  | 0x1A24 => f.cringWr
  | 0x1A28 => f.cringRd
  | 0x1A2C => lowWord f.skips
  | 0x1A30 => lowWord f.pinDrops
  | 0x1A34 => lowWord f.kvDiscard
  | _ => 0#32

/-- Tiers, learning and format registers (Tables 6-11, 9-11, 3-8). -/
def State.tierReg (s : State) (f : Iface) (off : Nat) : W32 :=
  let free := fun (g : Part → Nat) => BitVec.ofNat 32 (((s.part? f.part).map g).getD 0)
  match off with
  | 0x1C00 => f.winDefault
  | 0x1C04 => free s.onchipFree
  | 0x1C08 => free fun p => s.hbmFree p / mib
  | 0x1C0C => free fun p => s.ddrFree p / mib
  | 0x1C10 => lowWord f.lateUses
  | 0x1C14 => lowWord f.lateTokens
  | 0x1C18 => lowWord f.stageWait
  | 0x1D00 => lowWord f.lrnTokens
  | 0x1D04 => lowWord f.lrnClipped
  | 0x1D08 => lowWord f.lrnLagged
  | 0x1D0C => lowWord f.lrnNonfinite
  | 0x1F00 => f.fmtGuard
  | 0x1F04 => lowWord f.scaleFails
  | _ => 0#32

/-- Accounting registers of 32 bits (Table 12-5). -/
def State.acctReg (s : State) (f : Iface) (off : Nat) : W32 :=
  match off with
  | 0x3000 => f.ctxSel
  | 0x3004 => f.snapStatus
  | 0x3008 => f.snapTime
  | _ =>
    match s.part? f.part with
    | none => 0#32
    | some p =>
      match off with
      | 0x3200 => packed [(0, p.c0), (8, p.n), (16, p.role), (24, p.num)]
      | 0x3204 => packed [(0, p.foot / 4), (12, p.residentSlots)]
      | 0x3208 => BitVec.ofNat 32 p.quantum
      | 0x320C => BitVec.ofNat 32 p.slice
      | 0x3210 => lowWord p.switches
      | 0x3214 => lowWord p.switchUs
      | 0x3218 => lowWord p.rotations
      | 0x321C => lowWord p.donations
      | 0x3220 => lowWord p.revokes
      | _ => 0#32

/-- The fault view (Table 15-4). -/
def State.viewReg (s : State) (f : Iface) (off : Nat) : W32 :=
  match off with
  | 0x4000 => s.viewStatus f
  | 0x4004 => f.vPend
  | 0x4008 => f.vAccess
  | 0x400C => f.vEvent
  | 0x4050 => f.vLast
  | 0x4054 => f.vLastDetail
  | 0x4058 => f.vLastTime
  | _ => 0#32

/-- Trajectories of an interface that are closed and not scanned. -/
def Part.awaiting (p : Part) (i : Nat) : Nat :=
  p.rings.foldl (fun n g => n + g.trajs.countP fun t => t.iface == i && t.closed && !t.scanned) 0

/-- Epoch and experience status (Tables 10-7, 8-5). -/
def State.epochReg (s : State) (f : Iface) (off : Nat) : W32 :=
  match off with
  | 0x5018 => lowWord f.publishes
  | 0x501C => lowWord f.loadsIncomplete
  | 0x5020 => lowWord f.srcRefused
  | 0x5100 => lowWord f.expRecords
  | 0x5104 => lowWord f.expClosed
  | 0x5108 => lowWord f.expEmpty
  | 0x510C => lowWord f.expScanned
  | _ =>
    match s.part? f.part with
    | none => 0#32
    | some p =>
      match off with
      | 0x5000 => p.bloomWord
      | 0x5004 => if p.role = roleLearn then 0#32 else p.epo.budEpoch
      | 0x5008 => p.areaEpoch .held
      | 0x500C => p.epoWord
      | 0x5010 => BitVec.ofNat 32 (p.epo.map.foldl (fun n e => n + e.rowCnt) 0)
      | 0x5014 => if p.role = roleLearn then 0#32 else BitVec.ofNat 32 p.epo.arrived.length
      | 0x5110 => if s.fit.scan then BitVec.ofNat 32 (p.awaiting f.num) else 0#32
      | _ => 0#32

/-- The value of a 32-bit register of a window (Table 11-10). -/
def State.windowReg (s : State) (f : Iface) (off : Nat) : W32 :=
  if off < 0x1800 then s.queueReg f off
  else if off < 0x1C00 then s.servingReg f off
  else if off < 0x2000 then s.tierReg f off
  else if off < 0x3000 then s.capWord off
  else if off < 0x4000 then s.acctReg f off
  else if off < 0x5000 then s.viewReg f off
  else s.epochReg f off

/-- What a read of a register leaves: an RC register is cleared (R15, R80). -/
def Iface.afterRead (f : Iface) (off : Nat) : Iface :=
  if within off 0x1E00 0x1EF0 then
    { f with cnv := Tab.mod f.cnv ((off - 0x1E00) / 24) { total := 0, ovf := 0, van := 0 } fun c =>
        match (off - 0x1E00) % 24 / 8 with
        | 0 => { c with total := 0 }
        | 1 => { c with ovf := 0 }
        | _ => { c with van := 0 } }
  else if within off 0x4010 0x4030 then { f with vCe := Tab.set f.vCe ((off - 0x4010) / 8) 0 }
  else if within off 0x4030 0x4050 then { f with vUe := Tab.set f.vUe ((off - 0x4030) / 8) 0 }
  else
    match off with
    | 0x1A2C => { f with skips := 0 }
    | 0x1A30 => { f with pinDrops := 0 }
    | 0x1A34 => { f with kvDiscard := 0 }
    | 0x1C10 => { f with lateUses := 0 }
    | 0x1C14 => { f with lateTokens := 0 }
    | 0x1C18 => { f with stageWait := 0 }
    | 0x1D00 => { f with lrnTokens := 0 }
    | 0x1D04 => { f with lrnClipped := 0 }
    | 0x1D08 => { f with lrnLagged := 0 }
    | 0x1D0C => { f with lrnNonfinite := 0 }
    | 0x1D10 => { f with lrnUpdated := 0 }
    | 0x1F04 => { f with scaleFails := 0 }
    | 0x5018 => { f with publishes := 0 }
    | 0x501C => { f with loadsIncomplete := 0 }
    | 0x5020 => { f with srcRefused := 0 }
    | 0x5028 => { f with served := 0 }
    | 0x5100 => { f with expRecords := 0 }
    | 0x5104 => { f with expClosed := 0 }
    | 0x5108 => { f with expEmpty := 0 }
    | 0x510C => { f with expScanned := 0 }
    | _ => f

/-! ## Accesses from a host port (R13) -/

/-- Naturally aligned, of the register's full width; a reserved offset takes 32-bit accesses. -/
def accessOk (off width : Nat) : Bool :=
  if windowWide off then width == 8 && off % 8 == 0 else width == 4 && off % 4 == 0

/-- A read by a host: its value, and the state it leaves. -/
def windowRead (s : State) (f : Iface) (off width : Nat) : State × W64 :=
  if accessOk off width then
    let v := if width = 8 then BitVec.ofNat 64 (s.wideReg f off) else BitVec.ofNat 64 (s.windowReg f off).toNat
    (s.modIface f.num (·.afterRead off), v)
  else (s.discard f.num causeR13 false off, 0#64)

/-! ## Writes to a window -/

/-- ACC.CTX_SEL: a snapshot of a context of the interface; of no such context, STATE 0x7 and zeros (12 R330). -/
def ctxSelect (s : State) (i : Nat) (v : W32) : State :=
  let none' : Acct := { eng := [], bytes := [], energy := 0 }
  match (s.ctx? (field v 11 0)).filter (·.iface == i) with
  | some x => s.modIface i fun f => { f with
      ctxSel := v &&& 0xFFF#32, snapTime := lowWord s.clk.localUs, snap := x.acct
      snapStatus := packed [(0, x.st.code), (4, x.prio), (8, boolNat (s.ctxWaiting x)), (16, x.foot / 4)] }
  | none => s.modIface i fun f => { f with ctxSel := v &&& 0xFFF#32, snapTime := 0#32, snap := none', snapStatus := 7#32 }

/-- FLT.V_PEND: writing 1 clears bits of the view only (15 R401). -/
def viewClear (s : State) (i : Nat) (v : W32) : State := s.modIface i fun f => { f with vPend := f.vPend &&& ~~~v }

/-- A 32-bit write to a register of a window; a read-only or reserved offset takes no write. -/
def windowSet (s : State) (i off : Nat) (v : W32) : State :=
  if off < 0x40 then doorbell s i (off / 4) v
  else if off < 0x80 then replyHead s i ((off - 0x40) / 4) v
  else if within off 0x1000 0x1400 then
    let q := (off - 0x1000) / 0x40
    match (off - 0x1000) % 0x40 with
    | 0x10 => replyAddress s i q 0 v
    | 0x14 => replyAddress s i q 1 v
    | 0x18 => replyAddress s i q 2 v
    | 0x1C => replyConfig s i q v
    | _ => s
  else
    match off with
    | 0x1A1C => s.modIface i fun f => { f with classL := v }
    | 0x1A28 => cringRd s i v
    | 0x1C00 => s.modIface i fun f => { f with winDefault := v &&& 0xF0F#32 }
    | 0x1F00 => s.modIface i fun f => { f with fmtGuard := v &&& 0x1F#32 }
    | 0x3000 => ctxSelect s i v
    | 0x4004 => viewClear s i v
    | 0x400C => s.modIface i fun f => { f with vEvent := v &&& 0x1FF#32 }
    | _ => s

/-- A write by a host: a 64-bit register takes none (they are all RO or RC); any access but the natural one is discarded. -/
def windowWrite (s : State) (i off width : Nat) (v : W64) : State :=
  if accessOk off width then (if width = 4 then windowSet s i off (v.truncate 32) else s) else s.discard i causeR13 true off

def execCtxSelWrite (iface : Nat) (value : W32) (s : State) : Answer :=
  if s.windowUp && (s.iface? iface).isSome then .next (ctxSelect s.wake iface value) else .next s

def execViewPendClear (iface : Nat) (value : W32) (s : State) : Answer :=
  if s.windowUp then .next (viewClear s.wake iface value) else .next s

/-! ## The management space (17 R453, Tables 17-9, 17-10; 15 Table 15-10; 16 Tables 16-5, 16-9; 14 Table 14-9) -/

/-- The 64-bit registers of the management space. -/
def mgmtWide (off : Nat) : Bool :=
  within off 0x28 0x30 || within off 0x2030 0x2038 || within off 0x3008 0x3010 || within off 0x4008 0x4010 || within off 0x4200 0x4300 ||
  (within off 0x4300 0x4380 && decide (0x10 ≤ off % 0x20)) || within off 0x4400 0x4438

/-- The value of a 64-bit register. -/
def State.mgmtWideReg (s : State) (off : Nat) : Nat :=
  if within off 0x28 0x30 then s.mgt.ctr.toNat
  else if within off 0x2030 0x2038 then sat64 (s.pwr.stress / 2 ^ 32)
  else if within off 0x3008 0x3010 then s.clk.localUs
  else if within off 0x4008 0x4010 then s.net.fabPfx6.toNat
  else if within off 0x4200 0x4300 then ((s.link? ((off - 0x4200) / 8)).map (·.nh.toNat)).getD 0
  else if within off 0x4300 0x4380 then
    ((s.port? ((off - 0x4300) / 0x20)).map fun h => if off % 0x20 < 0x18 then h.addr6hi.toNat else h.addr6lo.toNat).getD 0
  else
    match (off - 0x4400) / 8 with
    | 0 => s.net.retx
    | 1 => s.net.crcFail
    | 2 => s.net.drops
    | 3 => s.net.cnpTx
    | 4 => s.net.cnpRx
    | 5 => s.net.pathFail
    | _ => s.net.pfcWd

def State.mgtReg (s : State) (off : Nat) : W32 :=
  let m := s.mgt
  match off with
  | 0x00 => s.mgtStatus
  | 0x04 => m.fwVer
  | 0x08 => m.svnWord
  | 0x0C => m.bootCount
  | 0x10 => BitVec.ofNat 32 m.stage.toNat
  | 0x14 => m.stageBytes
  | 0x18 => m.authFail
  | 0x1C => m.replay
  | 0x20 => m.proxyWord
  | 0x24 => m.proxyKey
  | _ => 0#32

/-- The FLT block, by offset from its base. -/
def State.fltReg (s : State) (off : Nat) : W32 :=
  if off = 0 then s.fltStatus
  else if within off 0x10 0x1C then s.fltPend ((off - 0x10) / 4)
  else if within off 0x100 0x280 then s.fltSev ((off - 0x100) / 4)
  else if within off 0x400 0xA00 then
    let n := (off - 0x400) / 16
    match off % 16 with
    | 0 => s.recCtrl n
    | 4 => (s.flt.recOf n).first
    | 8 => (s.flt.recOf n).time
    | _ => (s.flt.recOf n).last
  else if off = 0xA00 then s.flt.injSel
  else if off = 0xA04 then s.flt.injMask
  else if off = 0xA08 then s.flt.injWord
  else 0#32

/-- PWR.CAL_STAT. -/
def State.calStat (s : State) : W32 :=
  let p := s.pwr
  packed [(0, boolNat (p.clamped (field p.calSel 7 0))),
    (1, boolNat ((List.range 256).any fun i => p.userOf i != Tab.get p.saved i 0#32)), (2, boolNat s.mgt.calBlock.accepted)]

def State.pwrReg (s : State) (off : Nat) : W32 :=
  let p := s.pwr
  let i := field p.calSel 7 0
  match off with
  | 0x00 => s.powerWord
  | 0x04 => p.cfg
  | 0x08 => p.inMv
  | 0x0C => p.inputWord
  | 0x10 => p.allowWord
  | 0x14 => BitVec.ofNat 32 p.allowMax
  | 0x18 => p.resume
  | 0x1C => p.issueWord
  | 0x20 => p.temp
  | 0x24 => p.flow
  | 0x28 => p.wear
  | 0x38 => p.caps
  | 0x3C => p.brakes
  | 0x40 => p.thermMs
  | 0x80 => p.calSel
  | 0x84 => (p.item i).f
  | 0x88 => p.userOf i
  | 0x8C => (p.item i).lo
  | 0x90 => (p.item i).hi
  | 0x94 => BitVec.ofInt 32 (p.effCal i)
  | 0x98 => s.calStat
  | _ => 0#32

/-- CLK.STATUS: a PLL that is stopped in the power state reads as unlocked (16 Table 16-10): Nap stops the memory and SerDes
PLLs but the management port's, Hold and Dormant the root too. -/
def State.clkStatus (s : State) : W32 :=
  let n := s.clk.status.toNat
  if s.phase != .running then 0#32
  else BitVec.ofNat 32 (if s.pwr.state.toNat ≤ 2 then n else if s.pwr.state = 3#3 then n &&& 9 else if s.pwr.state = 4#3 then n &&& 8 else 0)

def State.clkReg (s : State) (off : Nat) : W32 :=
  match off with
  | 0x00 => s.clkStatus
  | 0x10 => s.clk.refDev
  | _ => 0#32

def State.netReg (s : State) (off : Nat) : W32 :=
  if within off 0x20 0xA0 then ((s.link? ((off - 0x20) / 4)).map (·.cfg)).getD 0#32
  else if within off 0xA0 0x120 then s.linkStat ((off - 0xA0) / 4)
  else if within off 0x300 0x380 then
    match s.port? ((off - 0x300) / 0x20) with
    | none => 0#32
    | some h =>
      match off % 0x20 with
      | 0 => h.addr4
      | 4 => h.cfg
      | 8 => s.portStat ((off - 0x300) / 0x20)
      | _ => 0#32
  else
    match off with
    | 0x00 => s.net.modCfg
    | 0x04 => s.net.fabBase4
    | 0x10 => s.net.fabCfg
    | 0x14 => s.net.rcCfg
    | 0x18 => s.net.bzRto
    | _ => 0#32

/-- A 32-bit word of the management space. -/
def State.mgmtWord (s : State) (off : Nat) : W32 :=
  if mgmtWide off then
    let n := s.mgmtWideReg off
    if off % 8 = 0 then lowWord n else lowWord (n / 2 ^ 32)
  else
    match off / 0x1000 with
    | 0 => s.mgtReg off
    | 1 => s.fltReg (off - 0x1000)
    | 2 => s.pwrReg (off - 0x2000)
    | 3 => s.clkReg (off - 0x3000)
    | 4 => s.netReg (off - 0x4000)
    | _ => 0#32

/-- What a read of a register of the management space leaves. -/
def mgmtAfterRead (s : State) (off : Nat) : State :=
  match off with
  | 0x18 => s.modMgt fun m => { m with authFail := 0#32 }
  | 0x1C => s.modMgt fun m => { m with replay := 0#32 }
  | 0x2038 => s.modPwr fun p => { p with caps := 0#32 }
  | 0x203C => s.modPwr fun p => { p with brakes := 0#32 }
  | 0x2040 => s.modPwr fun p => { p with thermMs := 0#32 }
  | 0x4400 => s.modNet fun n => { n with retx := 0 }
  | 0x4408 => s.modNet fun n => { n with crcFail := 0 }
  | 0x4410 => s.modNet fun n => { n with drops := 0 }
  | 0x4418 => s.modNet fun n => { n with cnpTx := 0 }
  | 0x4420 => s.modNet fun n => { n with cnpRx := 0 }
  | 0x4428 => s.modNet fun n => { n with pathFail := 0 }
  | 0x4430 => s.modNet fun n => { n with pfcWd := 0 }
  | _ => s

/-- NET.LINK_CFG: ENABLE takes effect at once, EEE when the link next comes up. -/
def linkConfig (s : State) (k : Nat) (v : W32) : State :=
  let s := s.modLink k fun l => { l with cfg := v &&& 3#32 }
  if bitAt v 0 then (if ((s.link? k).map (·.training)).getD false then s else s.trainLink k) else takeLinkDown s k

/-- NET.MOD_CFG is effective from the next reset: it is the provisioning record's word (14 R368). -/
def modConfig (s : State) (v : W32) : State :=
  let w := v &&& 0x80013FFF#32
  (s.modNet fun n => { n with modCfg := w }).modMgt fun m => { m with prov := w }

def netSet (s : State) (off : Nat) (v : W32) : State :=
  if within off 0x20 0xA0 then linkConfig s ((off - 0x20) / 4) v
  else if within off 0x300 0x380 then
    match off % 0x20 with
    | 0 => s.modPort ((off - 0x300) / 0x20) fun h => { h with addr4 := v }
    | 4 => (s.modPort ((off - 0x300) / 0x20) fun h => { h with cfg := v &&& 0x0FFFFC1F#32, pausedSince := none }).sendHeld ((off - 0x300) / 0x20)
    | _ => s
  else
    match off with
    | 0x00 => modConfig s v
    | 0x04 => s.modNet fun n => { n with fabBase4 := v }
    | 0x10 => s.modNet fun n => { n with fabCfg := v &&& 0x1FFFFFFF#32 }
    | 0x14 => s.modNet fun n => { n with rcCfg := v &&& 0x00FFFFFF#32 }
    | 0x18 => s.modNet fun n => { n with bzRto := v &&& 0x000FFFFF#32 }
    | _ => s

/-- The injection target and mask hold while armed (15 Table 15-13). -/
def injectionSet (s : State) (off : Nat) (v : W32) : State :=
  if s.flt.armed then s
  else if off = 0xA00 then s.modFlt fun f => { f with injSel := v &&& 0x003FFF0F#32 }
  else s.modFlt fun f => { f with injMask := v }

def fltSet (s : State) (off : Nat) (v : W32) : State :=
  if within off 0x100 0x280 then severityWrite s ((off - 0x100) / 4) v
  else if within off 0x400 0xA00 then (if off % 16 = 0 then recordClear s ((off - 0x400) / 16) v else s)
  else if off = 0xA00 ∨ off = 0xA04 then injectionSet s off v
  else if off = 0xA08 then injectionArm s v
  else s

def pwrSet (s : State) (off : Nat) (v : W32) : State :=
  match off with
  | 0x04 => s.modPwr fun p => { p with cfg := v &&& 0xFFFF#32 }
  | 0x18 => s.modPwr fun p => { p with resume := v }
  | 0x80 => s.modPwr fun p => { p with calSel := v &&& 0xFF#32 }
  | 0x88 => setUser s (field s.pwr.calSel 7 0) v
  | _ => s

/-- A 32-bit write to the management space. -/
def mgmtSet (s : State) (off : Nat) (v : W32) : State :=
  match off / 0x1000 with
  | 1 => fltSet s (off - 0x1000) v
  | 2 => pwrSet s (off - 0x2000) v
  | 4 => netSet s (off - 0x4000) v
  | _ => s

/-- A write to a 64-bit register of the management space. -/
def mgmtSetWide (s : State) (off : Nat) (v : W64) : State :=
  if within off 0x4008 0x4010 then s.modNet fun n => { n with fabPfx6 := v }
  else if within off 0x4200 0x4300 then s.modLink ((off - 0x4200) / 8) fun l => { l with nh := v }
  else if within off 0x4300 0x4380 then
    s.modPort ((off - 0x4300) / 0x20) fun h => if off % 0x20 < 0x18 then { h with addr6hi := v } else { h with addr6lo := v }
  else s

def mgmtAccessOk (off width : Nat) : Bool :=
  if mgmtWide off then width == 8 && off % 8 == 0 else width == 4 && off % 4 == 0

/-! ## The rows -/

/-- A read of a register; the management plane's other accesses have no effect (R453). -/
def registerRead (s : State) (space : RegSpace) (off width : Nat) : State :=
  match space with
  | .window i =>
    match (if s.windowUp then s.iface? i else none) with
    | some f => let (t, v) := windowRead s.wake f off width; t.emit (.regValue v)
    | none => s
  | .mgmt =>
    if s.mgmtOn && mgmtAccessOk off width then
      let v := if width = 8 then BitVec.ofNat 64 (s.mgmtWideReg off) else BitVec.ofNat 64 (s.mgmtWord off).toNat
      (mgmtAfterRead s off).emit (.regValue v)
    else s

def execRcCounterRead (space : RegSpace) (offset width : Nat) (s : State) : Answer := .next (registerRead s space offset width)

def registerSet (s : State) (space : RegSpace) (off width : Nat) (v : W64) : State :=
  match space with
  | .window i => if s.windowUp && (s.iface? i).isSome then windowWrite s.wake i off width v else s
  | .mgmt =>
    if s.mgmtOn && mgmtAccessOk off width then (if width = 8 then mgmtSetWide s off v else mgmtSet s off (v.truncate 32)) else s

def execRegisterWrite (space : RegSpace) (offset width : Nat) (value : W64) (s : State) : Answer :=
  .next (registerSet s space offset width value)

end Sys2Proof.Machine
end

