-- ==== Sys2Proof/Machine/Boot.lean ====
section
/-!
DEFINITION. Images and fuses, boot, the end of a session, and the power states below Doze (spec 17 R436-R443, R473; 15 R398, R403;
16 R415, R416; 18 R464-R469).
-/
namespace Sys2Proof.Machine

/-! ## Images (R437) -/

def Mgt.slot (m : Mgt) (b : Bool) : Option Image := if b then m.slotB else m.slotA
def Mgt.setSlot (m : Mgt) (b : Bool) (i : Option Image) : Mgt := if b then { m with slotB := i } else { m with slotA := i }

/-- A key-hash slot that an image's key matches: it exists and is not revoked. -/
def slotLive (revoked : List Bool) (k : Option Nat) : Bool := (k.map fun k => !revoked.getD k true).getD false

/-- REVOKE names neither of the slots that the image's own keys match. -/
def Image.sparesOwn (i : Image) : Bool :=
  !(i.edSlot.any fun k => i.revoke.toNat / 2 ^ k % 2 == 1) && !(i.mlSlot.any fun k => i.revoke.toNat / 2 ^ (4 + k) % 2 == 1)

/-- An image is acceptable. -/
def Image.acceptable (i : Image) (f : Fuses) : Bool :=
  decide (f.rollback ≤ i.svn) && slotLive f.edRevoked i.edSlot && slotLive f.mlRevoked i.mlSlot && i.edOk && i.mlOk && i.sparesOwn

/-- OTHER_VALID and the other slot's SVN, as evaluated now. -/
def Mgt.otherNow (m : Mgt) : Option Nat := ((m.slot (!m.running)).filter (·.acceptable m.fuses)).map (·.svn)

/-- The slot that boots: the preferred one, else the other (Table 17-2 steps 2 and 3). -/
def Mgt.bootSlot (m : Mgt) : Option Bool :=
  let good := fun (b : Bool) => ((m.slot b).map fun i => i.acceptable m.fuses && i.fwOk).getD false
  if good m.pref then some m.pref else if good (!m.pref) then some (!m.pref) else none

/-! ## Measurements (Table 17-7) -/

/-- The fuse state that is measured: anti-rollback value, revocation bits, the key slots matched (log 13). -/
def fuseBytes (f : Fuses) (i : Image) : List Byte :=
  BitVec.ofNat 8 f.rollback :: ((f.edRevoked ++ f.mlRevoked).map fun b => BitVec.ofNat 8 (boolNat b)) ++
  [BitVec.ofNat 8 (i.edSlot.getD 4), BitVec.ofNat 8 (i.mlSlot.getD 4)]

/-- The provisioning record without the management key. -/
def Mgt.provBytes (m : Mgt) : List Byte := wordsBytes (m.prov :: m.provAddr)

def exactBytes (n : Nat) (bs : List Byte) : List Byte := (List.range n).map fun i => bs.getD i 0#8

/-- The signed region of the factory calibration block, bytes 0x0000 to 0x17FF (Table 17-12). -/
def CalBlock.region (b : CalBlock) : List Byte :=
  exactBytes 0x40 (wordsBytes [b.magic, b.format, b.count]) ++ exactBytes 32 b.edPub ++ exactBytes 1952 b.mlPub ++
  (List.range 256).flatMap fun i => let x := Tab.get b.items i default; wordsBytes [x.f, x.lo, x.hi, 0#32]

/-- The nine digests. Those of the ROM and of the factory image are not published (log 13). -/
def Mgt.measure (m : Mgt) (i : Image) : List (List Byte) :=
  [Config.freeBytes 300 0] ++ ((List.range 5).map fun k => i.digests.getD k (Config.freeBytes (301 + k) 0)) ++
  [Config.sha512 m.calBlock.region, Config.sha512 (fuseBytes m.fuses i), Config.sha512 m.provBytes]

/-! ## Identity (R441 to R443) -/

/-- HKDF-SHA-512 over the device secret with a label, for 32 bytes: extraction without a salt, one block of expansion (log 13). -/
def hkdf (secret label : List Byte) : List Byte :=
  exactBytes 32 (Config.hmacSha512 (Config.hmacSha512 (List.replicate 64 0#8) secret) (label ++ [1#8]))

/-- The labels of R442. -/
def deviceLabel (ml : Bool) : List Byte :=
  (if ml then "SQ4 DeviceID MLDSA65" else "SQ4 DeviceID Ed25519").toList.map fun c => BitVec.ofNat 8 c.toNat

/-- The DeviceID seed of an algorithm: the same at every boot (R442). -/
def Fuses.deviceSeed (f : Fuses) (ml : Bool) : List Byte := hkdf f.secret (deviceLabel ml)

/-- The digest of the measurements that the ROM takes: entries 0 to 2 and 7 (R443). -/
def romDigest (measured : List (List Byte)) : List Byte := Config.sha512 ([0, 1, 2, 7].flatMap fun i => measured.getD i [])

/-- The alias seed of an algorithm (R443). -/
def Fuses.aliasSeed (f : Fuses) (ml : Bool) (digest : List Byte) : List Byte := hkdf f.secret (deviceLabel ml ++ digest)

/-- The alias certificate of an algorithm, signed by the DeviceID key (R443). -/
def Fuses.aliasCert (f : Fuses) (ml : Bool) (digest : List Byte) : AliasCert :=
  let subject := Config.publicKey ml (f.aliasSeed ml digest)
  let issuer := Config.publicKey ml (f.deviceSeed ml)
  { digest := digest, subject := subject, issuer := issuer
    signature := Config.sign ml (f.deviceSeed ml) (Config.aliasTbs ml digest subject issuer) }

/-- Step 4 of Table 17-2: the ROM derives the alias keys, issues both alias certificates, and locks the device secret. -/
def Mgt.identify (m : Mgt) : Mgt :=
  if m.secretLocked then m
  else
    let d := romDigest m.measured
    { m with
      identity := some { edSeed := m.fuses.aliasSeed false d, mlSeed := m.fuses.aliasSeed true d
                         edCert := m.fuses.aliasCert false d, mlCert := m.fuses.aliasCert true d }
      secretLocked := true }

/-- A certificate chain of R441 below the root, manufacturing CA first. The bytes of the manufacturing CA's certificate are not
published (log 13). -/
def AliasCert.chain (c : AliasCert) (ml : Bool) : List Byte :=
  Config.freeBytes (308 + boolNat ml) 0 ++ Config.deviceCert ml c.issuer ++
  Config.certDer ml (Config.aliasTbs ml c.digest c.subject c.issuer) c.signature

/-- Both chains, Ed25519 first (log 13). -/
def Identity.chains (i : Identity) : List Byte := i.edCert.chain false ++ i.mlCert.chain true

/-! ## The end of a session (15 R398; 18 R467, R469) -/

/-- Records pending, with the one that Milpeost's last-resort path wrote. -/
def Flt.session (f : Flt) (us : Nat) : List (Nat × Rec) :=
  f.recs.filter (·.2.pending) ++
  (if f.lastResort then [(0x58, { pending := true, count := 1, sev := sevFatal, first := 0#32, time := lowWord us, last := 0#32 })] else [])

/-- A session is running whose records a reset keeps. -/
def State.inSession (s : State) : Bool := s.phase == .running || s.phase == .recovery || s.phase == .held || (s.phase == .dormant && s.pins.booted)

/-- Everything volatile is gone: what is left is in the non-volatile store, the fuses and the module itself. -/
def State.cleared (s : State) (log : List (Nat × Rec)) : State :=
  { s with
    parts := [], ifaces := [], ctxs := [], allocs := [], cmds := [], boards := [], keys := [], issued := 0
    shared := { scan := [], loads := [], drains := [], turns := [] }
    clk := { localUs := 0, refillMs := 0, status := 0#5, refDev := 0#32 }
    flt := { Flt.initial with prevLog := log }
    net := { Net.initial with seedLanes := s.net.seedLanes }
    pwr := { Pwr.initial with
      allowMax := s.pwr.allowMax, allow := (s.pwr.allowMax : Int) * 1000000, stress := s.pwr.stress, powered := s.pwr.powered
      saved := s.pwr.saved, cal := s.pwr.cal }
    mgt := { s.mgt with
      running := false, fallback := false, otherSvn := none, fwVer := 0#32, svn := 0, coefVer := 0#16, stage := 0#3, stageBytes := 0#32
      stageLen := 0, stageMem := [], authFail := 0#32, replay := 0#32, proxy := none, proxyKey := 0#32, mailbox := [], lastTag := none
      lastReply := [], produced := [], measured := [], identity := none, secretLocked := false }
    maint := { s.maint with held := [], waiting := [], laneWait := [], rowErrs := [], scrubAt := [], ecs := [] }
    pins := { s.pins with i3c := none } }

/-- The session ends: its pending records go to the previous-session log. -/
def State.endSession (s : State) : State := s.cleared (if s.inSession then s.flt.session s.clk.localUs else s.flt.prevLog)

/-- The input fails: Milpeost keeps only the records it had stored by then, which no rule names (18 R469, log 46). -/
def State.loseSession (s : State) : State :=
  (s.cleared (if s.inSession then
      ((s.flt.session s.clk.localUs).filter fun r => Config.freeBool 3 (s.fresh * 96 + r.1)) else s.flt.prevLog)).useFresh

/-! ## Boot (Table 17-2) -/

/-- A tile that fails its self-test is replaced by a seed tile of its die (15 R403; 05 R125). -/
def bootTile (s : State) (t : Nat) : State :=
  let s := s.detect (unitFault 0x0F t none)
  if 0 < Tab.get s.maint.seedTiles (t / 16) 0 then
    let s := s.modMaint fun m => { m with failing := m.failing.filter (· != t), dead := m.dead.filter (· != t)
                                          seedTiles := Tab.mod m.seedTiles (t / 16) 0 (· - 1), lanes := Tab.set m.lanes t 0 }
    (s.mapRepair repairTile t).detect (unitFault 0x08 t none)
  else
    (s.modMaint fun m => { m with failing := m.failing.filter (· != t), dead := addOnce t m.dead }).detect (unitFault 0x09 t none)

/-- The tiles that fail at boot: those in use whose generators fail the self-test (05 R125) and that no seed replaced yet, and
those that failed in the last session. -/
def State.testFails (s : State) : List Nat :=
  ((List.range 128).filter fun t => !s.maint.repair.contains (repairTile, t) && !s.maint.failing.contains t && !s.maint.dead.contains t &&
    !s.fit.selfTest t) ++
  s.maint.failing ++ s.maint.dead

/-- Step 7: the repair map, HBM training, DDR5 training with sPPR, the tile self-test. -/
def bootMemory (s : State) : State :=
  let s := s.modNet fun n => { n with links := n.links.map fun e => (e.1, { e.2 with seed := n.seedLanes.any fun x => x.2 == e.1 }) }
  let s := s.fit.badStacks.foldl (fun (s : State) k => s.detect (unitFault 0x26 k none)) s
  let absent := if s.fit.variant = .f then (List.range 8).filter fun c => (s.fit.sockets.getD c none).isSome && !s.fit.channels.any (·.1 == c)
    else []
  let s := absent.foldl (fun (s : State) c => s.detect (unitFault 0x3D c none)) s
  let soft := (List.range 8).filter fun c => s.fit.channels.any (·.1 == c) &&
    s.flt.prevLog.any fun r => r.1 == 0x28 + 2 * c || r.1 == 0x29 + 2 * c
  let s := soft.foldl (fun (s : State) c => s.detect (unitFault 0x3C c none)) s
  s.testFails.foldl bootTile s

/-- Step 8: the provisioning record and the saved user calibration. -/
def bootRecords (s : State) : State :=
  let p := s.mgt.prov
  let s := s.modNet fun n => { n with modCfg := p, moduleId := field p 13 0, idValid := bitAt p 31, fam6 := bitAt p 16 }
  let s := s.modPwr fun q => { q with user := q.saved }
  (s.pwr.saved.map (·.1)).foldl (fun (s : State) k => if s.pwr.clamped k then s.detect (unitFault 0x5E k none) else s) s

/-- The scrubs ask for their tokens. -/
def startScrubs (s : State) : State :=
  let s := s.requestToken (scrubToken 0)
  if s.ddrUp then s.requestToken (scrubToken 2) else s

/-- Step 9: Ready, with no partition. -/
def bootReady (s : State) : State :=
  let s := { s with phase := .running, pins := { s.pins with booted := true, resetWhileDormant := false, dormantByPin := false } }
  let s := { s.modPwr (fun p => { p with state := 1#3, idleSince := s.clk.localUs }) with clk := { s.clk with status := 31#5 } }
  let s := if s.pins.pwrbrkN then s else engageBrake s
  startScrubs s.trainAll

def State.stayIn (s : State) (ph : Phase) : State := { s with phase := ph, pwr := { s.pwr with state := 4#3 } }

/-- Steps 1 to 9. -/
def boot (s : State) : State :=
  if !s.mgt.fuses.parityOk then s.stayIn .fuseFault
  else
    let s := s.modMgt fun m => { m with bootCount := m.bootCount + 1 }
    let s := s.modNet fun n => { n with mgmtUp := true }
    match s.mgt.bootSlot with
    | none => s.stayIn .recovery
    | some b =>
      match s.mgt.slot b with
      | none => s.stayIn .recovery
      | some i =>
        let s := s.modMgt fun m => { m with running := b, fallback := b != m.pref, fwVer := i.fwVer, svn := i.svn, coefVer := i.coefVer,
                                            measured := m.measure i }
        let s := s.modMgt Mgt.identify
        let s := s.modMgt fun m => { m with otherSvn := m.otherNow }
        let s := s.modPwr fun p => { p with cal := s.mgt.calBlock.items }
        if !s.mgt.calBlock.accepted then s.stayIn .held
        else if !i.compsOk then s.stayIn .recovery
        else bootReady (bootRecords (bootMemory s))

/-- Boot begins once the rails are up, RESET_N is high and both references are within tolerance (18 R465). -/
def tryBoot (s : State) : State :=
  if s.phase = .inReset ∧ s.pins.pwrGood = true ∧ s.pins.resetN = true ∧ s.pins.refsOk = true then boot s else s

/-- The module is reset, and boots when nothing holds it (18 R467). -/
def resetModule (s : State) : State := tryBoot { s.endSession with phase := .inReset }

/-! ## Nap, Hold and Dormant (16 R415, R416) -/

/-- Every host port and fabric link is down; credits are gone, and flows wait for a path. -/
def portsIdle (s : State) : State :=
  s.modNet fun n => { n with
    links := n.links.map fun e => (e.1, e.2.idle)
    ports := n.ports.map fun e => (e.1, { e.2 with up := false, training := false, pausedSince := none, pfcIgnored := false, waits := [] })
    grants := [], wants := []
    flows := n.flows.map fun f => { f with stuck := some (f.stuck.getD s.clk.localUs), credits := 0 } }

/-- The scrubs release their tokens at a granule boundary. -/
def scrubsRelease (s : State) : State :=
  s.modMaint fun m => { m with held := m.held.filter (·.use != .scrub), waiting := m.waiting.filter (·.use != .scrub) }

/-- A power state below Doze is entered. -/
def enterLow (s : State) (code : BitVec 3) : State := (portsIdle (scrubsRelease s)).setPower code

/-- Every partition is gone, with no reply (16 R416; 12 R309). -/
def dropAll (s : State) : State :=
  let s := s.endProxy fun _ => true
  { s with
    parts := [], ifaces := [], ctxs := [], allocs := [], cmds := [], boards := [], keys := [], issued := 0
    shared := { scan := [], loads := [], drains := [], turns := [] }
    net := { s.net with qps := [], rates := [], flows := [], recvs := [], grants := [], wants := [] }
    maint := { s.maint with held := [], waiting := [], laneWait := [] } }

/-- Staging ends with Milpeost's power: its slot stays invalid (17 R451). -/
def stagingLost (s : State) : State :=
  if s.mgt.stage = 1#3 then s.modMgt fun m => { m with stage := 4#3, stageMem := [] } else s

/-- Dormant: the rails but the standby rail are off. -/
def enterDormant (s : State) (byPin : Bool) : State :=
  let s := stagingLost (enterLow (dropAll s) 5#3)
  let s := s.modNet fun n => { n with mgmtUp := false }
  { s with phase := .dormant, pins := { s.pins with pwrGood := false, dormantByPin := byPin, resetWhileDormant := false } }

/-- Ready again: from Nap, Hold or Dormant. Ports train, and the scrubs resume. -/
def exitLow (s : State) : State :=
  let was := s.pwr.state
  let s := { s with phase := .running, pins := { s.pins with pwrGood := true, dormantByPin := false } }
  let s := s.setPower 1#3
  let s := if was = 5#3 then s.modNet fun n => { n with mgmtTrainStart := s.clk.localUs } else s
  startScrubs s.trainAll

end Sys2Proof.Machine
end

