-- ==== Sys2Proof/Machine/Pins.lean ====
section
/-!
DEFINITION. Events on the pins and the input (spec 18 R458-R471; 16 R412, R416, R425, R429; 14 R387).
-/
namespace Sys2Proof.Machine

def State.modPins (s : State) (f : Pins → Pins) : State := { s with pins := f s.pins }

/-- The input fails below 36 V: everything volatile is lost (R469). -/
def loseInput (s : State) (mv : Nat) : State :=
  { s.loseSession with
    phase := .off
    pins := { s.pins with vin := mv, pwrGood := false, thermtrip := false, booted := false, refsOk := false, resetWhileDormant := false
                          dormantByPin := false, i3c := none } }

/-- INPUT_APPLIED: the standby rail comes up, in Dormant (R464); a change of voltage outside 40 V to 60 V is source 0x56 (R412). -/
def execInputApplied (millivolts : Nat) (s : State) : Answer :=
  let inRange := decide (40000 ≤ millivolts) && decide (millivolts ≤ 60000)
  if s.phase == .off then
    let s := s.modPins fun p => { p with vin := millivolts }
    .next (if inRange then { s with phase := .dormant, pwr := { s.pwr with state := 5#3 } } else s)
  else if millivolts < 36000 then .next (loseInput s millivolts)
  else
    let s := s.modPins fun p => { p with vin := millivolts }
    .next (if s.collectorUp && !inRange then (s.detect (unitFault 0x56 0 none)).noteSched else s)

/-- INPUT_LOSS: also what releases THERMTRIP_N (R468). -/
def execInputLoss (s : State) : Answer := if s.phase == .off then .next s else .next (loseInput s 0)

/-- The rails ramp; the module is held in reset until RESET_N and the references allow boot (R464 steps 5 to 7). -/
def rampRails (s : State) : State :=
  tryBoot { s.endSession with phase := .inReset, pins := { s.pins with pwrGood := true, booted := false, resetWhileDormant := false
                                                                       dormantByPin := false, i3c := none } }

/-- PWR_EN_ASSERT: leaves a Dormant that PWR_EN caused, or powers up (R466). A Dormant that was requested takes an I3C wake. -/
def execPwrEnAssert (s : State) : Answer :=
  let s := s.modPins fun p => { p with pwrEn := true }
  if s.phase == .dormant then
    if s.pins.booted then
      if s.pins.resetWhileDormant || !s.pins.resetN then .next (rampRails s)
      else if s.pins.dormantByPin then .next (exitLow s)
      else .next s
    else .next (rampRails s)
  else .next s

/-- PWR_EN_DEASSERT: before the end of boot it stops the sequence; later it destroys every partition and enters Dormant (R466;
16 R416). -/
def execPwrEnDeassert (s : State) : Answer :=
  let s := s.modPins fun p => { p with pwrEn := false }
  match s.phase with
  | .running => .next (enterDormant s true)
  | .inReset | .fuseFault | .recovery | .held =>
    let t := s.endSession
    .next { t with phase := .dormant, pwr := { t.pwr with state := 5#3 }, pins := { t.pins with pwrGood := false, booted := false } }
  | .off | .dormant | .tripped => .next s

/-- RESET_ASSERT: a pulse of RESET_N in tenths of a microsecond. Below 1 µs it has no effect; below 10 µs it may (R467, log 19). -/
def execResetAssert (tenthsUs : Nat) (s : State) : Answer :=
  if tenthsUs < 10 then .next s
  else if tenthsUs < 100 ∧ Config.freeBool 4 s.fresh = false then .next s.useFresh
  else
    let s := s.modPins fun p => { p with resetN := false }
    match s.phase with
    | .off | .tripped => .next s
    | .dormant => .next (s.modPins fun p => { p with resetWhileDormant := true })
    | .inReset | .fuseFault | .recovery | .held | .running =>
      .next { s.endSession with phase := .inReset, pins := { s.pins with booted := false, i3c := none } }

/-- RESET_RELEASE: boot starts once PWR_GOOD and the references are stable. -/
def execResetRelease (s : State) : Answer :=
  if s.phase == .tripped then .next s else .next (tryBoot (s.modPins fun p => { p with resetN := true }))

/-- REFERENCE_IN_TOLERANCE. -/
def execReferenceInTolerance (s : State) : Answer := .next (tryBoot (s.modPins fun p => { p with refsOk := true }))

/-- THERMTRIP: the core rails go off, and stay off until the input is removed (R468; 16 R425). -/
def execThermtrip (s : State) : Answer :=
  match s.phase with
  | .off | .tripped => .next s
  | .dormant | .inReset | .fuseFault | .recovery | .held | .running =>
    .next { s.endSession with phase := .tripped, pins := { s.pins with pwrGood := false, thermtrip := true, booted := false, i3c := none } }

/-- REF_DEV_UPDATE: every second from the release of reset. -/
def execRefDevUpdate (deviation : W32) (s : State) : Answer :=
  if s.phase == .running || s.phase == .recovery || s.phase == .held || s.phase == .fuseFault then
    .next { s with clk := { s.clk with refDev := deviation } }
  else .next s

/-- ENTDAA: the target takes its dynamic address where it answers (14 R387; 18 Tables 18-9, 18-10). -/
def execEntdaa (address : BitVec 7) (s : State) : Answer :=
  match s.phase with
  | .running | .recovery | .held | .dormant => .next (s.modPins fun p => { p with i3c := some address })
  | .off | .inReset | .fuseFault | .tripped => .next s

end Sys2Proof.Machine
end

