-- ==== Sys2Proof/Machine/Tenants.lean ====
section
/-!
DEFINITION. Partitions, interfaces and queue pairs as the management plane makes and ends them (spec 12 R306-R312; 14 R364,
R365; 15 R406; 07 R188; 17 R447).
-/
namespace Sys2Proof.Machine

/-! ## Partition descriptors (R306, R307) -/

/-- The fields of a descriptor, in the words of Table 12-1. -/
structure Descr where
  num : Nat
  role : Nat
  c0 : Nat
  n : Nat
  hbm : Nat
  ddr : Nat
  fabric : W32
  host : Nat
  slots : Nat
  foot : Nat
  quantum : Nat
  slice : Nat
  pin : Nat
  firstIf : Nat
deriving DecidableEq, Repr, Inhabited

def descrOf (ws : List W32) : Descr :=
  let w := fun (i : Nat) => ws.getD i 0#32
  { num := field (w 0) 4 0, role := field (w 0) 10 8, c0 := field (w 1) 4 0, n := field (w 1) 13 8, hbm := (w 2).toNat, ddr := (w 3).toNat,
    fabric := w 4, host := field (w 5) 3 0, slots := (w 6).toNat, foot := (w 7).toNat, quantum := (w 8).toNat, slice := (w 9).toNat,
    pin := (w 10).toNat, firstIf := field (w 11) 7 0 }

/-- Reserved fields are zero. -/
def descrReserved (ws : List W32) : Bool :=
  let w := fun (i : Nat) => ws.getD i 0#32
  w 0 &&& 0xFFFFF8E0#32 == 0#32 && w 1 &&& 0xFFFFC0E0#32 == 0#32 && w 5 &&& 0xFFFFFFF0#32 == 0#32 && w 11 &&& 0xFFFFFF00#32 == 0#32

def inRange (n lo hi : Nat) : Bool := decide (lo ≤ n) && decide (n ≤ hi)

/-- Fields within the ranges of Table 12-1. -/
def Descr.ranges (d : Descr) (s : State) : Bool :=
  decide (d.role ≤ 2) && inRange d.n 1 32 && inRange d.hbm 1 368 && decide (d.ddr ≤ s.fit.ddrGib) && decide (d.slots ≤ 16384) &&
  (d.foot == 0 || (d.foot % 4 == 0 && inRange d.foot 4 8192)) && (d.quantum == 0 || inRange d.quantum 100 100000) &&
  (d.slice == 0 || inRange d.slice 1000 1000000) && (d.role == roleGenerate || d.slots == 0) && d.host != 0

/-- Clovers that exist, belong to nobody and hold no tile that failed with no seed left (R307, R406). -/
def Descr.cloversFree (d : Descr) (s : State) : Bool :=
  decide (d.c0 + d.n ≤ 32) &&
  s.parts.all (fun p => decide (p.c0 + p.n ≤ d.c0) || decide (d.c0 + d.n ≤ p.c0)) &&
  s.maint.dead.all (fun t => decide (t / 4 < d.c0) || decide (d.c0 + d.n ≤ t / 4))

/-- Every rule but the fitting of units and room (R447). -/
def Descr.ok (d : Descr) (s : State) : Bool :=
  d.ranges s && d.cloversFree s && !s.parts.any (·.num == d.num) && !s.ifaces.any (·.num == d.firstIf) &&
  s.parts.all fun p => p.fabric &&& d.fabric == 0#32

/-- Every link and port it names is fitted. -/
def Descr.fitted (d : Descr) (s : State) : Bool :=
  decide (d.fabric.toNat < 2 ^ s.fit.links) && decide (d.host < 2 ^ s.fit.hostPorts)

/-- The slices, the quota, a channel that fails its check (16 R416), and the contexts of the module have room. -/
def Descr.room (d : Descr) (s : State) : Bool :=
  decide (sumBy (·.hbmGib) s.parts + d.hbm ≤ 368) && decide (sumBy (·.ddrGib) s.parts + d.ddr ≤ s.fit.ddrGib) &&
  decide (sumBy (·.slots) s.parts + d.slots ≤ 16384) && (d.ddr == 0 || !s.pwr.ddrCheckFailed) && decide (s.ctxs.length < 4096)

/-! ## New partitions and interfaces (R306, R310) -/

def Ckp.off (i : Nat) : Ckp :=
  { plan := [], ctxs := [], sets := [], reserve := 0, shardMib := 0, trigStep := 0, trigMs := 0, event := 0#32, iface := i, ctx := 0, shards := []
    nextSeq := 0#64, manifests := [], timerBase := 0, deferred := false, drain := none, taken := 0, completed := 0, failed := 0, skipped := 0
    stallUs := 0, deferrals := 0, lastFail := 0, lastSeq := 0#64, lastStep := 0#64, newest := none, peak := 0 }

def Part.new (d : Descr) : Part :=
  { num := d.num, role := d.role, c0 := d.c0, n := d.n, hbmGib := d.hbm, ddrGib := d.ddr, fabric := d.fabric, host := d.host, slots := d.slots
    foot := d.foot, quantum := if d.quantum = 0 then 2000 else d.quantum, slice := if d.slice = 0 then 10000 else d.slice
    pinLimit := if d.role = roleLearn then 0x3E8 else d.pin, firstIf := d.firstIf, fenced := false, degraded := false, dying := false, sems := [], step := 0#64
    gen := { cfg := none, reqs := [], owed := [], steps := 0, lastPinned := false }
    epo := { map := [], areas := [], bud := .free, budEpoch := 0#32, arrived := [], raw := [], load := none, grants := [], fwdEpoch := 0#32,
             serves := false, heldAt := 0 }
    rings := [], rules := [], colls := [], early := [], shut := [], reduced := [], updates := [], ckp := Ckp.off d.firstIf, switch := none, donation := none, callers := []
    served := false, switches := 0, switchUs := 0, rotations := 0, donations := 0, revokes := 0, waste := 0, idleEnergy := 0 }

def Acct.zero : Acct := { eng := [], bytes := [], energy := 0 }

/-- An interface as it is created: queue 0 with 256 units at unit 0 (11 R277), its registers at their reset values. -/
def Iface.new (num part ports prioMin slotCap : Nat) (window area : W32) : Iface :=
  { num := num, part := part, ports := ports, prioMin := prioMin, windowKey := window, qareaKey := area, qarea := []
    queues := [(0, Queue.new 0 8 0)], events := [], tokCfg := 0#32, tokRate := 0#32, tokDepth := 0#32, tokWeights := 0x01000100#32
    tokLevel := 0, newBudget := none, slotCap := slotCap, classL := 0x4000#32, cring := none, cringWr := 0#32
    cringRd := 0#32, skips := 0, pinDrops := 0, kvDiscard := 0, winDefault := 0x202#32, lateUses := 0, lateTokens := 0, stageWait := 0
    cnv := [], fmtGuard := 0xC#32, scaleFails := 0, lrnTokens := 0, lrnClipped := 0, lrnLagged := 0, lrnNonfinite := 0, lrnUpdated := 0
    ctxSel := 0#32, snapStatus := 0#32, snapTime := 0#32, snap := Acct.zero, acct := Acct.zero, vPend := 0#32, vAccess := 0#32
    vEvent := 0#32, vCe := [], vUe := [], vLast := 0#32, vLastDetail := 0#32, vLastTime := 0#32, expRecords := 0, expClosed := 0
    expEmpty := 0, expScanned := 0, publishes := 0, loadsIncomplete := 0, srcRefused := 0, served := 0 }

/-- Creates an interface and its initial context; none where the module lacks room. Answers its two remote keys. -/
def State.addIface (s : State) (p num ports prioMin slotCap : Nat) : Option (State × List W32) :=
  match s.part? p with
  | none => none
  | some q =>
    if 8 ≤ (s.partIfaces p).length ∨ s.hbmFree q < 2 * mib then none
    else
      let (k1, s) := s.issueKey
      let (k2, s) := s.issueKey
      let s := { s with ifaces := s.ifaces ++ [Iface.new num p ports prioMin slotCap k1 k2] }
      (s.addCtx q num 0 prioMin).map fun (_, s) => (s, [k1, k2])

/-- What a management command answers: the state, a status, the words of its body. -/
abbrev Served := State × Nat × List W32

def refuse (s : State) (st : Nat) : Served := (s, st, [])

/-- PART_CREATE. Hold keeps no memory, so no partition begins there (log 14). -/
def partCreate (ws : List W32) (s : State) : Served :=
  let d := descrOf ws
  if ws.length ≠ 12 ∨ descrReserved ws = false ∨ d.ok s = false ∨ s.pwr.state = 4#3 then refuse s stBAD_PACKET
  else if !d.fitted s then refuse s stUNSUPPORTED
  else if !d.room s then refuse s stNO_RESOURCE
  else
    match ({ s with parts := s.parts ++ [Part.new d] } : State).addIface d.num d.firstIf d.host 0 d.slots with
    | some (t, ks) => (t, stOK, ks)
    | none => refuse s stNO_RESOURCE

/-- IF_CREATE: number, partition, host ports, PRIO_MIN, SLOT_CAP. -/
def ifCreate (ws : List W32) (s : State) : Served :=
  let n := fun (i : Nat) => (ws.getD i 0#32).toNat
  match s.part? (n 1) with
  | none => refuse s stBAD_PACKET
  | some p =>
    let fitted := 2 ^ s.fit.hostPorts
    if ws.length ≠ 5 ∨ 256 ≤ n 0 ∨ (s.iface? (n 0)).isSome ∨ 16 ≤ n 2 ∨ 3 < n 3 ∨ 16384 < n 4 ∨
        (List.range 4).any (fun k => n 2 % fitted / 2 ^ k % 2 == 1 && p.host / 2 ^ k % 2 == 0) = true then refuse s stBAD_PACKET
    else if fitted ≤ n 2 then refuse s stUNSUPPORTED
    else match s.addIface p.num (n 0) (n 2) (n 3) (n 4) with
      | some (t, ks) => (t, stOK, ks)
      | none => refuse s stNO_RESOURCE

/-! ## The end of queue pairs, interfaces and partitions -/

/-- What a queue pair has outstanding fails (14 R365): a drain, reads that commands wait for. A reply is lost. -/
def failWork (s : State) (q : Qp) : State :=
  let s := s.modQp q.port q.num fun q => { q with work := [] }
  (q.work.foldl (fun (s : State) w => match w.work with
    | .reply _ => s
    | .drain p => s.drainBroken p failWrite
    | .read c tag => s.modCmd c fun k => { k with failedReads := addOnce tag k.failedReads }) s).drainNext

def dropQp (s : State) (q : Qp) : State :=
  (failWork s q).modNet fun n => { n with
    qps := n.qps.filter fun x => !(x.port == q.port && x.num == q.num), rates := n.rates.filter (·.key != .qp q.port q.num) }

/-- Owed completion entries of an interface are written while its ring has room. -/
def writeOwed (s : State) (i : Nat) : Nat → State
  | 0 => s
  | n + 1 => writeOwed (writeEntry s i) i n

/-- The commands of a list end: ATOMIC ones past their first write finish, the others are killed. In the safe state command
processors have stopped, and nothing is written (15 R397). -/
def endCmds (s : State) (cs : List CmdId) : State :=
  if s.flt.safe then
    let s := cs.foldl (fun (s : State) c => (s.dropItems c).leaveQueues c) s
    { s with cmds := s.cmds.filter fun c => !cs.contains c.id }
  else (finishAtomic s cs).killAll cs

/-- An interface is gone, with its queue pairs, its contexts and the grant of the proxy (R312; 17 R448). -/
def removeIface (s : State) (i : Nat) : State :=
  let s := (s.net.qps.filter (·.iface == i)).foldl dropQp s
  let s := ((s.ctxs.filter (·.iface == i)).map (·.id)).foldl State.dropCtx s
  let s := s.endProxy (· == i)
  { s with
    ifaces := s.ifaces.filter (·.num != i)
    allocs := modWhere (fun a => a.key.isSome && a.keyIface == i) (fun a => { a with key := none }) s.allocs
    parts := s.parts.map fun p => { p with gen := { p.gen with owed := p.gen.owed.filter (·.iface != i) } } }

/-- IF_DESTROY of an interface other than the serving interface (R312). -/
def ifDestroy (ws : List W32) (s : State) : Served :=
  match s.iface? (ws.getD 0 0#32).toNat with
  | none => refuse s stBAD_PACKET
  | some f =>
    match s.part? f.part with
    | none => refuse s stBAD_PACKET
    | some p =>
      if ws.length ≠ 1 ∨ (p.role ≠ roleLearn ∧ p.firstIf = f.num) then refuse s stBAD_PACKET
      else
        let s := endCmds s ((s.cmds.filter (·.id.iface == f.num)).map (·.id))
        let s := s.endReqs p.num endCancelled true (p.gen.reqs.filter (·.iface == f.num))
        let s := if s.flt.safe then s
          else writeOwed s f.num (((s.part? p.num).map fun q => q.gen.owed.countP (·.iface == f.num)).getD 0)
        ((removeIface s f.num).noteSched, stOK, [])

/-- Everything of a partition is gone (R309 steps 2 to 4). -/
def removePart (s : State) (n : Nat) : State :=
  let gone := (s.partIfaces n).map (·.num)
  let s := (s.net.qps.filter fun q => gone.contains q.iface).foldl dropQp s
  let s := s.endProxy gone.contains
  { s with
    parts := s.parts.filter (·.num != n), ifaces := s.ifaces.filter (·.part != n), ctxs := s.ctxs.filter (·.part != n)
    allocs := s.allocs.filter (·.part != n)
    net := { s.net with
      flows := s.net.flows.filter (·.id.part != n), recvs := s.net.recvs.filter (·.part != n)
      grants := s.net.grants.filter (·.part != n), wants := s.net.wants.filter (·.part != n) }
    maint := { s.maint with held := s.maint.held.filter (·.use != .drain n), waiting := s.maint.waiting.filter (·.use != .drain n) } }

/-- PART_DESTROY (R309). The links of a fenced partition may come up again. -/
def partDestroy (ws : List W32) (s : State) : Served :=
  match s.part? (ws.getD 0 0#32).toNat with
  | none => refuse s stBAD_PACKET
  | some p =>
    if ws.length ≠ 1 then refuse s stBAD_PACKET
    else
      let s := endCmds s ((s.partCmds p.num).map (·.id))
      let s := s.drainFails p.num failWrite
      let s := (removePart s p.num).settle.touch
      let s := if p.fenced then (List.range 32).foldl (fun (s : State) k => if p.ownsLink k then s.trainLink k else s) s else s
      (s.drainNext.noteSched, stOK, [])

/-! ## Budgets (07 R188) -/

/-- IF_BUDGET: interface, TOK_CFG, TOK_RATE, TOK_DEPTH, TOK_WEIGHTS, SLOT_CAP. -/
def ifBudget (ws : List W32) (s : State) : Served :=
  let w := fun (i : Nat) => ws.getD i 0#32
  if ws.length ≠ 6 ∨ (s.iface? (w 0).toNat).isNone ∨ 1 < (w 1).toNat ∨ 0x7FFFFFFF < (w 3).toNat ∨ 16384 < (w 5).toNat then
    refuse s stBAD_PACKET
  else (s.modIface (w 0).toNat fun f => { f with newBudget := some (w 1, w 2, w 3, w 4), slotCap := (w 5).toNat }, stOK, [])

/-! ## Queue pairs (14 R364, R365) -/

/-- A port that an interface may use, if it names one that is fitted. -/
def portUse (s : State) (i port : Nat) : Option Nat :=
  match s.iface? i with
  | none => some stBAD_PACKET
  | some f =>
    if 4 ≤ port then some stBAD_PACKET
    else if !s.portFitted port then some stUNSUPPORTED
    else if f.ports / 2 ^ port % 2 = 0 then some stBAD_PACKET
    else none

def Qp.new (port num i : Nat) : Qp :=
  { port := port, num := num, iface := i, remoteQpn := 0, remoteAddr := 0#128, mtu := 1024, sendPsn := 0, recvPsn := 0, timeout := 0, retry := 0
    retriesLeft := 0, ready := false, error := false, lastCnp := 0, work := [] }

/-- QP_CREATE: interface, host port, queue pair number. -/
def qpCreate (ws : List W32) (s : State) : Served :=
  let n := fun (i : Nat) => (ws.getD i 0#32).toNat
  if ws.length ≠ 3 ∨ 2 ^ 24 ≤ n 2 ∨ (s.qp? (n 1) (n 2)).isSome then refuse s stBAD_PACKET
  else match portUse s (n 0) (n 1) with
    | some st => refuse s st
    | none =>
      if 4096 ≤ s.net.qps.countP (·.port == n 1) ∨ 256 ≤ s.net.qps.countP (·.iface == n 0) then refuse s stNO_RESOURCE
      else (s.modNet fun x => { x with qps := x.qps ++ [Qp.new (n 1) (n 2) (n 0)] }, stOK, [])

/-- QP_CONNECT: host port, number, remote number, remote address (sixteen octets in network order, spec 00 R12), path MTU, starting
send and receive sequence numbers, acknowledgement timeout, retry count. -/
def qpConnect (ws : List W32) (s : State) : Served :=
  let n := fun (i : Nat) => (ws.getD i 0#32).toNat
  if ws.length ≠ 12 ∨ 4 ≤ n 0 ∨ 2 ^ 24 ≤ n 1 ∨ 2 ^ 24 ≤ n 2 ∨ !(n 7 == 1024 || n 7 == 2048 || n 7 == 4096) ∨ 2 ^ 24 ≤ n 8 ∨ 2 ^ 24 ≤ n 9 ∨
      32 ≤ n 10 ∨ 8 ≤ n 11 then refuse s stBAD_PACKET
  else if !s.portFitted (n 0) then refuse s stUNSUPPORTED
  else match s.qp? (n 0) (n 1) with
    | none => refuse s stBAD_PACKET
    | some q =>
      ((failWork s q).modQp (n 0) (n 1) fun q => { q with
        remoteQpn := n 2, remoteAddr := netAddr6 ws 3, mtu := n 7, sendPsn := n 8
        recvPsn := n 9, timeout := n 10, retry := n 11, retriesLeft := n 11, ready := true, error := false }, stOK, [])

/-- QP_DESTROY: host port, number. -/
def qpDestroy (ws : List W32) (s : State) : Served :=
  let port := (ws.getD 0 0#32).toNat
  if ws.length ≠ 2 ∨ 4 ≤ port ∨ 2 ^ 24 ≤ (ws.getD 1 0#32).toNat then refuse s stBAD_PACKET
  else if !s.portFitted port then refuse s stUNSUPPORTED
  else match s.qp? port (ws.getD 1 0#32).toNat with
    | none => refuse s stBAD_PACKET
    | some q => (dropQp s q, stOK, [])

end Sys2Proof.Machine
end

