-- ==== Sys2Proof/Machine/Plane.lean ====
section
/-!
DEFINITION. Management messages: paths, authentication, replies, and what each state of the module serves (spec 17 R440,
R444-R449; 16 R414; 18 Table 18-10).
-/
namespace Sys2Proof.Machine

/-! ## Messages (Table 17-3) -/

/-- A message without its MAC: the word at 0x04, TAG, COUNTER, BODY. -/
def mgmtWords (cmd : Nat) (tag : W32) (ctr : W64) (body : List W32) : List W32 :=
  [BitVec.ofNat 32 (1 + (0x40 + 4 * body.length) * 2 ^ 16), BitVec.ofNat 32 cmd, tag, 0#32, lowWord ctr.toNat, lowWord (ctr.toNat / 2 ^ 32),
    0#32, 0#32] ++ body

/-- The first 32 bytes of HMAC-SHA-512 of a message. -/
def macOf (key : List Byte) (ws : List W32) : List Byte :=
  let h := Config.hmacSha512 key (wordsBytes ws)
  (List.range 32).map fun i => h.getD i 0#8

def noMac : List Byte := List.replicate 32 0#8

/-- The MAC of a request verifies under the management key; with no key set, none does (R445). -/
def State.macOk (s : State) (cmd : Nat) (r : MgmtReq) : Bool :=
  match s.mgt.key with
  | some k => r.mac == macOf k (mgmtWords cmd r.tag r.counter r.body)
  | none => false

/-! ## Paths (R444, R446, R448, R449) -/

/-- A request on a path reaches Milpeost: the management port is up; the proxy has a grant and its host ports work; the I3C
target has its address. -/
def State.pathUp (s : State) : MgmtPath → Bool
  | .port => s.mgmtOn && s.net.mgmtUp
  | .proxy => s.mgt.proxy.isSome && s.windowUp
  | .i3c => s.pins.i3c.isSome && (s.mgmtOn || s.phase == .dormant)

/-- What recovery serves (R440). -/
def recoveryServes (cmd : Nat) : Bool := [0x0001, 0x0040, 0x0041, 0x0042, 0x0043, 0x0050, 0x0031].contains cmd

/-- What Dormant serves, over I3C only (R449). -/
def dormantServes (cmd : Nat) : Bool := [0x0001, 0x0050, 0x0030].contains cmd

/-! ## Replies -/

/-- A reply leaves on the path of its request, to the address and port it came from: over the proxy it is written at 0x800 of the mailbox, over I3C an in-band
interrupt says that it is ready. `ws` holds the message, `mac` its MAC. -/
def sendReply (s : State) (r : MgmtReq) (ws : List W32) (mac : List Byte) : State :=
  let w := fun (i : Nat) => ws.getD i 0#32
  let s := s.emit (.mgmt r.path r.src (field (w 1) 15 0) (field (w 1) 31 16) (w 2)
    (BitVec.ofNat 64 ((w 4).toNat + (w 5).toNat * 2 ^ 32)) (wordsBytes (ws.drop 8)) mac)
  match r.path with
  | .port => s
  | .proxy =>
    if s.mgt.proxy.isSome then s.modMgt fun m => { m with mailbox := Mem.putBytes m.mailbox zeroByte 0x800 (wordsBytes ws ++ mac) } else s
  | .i3c => s.emit (.ibi 0x03#8)

/-- The stored reply again: its message and its MAC, which is its last eight words. -/
def resendReply (s : State) (r : MgmtReq) : State :=
  let ws := s.mgt.lastReply
  sendReply s r (ws.take (ws.length - 8)) (wordsBytes (ws.drop (ws.length - 8)))

/-! ## Serving (R445 to R447) -/

/-- What serving a request needs: none where R445 exempts it, or where the counter and the MAC accept it. -/
inductive Admission where
  | free
  | accepted
  | again
  | badMac
  | stale
deriving DecidableEq, Repr, Inhabited

/-- R445. A retransmission is one of an accepted request, so its MAC verifies (DEDUCED, log 14). -/
def State.admission (s : State) (cmd : Nat) (auth : Bool) (r : MgmtReq) : Admission :=
  if !auth || r.path == .i3c then .free
  else if !s.macOk cmd r then .badMac
  else if s.mgt.ctr.toNat < r.counter.toNat then .accepted
  else if r.counter == s.mgt.ctr && s.mgt.lastTag == some r.tag then .again
  else .stale

/-- Runs a command and replies; the reply to an accepted request carries a MAC under the key of the request, and is kept. -/
def replyTo (s : State) (cmd : Nat) (keep : Bool) (r : MgmtReq) (f : State → Served) : State × Nat :=
  let key := s.mgt.key
  let s := if keep then s.modMgt fun m => { m with ctr := r.counter, lastTag := some r.tag } else s
  let (t, st, body) := if s.phase == .recovery && !recoveryServes cmd then refuse s stUNSUPPORTED else f s
  let ws := mgmtWords (cmd + st * 2 ^ 16) r.tag r.counter body
  let mac := if keep then macOf (key.getD []) ws else noMac
  let t := sendReply t r ws mac
  (if keep then t.modMgt fun m => { m with lastReply := ws ++ bytesWords 8 mac } else t, st)

/-- A request arrives on its path: discarded, answered again, or served. Answers the status of a command that ran. -/
def serveWith (cmd : Nat) (auth : Bool) (r : MgmtReq) (s : State) (f : State → Served) : State × Option Nat :=
  if !s.pathUp r.path || (s.phase == .dormant && !dormantServes cmd) then (s, none)
  else
    let s := s.wake
    match s.admission cmd auth r with
    | .free => let (t, st) := replyTo s cmd false r f; (t, some st)
    | .accepted => let (t, st) := replyTo s cmd true r f; (t, some st)
    | .again => (resendReply s r, none)
    | .badMac => (s.modMgt fun m => { m with authFail := satAdd32 m.authFail 1 }, none)
    | .stale => (s.modMgt fun m => { m with replay := satAdd32 m.replay 1 }, none)

def serve (cmd : Nat) (auth : Bool) (r : MgmtReq) (s : State) (f : State → Served) : State :=
  (serveWith cmd auth r s f).1.noteSched

end Sys2Proof.Machine
end

