-- ==== Sys2Proof/Machine/Management.lean ====
section
/-!
DEFINITION. The management commands (spec 17 Table 17-4, R443, R447-R453; 15 R398, R404, R405, R409; 16 R415, R416, R433; 14
R384). The layouts of their bodies are the model's where no rule gives them (log 14).
-/
namespace Sys2Proof.Machine

/-- A body with a word that is missing reads zero there; every command checks its length. -/
def bodyNat (ws : List W32) (i : Nat) : Nat := (ws.getD i 0#32).toNat

/-! ## Produced objects -/

/-- An object is produced: it stays readable until the next command of its CMD. The reply holds its length. -/
def produce (s : State) (cmd : Nat) (bs : List Byte) : Served :=
  (s.modMgt fun m => { m with produced := Tab.set m.produced cmd bs }, stOK, [BitVec.ofNat 32 bs.length])

/-- STATUS_GET: MGT.STATUS, MGT.SVN, MGT.FW_VER. -/
def statusGet (ws : List W32) (s : State) : Served :=
  if ws.isEmpty then (s, stOK, [s.mgtStatus, s.mgt.svnWord, s.mgt.fwVer]) else refuse s stBAD_PACKET

/-- The CMD of the object that a BULK_READ names. -/
def bulkObject (ws : List W32) : Nat := bodyNat ws 0

/-- Whether a BULK_READ needs what its producer needs: only the log does. -/
def bulkAuth (ws : List W32) : Bool := bulkObject ws == 0x0005

/-- BULK_READ: the CMD of the producer, a byte offset. Bytes past the object read zero. -/
def bulkRead (ws : List W32) (s : State) : Served :=
  match s.mgt.produced.find? (·.1 == bulkObject ws) with
  | some o => if ws.length = 2 then (s, stOK, bytesWords 256 (o.2.drop (bodyNat ws 1))) else refuse s stBAD_PACKET
  | none => refuse s stBAD_PACKET

/-- The identity object: the certificate chains of the identity that the ROM derived at boot. -/
def Mgt.identObject (m : Mgt) : List Byte := (m.identity.map Identity.chains).getD []

/-- IDENT_GET. -/
def identGet (ws : List W32) (s : State) : Served :=
  if ws.isEmpty then produce s 0x0003 s.mgt.identObject else refuse s stBAD_PACKET

/-- The measurements taken: a boot that stopped at step 5 has those of the ROM (Table 17-2). -/
def State.measuredSet (s : State) : List Nat := if s.phase = .held then [0, 1, 2, 7] else List.range 9

/-- Bytes 0 to 0x3F + 80n of the evidence, which both signatures cover (Table 17-5). TYPE has no values in the spec (log 13). -/
def State.evidenceBody (s : State) (nonce : List W32) : List Byte :=
  let is := s.measuredSet
  wordsBytes ([0x56455153#32, BitVec.ofNat 32 (1 + is.length * 256), s.capWord 0x202C, s.mgt.bootCount] ++ nonce ++
    [lowWord s.clk.localUs, lowWord (s.clk.localUs / 2 ^ 32), s.mgt.svnWord, s.mgtStatus]) ++
  is.flatMap fun i => wordsBytes [BitVec.ofNat 32 i, lowWord (Config.freeCount 311 i), 0#32, 0#32] ++ exactBytes 64 (s.mgt.measured.getD i [])

def State.evidence (s : State) (nonce : List W32) : List Byte :=
  let b := s.evidenceBody nonce
  let seed := fun (ml : Bool) => (s.mgt.identity.map fun i => if ml then i.mlSeed else i.edSeed).getD []
  b ++ exactBytes 64 (Config.sign false (seed false) b) ++ exactBytes 3309 (Config.sign true (seed true) b) ++ List.replicate 3 0#8

/-- EVIDENCE_GET: a nonce of 32 bytes. -/
def evidenceGet (ws : List W32) (s : State) : Served :=
  if ws.length = 8 then produce s 0x0004 (s.evidence ws) else refuse s stBAD_PACKET

/-- LOG_READ: five words a record: source, count with severity above it, first detail, time, last detail (log 14). -/
def logBytes (l : List (Nat × Rec)) : List Byte :=
  l.flatMap fun r => wordsBytes [BitVec.ofNat 32 r.1, packed [(0, r.2.count), (16, r.2.sev)], r.2.first, r.2.time, r.2.last]

def logRead (ws : List W32) (s : State) : Served :=
  if ws.isEmpty then produce s 0x0005 (logBytes s.flt.prevLog) else refuse s stBAD_PACKET

/-! ## Telemetry and registers -/

/-- Table 17-8. -/
def State.telemetry (s : State) : List W32 :=
  let p := s.pwr
  [lowWord s.clk.localUs, lowWord (s.clk.localUs / 2 ^ 32), s.powerWord, p.inMv, p.inputWord, p.allowWord, p.issueWord, p.temp, p.flow, p.wear,
    s.fltStatus, s.fltPend 0, s.fltPend 1, s.fltPend 2,
    packed ((List.range 32).map fun k => (k, boolNat (((s.link? k).map (·.up)).getD false))),
    packed ((List.range 4).map fun k => (k, boolNat (((s.port? k).map (·.up)).getD false)))]

def telemGet (ws : List W32) (s : State) : Served := if ws.isEmpty then (s, stOK, s.telemetry) else refuse s stBAD_PACKET

/-- A range of 1 to 64 words that starts at a multiple of 4 and takes no half of a 64-bit register (R453). -/
def rangeOk (wide : Nat → Bool) (off n : Nat) : Bool :=
  inRange n 1 64 && off % 4 == 0 && !(wide off && off % 8 == 4) && !(wide (off + 4 * n - 4) && (off + 4 * n - 4) % 8 == 0)

/-- A word of a control window: of a 64-bit register, its half. -/
def State.windowWord (s : State) (f : Iface) (off : Nat) : W32 :=
  if windowWide off then lowWord (s.wideReg f (off / 8 * 8) / 2 ^ (off % 8 * 8)) else s.windowReg f off

def mgmtSpace : Nat := 0xFFFFFFFF

/-- REG_READ: the space (0xFFFFFFFF, or an interface), an offset, a count. All words are read before any is cleared. -/
def regRead (ws : List W32) (s : State) : Served :=
  let off := bodyNat ws 1
  let n := bodyNat ws 2
  let offs := (List.range n).map fun i => off + 4 * i
  if ws.length ≠ 3 then refuse s stBAD_PACKET
  else if bodyNat ws 0 = mgmtSpace then
    if rangeOk mgmtWide off n && decide (off + 4 * n ≤ 2 ^ 32) then (offs.foldl mgmtAfterRead s, stOK, offs.map s.mgmtWord)
    else refuse s stBAD_PACKET
  else
    match s.iface? (bodyNat ws 0) with
    | some f =>
      if rangeOk windowWide off n && decide (off + 4 * n ≤ 0x10000) then
        (s.modIface f.num fun f => offs.foldl Iface.afterRead f, stOK, offs.map (s.windowWord f))
      else refuse s stBAD_PACKET
    | none => refuse s stBAD_PACKET

/-- Words written in order; a 64-bit register takes two. -/
def writeWords (s : State) (off : Nat) : List W32 → State
  | [] => s
  | [v] => mgmtSet s off v
  | v :: w :: r =>
    if mgmtWide off then writeWords (mgmtSetWide s off (BitVec.ofNat 64 (v.toNat + w.toNat * 2 ^ 32))) (off + 8) r
    else writeWords (mgmtSet s off v) (off + 4) (w :: r)

/-- REG_WRITE: an offset of the management space, then the words. -/
def regWrite (ws : List W32) (s : State) : Served :=
  let off := bodyNat ws 0
  let n := ws.length - 1
  if rangeOk mgmtWide off n && decide (off + 4 * n ≤ 2 ^ 32) then (writeWords s off (ws.drop 1), stOK, []) else refuse s stBAD_PACKET

/-! ## Power, reset, calibration, seed units -/

/-- R415. -/
def State.napRefused (s : State) : Bool :=
  !s.cmds.isEmpty || s.parts.any (·.ckp.drain.isSome) || s.maint.held.any (·.use != .scrub) ||
  s.parts.any fun p => p.gen.reqs.any (·.waiting)

/-- A request for Ready. From Dormant it is the I3C wake: it ends a Dormant that was requested, and after a reset in Dormant the
module boots (R449; 16 R416; 18 R466). -/
def requestReady (s : State) : Served :=
  if s.phase = .dormant then
    if !s.pins.booted || s.pins.dormantByPin || !s.pins.pwrEn then refuse s stBAD_PACKET
    else if s.pins.resetWhileDormant || !s.pins.resetN then (rampRails s, stOK, [])
    else (exitLow s, stOK, [])
  else if s.phase ≠ .running then refuse s stBAD_PACKET
  else if s.pwr.state.toNat ≤ 2 then (s, stOK, [])
  else (exitLow s, stOK, [])

def requestLow (s : State) (refused : Bool) (code : BitVec 3) : Served :=
  if s.pwr.state = code then (s, stOK, [])
  else if refused || s.phase != .running then refuse s stBAD_PACKET
  else if code = 5#3 then (enterDormant s false, stOK, [])
  else (enterLow s code, stOK, [])

/-- POWER_STATE: a code of Table 16-1. Run and Doze are no states that a request can name. -/
def powerState (ws : List W32) (s : State) : Served :=
  if ws.length ≠ 1 then refuse s stBAD_PACKET
  else
    match bodyNat ws 0 with
    | 1 => requestReady s
    | 3 => requestLow s s.napRefused 3#3
    | 4 => requestLow s (!s.parts.isEmpty) 4#3
    | 5 => requestLow s (!s.parts.isEmpty && s.pins.pwrEn) 5#3
    | _ => refuse s stBAD_PACKET

/-- RESET replies, and then resets (R467). -/
def resetRequest (ws : List W32) (s : State) : Served := if ws.isEmpty then (s, stOK, []) else refuse s stBAD_PACKET

/-- CAL_SAVE. -/
def calSave (ws : List W32) (s : State) : Served :=
  if !ws.isEmpty then refuse s stBAD_PACKET
  else if !s.maint.grantNow calToken then refuse s stBUSY_DEFERRED
  else (s.modPwr fun p => { p with saved := p.user }, stOK, [])

/-- An ordered swap begins when its token can be granted at once. -/
def orderSwap (s : State) (t : Token) : Served :=
  if s.maint.grantNow t then (takeToken s t, stOK, []) else refuse s stBUSY_DEFERRED

/-- SEED_SWAP: 0 a seed lane and the link it replaces, 1 a tile and a row, 2 a tile. -/
def seedSwap (ws : List W32) (s : State) : Served :=
  let u := bodyNat ws 1
  let t := bodyNat ws 2
  if ws.length ≠ 3 then refuse s stBAD_PACKET
  else
    match bodyNat ws 0 with
    | 0 =>
      if 2 ≤ u ∨ 32 ≤ t ∨ t / 16 ≠ u then refuse s stBAD_PACKET
      else if !s.linkFitted t then refuse s stUNSUPPORTED
      else if s.net.seedLanes.any (·.1 == u) then refuse s stNO_RESOURCE
      else orderSwap s (laneToken u t)
    | 1 => if 128 ≤ u then refuse s stBAD_PACKET else orderSwap s (rowToken u t)
    | 2 =>
      if 128 ≤ u then refuse s stBAD_PACKET
      else if Tab.get s.maint.seedTiles (u / 16) 0 = 0 then refuse s stNO_RESOURCE
      else if s.maint.grantNow (tileToken u) then
        (takeToken (s.modMaint fun m => { m with failing := addOnce u m.failing }) (tileToken u), stOK, [])
      else refuse s stBUSY_DEFERRED
    | _ => refuse s stBAD_PACKET

/-- PROXY_GRANT: interface, host port, VALID (R448). It names its interface and a port of it also when it clears the grant. -/
def proxyGrant (ws : List W32) (s : State) : Served :=
  let i := bodyNat ws 0
  let p := bodyNat ws 1
  let valid := bodyNat ws 2
  if ws.length ≠ 3 ∨ 1 < valid ∨ (valid = 1 ∧ s.partFenced (s.ifacePart i) = true) then refuse s stBAD_PACKET
  else
    match portUse s i p with
    | some st => refuse s st
    | none =>
      if valid = 0 then (s.modMgt fun m => { m with proxy := none, proxyKey := 0#32, mailbox := [] }, stOK, [])
      else
        let (k, s) := s.issueKey
        (s.modMgt fun m => { m with proxy := some (i, p), proxyKey := k, mailbox := [] }, stOK, [])

/-! ## Firmware (R451, R452) -/

/-- FW_STAGE_BEGIN: the image length. The other slot loses its MAGIC; a second BEGIN keeps the token. -/
def fwStageBegin (ws : List W32) (s : State) : Served :=
  if ws.length ≠ 2 then refuse s stBAD_PACKET
  else if !s.holds stagingToken && !s.maint.grantNow stagingToken then refuse s stBUSY_DEFERRED
  else
    let s := if s.holds stagingToken then s else takeToken s stagingToken
    (s.modMgt fun m => { m.setSlot (!m.running) none with
      otherSvn := none, stage := 1#3, stageBytes := 0#32, stageLen := bodyNat ws 0 + bodyNat ws 1 * 2 ^ 32, stageMem := [] }, stOK, [])

/-- FW_STAGE_DATA: an offset of two words, a length, the bytes. -/
def fwStageData (ws : List W32) (s : State) : Served :=
  let off := bodyNat ws 0 + bodyNat ws 1 * 2 ^ 32
  let n := bodyNat ws 2
  if ws.length ≠ 3 + (n + 3) / 4 ∨ 1024 < n ∨ s.mgt.stage ≠ 1#3 ∨ s.mgt.stageLen < off + n then refuse s stBAD_PACKET
  else
    (s.modMgt fun m => { m with
      stageMem := Mem.putBytes m.stageMem zeroByte off ((wordsBytes (ws.drop 3)).take n), stageBytes := satAdd32 m.stageBytes n }, stOK, [])

/-- The bytes of the slot being staged. -/
def Mgt.staged (m : Mgt) (off n : Nat) : List Byte := Mem.getBytes m.stageMem zeroByte off n
def Mgt.stagedNat (m : Mgt) (off n : Nat) : Nat := leNat (m.staged off n)

/-- A component entry of Table 17-1: TYPE, OFFSET, LENGTH, and whether its digest checks. -/
structure Component where
  type : Nat
  off : Nat
  len : Nat
  good : Bool
  digest : List Byte
deriving DecidableEq, Repr, Inhabited

def Mgt.component (m : Mgt) (i : Nat) : Component :=
  let b := 0x800 + 0x60 * i
  let off := m.stagedNat (b + 8) 8
  let len := m.stagedNat (b + 16) 8
  let d := m.staged (b + 32) 64
  let inside := decide (off + len ≤ m.stageLen)
  { type := m.stagedNat b 4, off := off, len := len, good := inside && Config.sha512 (if inside then m.staged off len else []) == d, digest := d }

/-- The fuse slot that a key matches. -/
def Fuses.slotOf (f : Fuses) (ml : Bool) (pub : List Byte) : Option Nat :=
  (List.range 4).find? fun k => (if ml then f.mlKeys else f.edKeys)[k]? == some (Config.sha512 pub)

/-- The form of Table 17-1. -/
def Mgt.stagedForm (m : Mgt) (cs : List Component) : Bool :=
  decide (0x2000 ≤ m.stageLen) && m.stagedNat 0 4 == 0x4D495153 && m.stagedNat 4 2 == 1 && decide (m.stagedNat 8 4 ≤ 64) &&
  m.stagedNat 0x10 8 == m.stageLen && inRange (m.stagedNat 0x18 4) 4 16 &&
  ((List.range 4).all fun t => cs.countP (·.type == t + 1) == 1) && cs.all fun c => c.off % 4096 == 0

/-- The image that was staged, checked against the fuses as they stand (R437); none without the form of Table 17-1. -/
def Mgt.stagedImage (m : Mgt) : Option Image :=
  let cs := (List.range (min (m.stagedNat 0x18 4) 16)).map m.component
  let of := fun (t : Nat) => cs.find? (·.type == t)
  let region := m.staged 0 0xE00
  let ed := m.staged 0x40 32
  let ml := m.staged 0x60 1952
  if m.stagedForm cs then
    some { svn := m.stagedNat 8 4, fwVer := lowWord (m.stagedNat 0xC 4), coefVer := BitVec.ofNat 16 (m.stagedNat 0x1C 2)
           revoke := BitVec.ofNat 8 (m.stagedNat 0x20 1), edSlot := m.fuses.slotOf false ed, mlSlot := m.fuses.slotOf true ml
           edOk := Config.edVerify ed region (m.staged 0xE00 64), mlOk := Config.mlVerify ml region (m.staged 0xE40 3309)
           fwOk := ((of 1).map (·.good)).getD false, compsOk := cs.all fun c => c.type == 1 || c.good
           digests := Config.sha512 region :: (List.range 4).map fun t => ((of (t + 1)).map (·.digest)).getD [] }
  else none

/-- FW_STAGE_END: MGT.STAGE ends in STAGED or FAILED, and the token is released. -/
def fwStageEnd (ws : List W32) (s : State) : Served :=
  if !ws.isEmpty || s.mgt.stage != 1#3 then refuse s stBAD_PACKET
  else
    let img := s.mgt.stagedImage
    let good := (img.map fun i => i.acceptable s.mgt.fuses && i.fwOk && i.compsOk).getD false
    let s := s.modMgt fun m => { m.setSlot (!m.running) img with stage := if good then 3#3 else 4#3, stageMem := [] }
    ((s.modMgt fun m => { m with otherSvn := m.otherNow }).releaseToken stagingToken, stOK, [])

/-- FW_ACTIVATE: the running slot, or another that is STAGED. A slot found acceptable at boot counts as staged (Table 17-6
step 5; DEDUCED, log 14). -/
def fwActivate (ws : List W32) (s : State) : Served :=
  let b := bodyNat ws 0 == 1
  let runs := !s.mgt.measured.isEmpty && b == s.mgt.running
  let staged := b != s.mgt.running && (s.mgt.stage == 3#3 || s.mgt.otherSvn.isSome)
  if ws.length ≠ 1 ∨ 1 < bodyNat ws 0 ∨ (runs || staged) = false then refuse s stBAD_PACKET
  else (s.modMgt fun m => { m with pref := b }, stOK, [])

/-- Fuses after FW_COMMIT of an image. -/
def Fuses.burn (f : Fuses) (i : Image) : Fuses :=
  let add := fun (l : List Bool) (base : Nat) => (List.range 4).map fun k => l.getD k false || decide (i.revoke.toNat / 2 ^ (base + k) % 2 = 1)
  { f with rollback := max f.rollback i.svn, edRevoked := add f.edRevoked 0, mlRevoked := add f.mlRevoked 4 }

/-- FW_COMMIT. -/
def fwCommit (ws : List W32) (s : State) : Served :=
  if !ws.isEmpty then refuse s stBAD_PACKET
  else
    match s.mgt.slot s.mgt.running with
    | none => refuse s stALREADY_DONE
    | some i =>
      let f := s.mgt.fuses.burn i
      if f.rollback = s.mgt.fuses.rollback ∧ f.edRevoked = s.mgt.fuses.edRevoked ∧ f.mlRevoked = s.mgt.fuses.mlRevoked then refuse s stALREADY_DONE
      else
        let s := s.modMgt fun m => { m with fuses := f }
        (s.modMgt fun m => { m with otherSvn := m.otherNow }, stOK, [])

/-! ## Key and provisioning -/

/-- MKEY_SET: 64 bytes. -/
def mkeySet (ws : List W32) (s : State) : Served :=
  if ws.length = 16 then (s.modMgt fun m => { m with key := some (wordsBytes ws) }, stOK, []) else refuse s stBAD_PACKET

/-- PROV_SET: the module identifier as NET.MOD_CFG, the IPv4 address, the IPv6 address, both as octets in network order (00
R12). -/
def provSet (ws : List W32) (s : State) : Served :=
  if ws.length ≠ 6 ∨ ws.getD 0 0#32 &&& 0x7FFEC000#32 ≠ 0#32 then refuse s stBAD_PACKET
  else ((modConfig s (ws.getD 0 0#32)).modMgt fun m => { m with provAddr := ws.drop 1 }, stOK, [])

/-! ## The rows -/

def execStatusGet (r : MgmtReq) (s : State) : Answer := .next (serve 0x0001 false r s (statusGet r.body))
def execBulkRead (r : MgmtReq) (s : State) : Answer := .next (serve 0x0002 (bulkAuth r.body) r s (bulkRead r.body))
def execIdentGet (r : MgmtReq) (s : State) : Answer := .next (serve 0x0003 false r s (identGet r.body))
def execEvidenceGet (r : MgmtReq) (s : State) : Answer := .next (serve 0x0004 false r s (evidenceGet r.body))
def execLogRead (r : MgmtReq) (s : State) : Answer := .next (serve 0x0005 true r s (logRead r.body))
def execTelemGet (r : MgmtReq) (s : State) : Answer := .next (serve 0x0006 true r s (telemGet r.body))
def execRegRead (r : MgmtReq) (s : State) : Answer := .next (serve 0x0010 true r s (regRead r.body))
def execRegWrite (r : MgmtReq) (s : State) : Answer := .next (serve 0x0011 true r s (regWrite r.body))
def execPartCreate (r : MgmtReq) (s : State) : Answer := .next (serve 0x0020 true r s (partCreate r.body))
def execPartDestroy (r : MgmtReq) (s : State) : Answer := .next (serve 0x0021 true r s (partDestroy r.body))
def execIfCreate (r : MgmtReq) (s : State) : Answer := .next (serve 0x0022 true r s (ifCreate r.body))
def execIfDestroy (r : MgmtReq) (s : State) : Answer := .next (serve 0x0023 true r s (ifDestroy r.body))
def execIfBudget (r : MgmtReq) (s : State) : Answer := .next (serve 0x0024 true r s (ifBudget r.body))
def execQpCreate (r : MgmtReq) (s : State) : Answer := .next (serve 0x0025 true r s (qpCreate r.body))
def execQpConnect (r : MgmtReq) (s : State) : Answer := .next (serve 0x0026 true r s (qpConnect r.body))
def execQpDestroy (r : MgmtReq) (s : State) : Answer := .next (serve 0x0027 true r s (qpDestroy r.body))
def execProxyGrant (r : MgmtReq) (s : State) : Answer := .next (serve 0x0028 true r s (proxyGrant r.body))
def execPowerState (r : MgmtReq) (s : State) : Answer := .next (serve 0x0030 true r s (powerState r.body))

/-- A served RESET resets the module. -/
def serveReset (r : MgmtReq) (s : State) : State :=
  let (t, st) := serveWith 0x0031 true r s (resetRequest r.body)
  if st = some stOK then resetModule t else t

def execReset (r : MgmtReq) (s : State) : Answer := .next (serveReset r s)
def execCalSave (r : MgmtReq) (s : State) : Answer := .next (serve 0x0032 true r s (calSave r.body))
def execSeedSwap (r : MgmtReq) (s : State) : Answer := .next (serve 0x0033 true r s (seedSwap r.body))
def execFwStageBegin (r : MgmtReq) (s : State) : Answer := .next (serve 0x0040 true r s (fwStageBegin r.body))
def execFwStageData (r : MgmtReq) (s : State) : Answer := .next (serve 0x0041 true r s (fwStageData r.body))
def execFwStageEnd (r : MgmtReq) (s : State) : Answer := .next (serve 0x0042 true r s (fwStageEnd r.body))
def execFwActivate (r : MgmtReq) (s : State) : Answer := .next (serve 0x0043 true r s (fwActivate r.body))
def execFwCommit (r : MgmtReq) (s : State) : Answer := .next (serve 0x0044 true r s (fwCommit r.body))
def execMkeySet (r : MgmtReq) (s : State) : Answer := .next (serve 0x0050 true r s (mkeySet r.body))
def execProvSet (r : MgmtReq) (s : State) : Answer := .next (serve 0x0051 true r s (provSet r.body))

/-! ## The proxy (R448) -/

/-- What a CMD runs, and whether it needs authentication. A reserved CMD completes with BAD_PACKET. -/
def mgmtBody (cmd : Nat) (ws : List W32) : Bool × (State → Served) :=
  match cmd with
  | 0x0001 => (false, statusGet ws)
  | 0x0002 => (bulkAuth ws, bulkRead ws)
  | 0x0003 => (false, identGet ws)
  | 0x0004 => (false, evidenceGet ws)
  | 0x0005 => (true, logRead ws)
  | 0x0006 => (true, telemGet ws)
  | 0x0010 => (true, regRead ws)
  | 0x0011 => (true, regWrite ws)
  | 0x0020 => (true, partCreate ws)
  | 0x0021 => (true, partDestroy ws)
  | 0x0022 => (true, ifCreate ws)
  | 0x0023 => (true, ifDestroy ws)
  | 0x0024 => (true, ifBudget ws)
  | 0x0025 => (true, qpCreate ws)
  | 0x0026 => (true, qpConnect ws)
  | 0x0027 => (true, qpDestroy ws)
  | 0x0028 => (true, proxyGrant ws)
  | 0x0030 => (true, powerState ws)
  | 0x0032 => (true, calSave ws)
  | 0x0033 => (true, seedSwap ws)
  | 0x0040 => (true, fwStageBegin ws)
  | 0x0041 => (true, fwStageData ws)
  | 0x0042 => (true, fwStageEnd ws)
  | 0x0043 => (true, fwActivate ws)
  | 0x0044 => (true, fwCommit ws)
  | 0x0050 => (true, mkeySet ws)
  | 0x0051 => (true, provSet ws)
  | _ => (true, fun s => refuse s stBAD_PACKET)

/-- A request by its CMD. -/
def mgmtRequest (s : State) (cmd : Nat) (r : MgmtReq) : State :=
  if cmd = 0x0031 then serveReset r s else serve cmd (mgmtBody cmd r.body).1 r s (mgmtBody cmd r.body).2

/-- The request in the mailbox, of a length that the doorbell word gives; none when it is no message of that length, version and
form: it is discarded (log 14). -/
def mailboxRequest (m : Mgt) (len : Nat) : Option (Nat × MgmtReq) :=
  let w := fun (i : Nat) => BitVec.ofNat 32 (leNat (Mem.getBytes m.mailbox zeroByte (4 * i) 4))
  if 0x40 ≤ len ∧ len ≤ 1472 ∧ len % 4 = 0 ∧ w 0 = BitVec.ofNat 32 (1 + len * 2 ^ 16) then
    some (field (w 1) 15 0, { path := .proxy, src := [], tag := w 2, counter := BitVec.ofNat 64 ((w 4).toNat + (w 5).toNat * 2 ^ 32)
                              mac := Mem.getBytes m.mailbox zeroByte (len - 32) 32, body := (List.range ((len - 0x40) / 4)).map fun i => w (8 + i) })
  else none

/-- The doorbell word of the mailbox is written. -/
def proxyDoorbell (s : State) (v : W32) : State :=
  match s.mgt.proxy, mailboxRequest s.mgt v.toNat with
  | some _, some (cmd, r) => mgmtRequest s cmd r
  | _, _ => s

/-- PROXY_DOORBELL: its key works only on the host ports of the interface that has the grant. -/
def execProxyDoorbell (value : W32) (s : State) : Answer :=
  if s.windowUp && s.mgt.proxy.isSome then .next (proxyDoorbell (s.modMgt fun m => { m with mailbox := Mem.putBytes m.mailbox zeroByte 0xFFC (wordBytes value) }) value)
  else .next s

end Sys2Proof.Machine
end

