-- ==== Sys2Proof/Machine/HostPorts.lean ====
section
/-!
DEFINITION. The host ports as RoCEv2 responders and requesters (spec 14 R363-R367; 11 R277-R280, R293, R303; 00 R13; 17 R448;
06 R166).
-/
namespace Sys2Proof.Machine

/-! ## What a key names (11 R293; 14 R364) -/

/-- The region a remote key gives a queue pair of an interface access to. -/
inductive Region where
  | window (i : Nat)
  | qarea (i : Nat)
  | mailbox
  | alloc (part : Nat) (h : W32) (size : Nat)
deriving DecidableEq, Repr, Inhabited

/-- A key grants access only through queue pairs of the interface to which it belongs. -/
def State.region? (s : State) (f : Iface) (port : Nat) (key : W32) : Option Region :=
  if key = 0#32 then none
  else if key = f.windowKey then some (.window f.num)
  else if key = f.qareaKey then some (.qarea f.num)
  else if s.mgt.proxy = some (f.num, port) ∧ key = s.mgt.proxyKey then some .mailbox
  else
    (s.allocs.find? fun a => a.part == f.part && a.key == some key && a.keyIface == f.num).map fun a => .alloc a.part a.handle a.size

def Region.size : Region → Nat
  | .window _ => 0x10000
  | .qarea _ => 2 * mib
  | .mailbox => 4 * kib
  | .alloc _ _ n => n

/-- A request arrives at a connected queue pair of a host port that is up. -/
def State.responder? (s : State) (port qpn : Nat) : Option (Qp × Iface) :=
  if s.windowUp && ((s.port? port).map (·.up)).getD false then
    match s.qp? port qpn with
    | some q => if q.ready && !q.error then (s.iface? q.iface).map fun f => (q, f) else none
    | none => none
  else none

/-! ## Notifications (R367) -/

/-- A packet marked Congestion Experienced is answered with a CNP, at most once per 50 µs for each queue pair. -/
def noteCongestion (s : State) (q : Qp) (ce : Bool) : State :=
  if ce && (q.lastCnp == 0 || decide (q.lastCnp + 50 ≤ s.clk.localUs)) then
    ((s.modQp q.port q.num fun q => { q with lastCnp := max 1 s.clk.localUs }).modNet fun n => { n with cnpTx := sat64 (n.cnpTx + 1) }).sendRoce
      q .cnp
  else s

/-! ## RDMA WRITE -/

/-- A host write of an exposed allocation stores fresh check bits and leaves statistics (06 R166; 11 R478). -/
def hostWrite (s : State) (p : Nat) (h : W32) (off : Nat) (bs : List Byte) : State :=
  let st := (s.contents p h).map fun a : Alloc => a.stats
  (s.writeBuffer p h off bs).modContents p h fun a => { a with stats := st.getD a.stats }

/-- A write of the mailbox; one that covers the doorbell word rings it (17 R448). -/
def mailboxWrite (s : State) (off : Nat) (bs : List Byte) : State :=
  let s := s.modMgt fun m => { m with mailbox := Mem.putBytes m.mailbox zeroByte off bs }
  if off ≤ 0xFFC ∧ 0x1000 ≤ off + bs.length then proxyDoorbell s (BitVec.ofNat 32 (leNat (Mem.getBytes s.mgt.mailbox zeroByte 0xFFC 4)))
  else s

def regionWrite (s : State) (r : Region) (off : Nat) (bs : List Byte) : State :=
  match r with
  | .window i => windowWrite s i off bs.length (BitVec.ofNat 64 (leNat (bs.take 8)))
  | .qarea i => s.modIface i fun f => { f with qarea := Mem.putBytes f.qarea zeroByte off bs }
  | .mailbox => mailboxWrite s off bs
  | .alloc p h _ => hostWrite s p h off bs

/-- The receive sequence number moves past a request. -/
def State.received (s : State) (q : Qp) (len : Nat) : State :=
  s.modQp q.port q.num fun q => { q with recvPsn := (q.recvPsn + q.packets len) % 2 ^ 24 }

/-- ROCE_RDMA_WRITE: acknowledged, or a remote access error at the requester. -/
def roceWrite (s : State) (port : Nat) (r : RdmaWrite) : State :=
  match s.responder? port r.qpn with
  | none => s
  | some (q, f) =>
    let s := noteCongestion s.wake q r.ce
    match (s.region? f port r.rkey).filter fun x => decide (r.offset + r.data.length ≤ x.size) with
    | some x => ((regionWrite s x r.offset r.data).received q r.data.length).sendRoce q .ack
    | none => s.sendRoce q .nak

def execRoceRdmaWrite (port : Nat) (r : RdmaWrite) (s : State) : Answer :=
  if decide (port < 4) then .next (roceWrite s port r).noteSched else .fault .noSuchUnit

/-! ## RDMA READ -/

/-- The bytes of an allocation; what a host reads of an uncorrectable location is open (log 47). -/
def hostRead (s : State) (p : Nat) (h : W32) (off n : Nat) : State × List Byte :=
  match s.contents p h with
  | none => (s, List.replicate n 0#8)
  | some a =>
    let us := unitsHit a a.uncorr off (off + n)
    let bs := a.bytes off n
    if us.isEmpty then (s, bs)
    else
      let unit := checkUnit a.home
      let free := Config.freeBytes 320 s.fresh
      (s.useFresh, ((List.range n).zip bs).map fun (i, b) => if us.contains ((off + i) / unit) then free.getD i 0#8 else b)

def regionRead (s : State) (r : Region) (off n : Nat) : State × List Byte :=
  match r with
  | .window i =>
    match s.iface? i with
    | some f => let (t, v) := windowRead s f off n; (t, leBytes n v.toNat)
    | none => (s, [])
  | .qarea i => (s, ((s.iface? i).map fun f => Mem.getBytes f.qarea zeroByte off n).getD [])
  | .mailbox => (s, Mem.getBytes s.mgt.mailbox zeroByte off n)
  | .alloc p h _ => hostRead s p h off n

/-- ROCE_RDMA_READ: the data leaves under the rate of the queue pair. -/
def roceRead (s : State) (port : Nat) (r : RdmaRead) : State :=
  match s.responder? port r.qpn with
  | none => s
  | some (q, f) =>
    let s := noteCongestion s.wake q r.ce
    match (s.region? f port r.rkey).filter fun x => decide (r.offset + r.len ≤ x.size) with
    | some x =>
      let (t, bs) := regionRead s x r.offset r.len
      ((t.received q r.len).noteSend (.qp port r.qpn)).sendRoce q (.data bs)
    | none => s.sendRoce q .nak

def execRoceRdmaRead (port : Nat) (r : RdmaRead) (s : State) : Answer :=
  if decide (port < 4) then .next (roceRead s port r).noteSched else .fault .noSuchUnit

/-! ## The module as a requester -/

/-- ROCE_CNP_RECEIVE: the rate of the queue pair falls (Table 14-2). -/
def execRoceCnpReceive (port qpn : Nat) (s : State) : Answer :=
  if !decide (port < 4) then .fault .noSuchUnit
  else if (s.responder? port qpn).isSome then .next (lowerRate s.wake (.qp port qpn))
  else .next s

/-- The answer to the oldest request of a queue pair: a reply or a drain's write is acknowledged, a read brings its bytes. -/
def roceResponse (s : State) (port qpn : Nat) (bs : List Byte) (ce : Bool) : State :=
  match s.responder? port qpn with
  | none => s
  | some (q, _) =>
    match q.work with
    | [] => s
    | w :: rest =>
      let u := noteCongestion s.wake q ce
      let done := fun (s : State) => s.modQp port qpn fun q => { q with work := rest, retriesLeft := q.retry }
      match w.work with
      | .reply _ => done u
      | .drain n => drainAckOn u n q
      | .read c tag =>
        if bs.length = w.len then (done u).modCmd c fun k => { k with reads := k.reads.filter (·.1 != tag) ++ [(tag, bs)] } else s

def execRoceResponseReceive (port qpn : Nat) (r : RdmaResponse) (s : State) : Answer :=
  if decide (port < 4) then .next (roceResponse s port qpn r.data r.ce).noteSched else .fault .noSuchUnit

/-- A queue pair enters the error state, source 0x43: what it had outstanding fails, and it stays there until it is reconnected
(R365). Its record names the host port (log 47). -/
def qpFails (s : State) (q : Qp) : State :=
  let s := (failWork s q).modQp q.port q.num fun q => { q with error := true }
  s.detect { source := 0x43, inst := q.port, part := (s.iface? q.iface).map (·.part), info := 0, cmd := none }

/-- A queue pair that may run: connected, not in the error state, and its ports work. -/
def State.liveQp? (s : State) (port qpn : Nat) : Option Qp :=
  if s.windowUp then (s.qp? port qpn).filter fun q => q.ready && !q.error else none

/-- QP_ERROR. -/
def execQpError (port qpn : Nat) (s : State) : Answer :=
  if !decide (port < 4) then .fault .noSuchUnit
  else match s.liveQp? port qpn with
    | some q => .next (qpFails s.wake q).noteSched
    | none => .next s

/-- The sequence number of the oldest request that is outstanding. -/
def Qp.firstPsn (q : Qp) : Nat := (q.sendPsn + 2 ^ 24 - (q.work.foldl (fun n w => n + q.packets w.len) 0) % 2 ^ 24) % 2 ^ 24

/-- Everything outstanding on a queue pair is sent again, with the sequence numbers it had. -/
def resendWork (s : State) (q : Qp) : State :=
  (q.work.foldl (fun (x : State × Nat) w =>
    ((x.1.noteSend (.qp q.port q.num)).sendRoce { q with sendPsn := x.2 } (.request w), (x.2 + q.packets w.len) % 2 ^ 24)) (s, q.firstPsn)).1

/-- ACKNOWLEDGEMENT_TIMEOUT: the requests are sent again until the retry count is spent (R364, R365). -/
def execAcknowledgementTimeout (port qpn : Nat) (s : State) : Answer :=
  if !decide (port < 4) then .fault .noSuchUnit
  else match s.liveQp? port qpn with
    | none => .next s
    | some q =>
      if q.work.isEmpty then .next s
      else if q.retriesLeft = 0 then .next (qpFails s.wake q).noteSched
      else .next (resendWork (s.wake.modQp port qpn fun q => { q with retriesLeft := q.retriesLeft - 1 }) q)

end Sys2Proof.Machine
end

