-- ==== Sys2Proof/Machine/Dispatch.lean ====
section
/-!
DEFINITION. One arm per command: the direct call of its meaning.
-/
namespace Sys2Proof.Machine

def exec (i : Instr) (s : State) : Host.Outcome State Fault Refusal :=
  match i with
  | .ctlNop c => Sys2Proof.Machine.execCtlNop c s
  | .queCreate c => Sys2Proof.Machine.execQueCreate c s
  | .queDestroy c => Sys2Proof.Machine.execQueDestroy c s
  | .ctlKill c => Sys2Proof.Machine.execCtlKill c s
  | .memAlloc c => Sys2Proof.Machine.execMemAlloc c s
  | .memFree c => Sys2Proof.Machine.execMemFree c s
  | .memPlace c => Sys2Proof.Machine.execMemPlace c s
  | .layerPlan c => Sys2Proof.Machine.execLayerPlan c s
  | .memStats c => Sys2Proof.Machine.execMemStats c s
  | .memExpose c => Sys2Proof.Machine.execMemExpose c s
  | .memUnexpose c => Sys2Proof.Machine.execMemUnexpose c s
  | .matmul c => Sys2Proof.Machine.execMatmul c s
  | .vecEwise c => Sys2Proof.Machine.execVecEwise c s
  | .sfuEval c => Sys2Proof.Machine.execSfuEval c s
  | .rowSoftmax c => Sys2Proof.Machine.execRowSoftmax c s
  | .rowNorm c => Sys2Proof.Machine.execRowNorm c s
  | .lossGather c => Sys2Proof.Machine.execLossGather c s
  | .lossClip c => Sys2Proof.Machine.execLossClip c s
  | .lossReduce c => Sys2Proof.Machine.execLossReduce c s
  | .scaleLoad c => Sys2Proof.Machine.execScaleLoad c s
  | .tableLoad c => Sys2Proof.Machine.execTableLoad c s
  | .genConfig c => Sys2Proof.Machine.execGenConfig c s
  | .genAdmit c => Sys2Proof.Machine.execGenAdmit c s
  | .genStep c => Sys2Proof.Machine.execGenStep c s
  | .genCancel c => Sys2Proof.Machine.execGenCancel c s
  | .genPrefill c => Sys2Proof.Machine.execGenPrefill c s
  | .genComplRing c => Sys2Proof.Machine.execGenComplRing c s
  | .kvBlockReceive part b => Sys2Proof.Machine.execKvBlockReceive part b s
  | .prefillFinalMessage part m => Sys2Proof.Machine.execPrefillFinalMessage part m s
  | .kvDeadlineExpiry part slot => Sys2Proof.Machine.execKvDeadlineExpiry part slot s
  | .pinDrop part => Sys2Proof.Machine.execPinDrop part s
  | .budgetRefill => Sys2Proof.Machine.execBudgetRefill s
  | .completionEntryWrite iface => Sys2Proof.Machine.execCompletionEntryWrite iface s
  | .learnPlan c => Sys2Proof.Machine.execLearnPlan c s
  | .learnStep c => Sys2Proof.Machine.execLearnStep c s
  | .gradReduce c => Sys2Proof.Machine.execGradReduce c s
  | .ruleLoad c => Sys2Proof.Machine.execRuleLoad c s
  | .ruleApply c => Sys2Proof.Machine.execRuleApply c s
  | .paramGather c => Sys2Proof.Machine.execParamGather c s
  | .maskSet c => Sys2Proof.Machine.execMaskSet c s
  | .epoMap c => Sys2Proof.Machine.execEpoMap c s
  | .epoGrant c => Sys2Proof.Machine.execEpoGrant c s
  | .budLoad c => Sys2Proof.Machine.execBudLoad c s
  | .budAreaAcquire part => Sys2Proof.Machine.execBudAreaAcquire part s
  | .budDeadlineExpiry part => Sys2Proof.Machine.execBudDeadlineExpiry part s
  | .budPublish c => Sys2Proof.Machine.execBudPublish c s
  | .prefillSwitch part => Sys2Proof.Machine.execPrefillSwitch part s
  | .budDiscard c => Sys2Proof.Machine.execBudDiscard c s
  | .pieceRequestReceive part r => Sys2Proof.Machine.execPieceRequestReceive part r s
  | .pieceArrival part p => Sys2Proof.Machine.execPieceArrival part p s
  | .pieceRetry part => Sys2Proof.Machine.execPieceRetry part s
  | .pieceRequestTimeout part => Sys2Proof.Machine.execPieceRequestTimeout part s
  | .transposeBlock part handle block => Sys2Proof.Machine.execTransposeBlock part handle block s
  | .stagingFetchComplete ctx => Sys2Proof.Machine.execStagingFetchComplete ctx s
  | .weightDeadline c index => Sys2Proof.Machine.execWeightDeadline c index s
  | .expRingCreate c => Sys2Proof.Machine.execExpRingCreate c s
  | .expClassSet c => Sys2Proof.Machine.execExpClassSet c s
  | .expScore c => Sys2Proof.Machine.execExpScore c s
  | .expGather c => Sys2Proof.Machine.execExpGather c s
  | .expRingDestroy c => Sys2Proof.Machine.execExpRingDestroy c s
  | .evtSet c => Sys2Proof.Machine.execEvtSet c s
  | .evtWait c => Sys2Proof.Machine.execEvtWait c s
  | .semInit c => Sys2Proof.Machine.execSemInit c s
  | .semAcquire c => Sys2Proof.Machine.execSemAcquire c s
  | .semRelease c => Sys2Proof.Machine.execSemRelease c s
  | .ckpConfig c => Sys2Proof.Machine.execCkpConfig c s
  | .ckpStep c => Sys2Proof.Machine.execCkpStep c s
  | .ckpTimerExpiry part => Sys2Proof.Machine.execCkpTimerExpiry part s
  | .drainWriteAck part => Sys2Proof.Machine.execDrainWriteAck part s
  | .ckpRestore c => Sys2Proof.Machine.execCkpRestore c s
  | .ckpStatus c => Sys2Proof.Machine.execCkpStatus c s
  | .rngSet c => Sys2Proof.Machine.execRngSet c s
  | .rngFill c => Sys2Proof.Machine.execRngFill c s
  | .rngStateGet c => Sys2Proof.Machine.execRngStateGet c s
  | .rngStatePut c => Sys2Proof.Machine.execRngStatePut c s
  | .tableRefill ctx tile => Sys2Proof.Machine.execTableRefill ctx tile s
  | .ctxCreate c => Sys2Proof.Machine.execCtxCreate c s
  | .ctxDestroy c => Sys2Proof.Machine.execCtxDestroy c s
  | .ctxPriority c => Sys2Proof.Machine.execCtxPriority c s
  | .ctxState c => Sys2Proof.Machine.execCtxState c s
  | .doorbellWrite iface queue tail => Sys2Proof.Machine.execDoorbellWrite iface queue tail s
  | .packetFetch iface queue => Sys2Proof.Machine.execPacketFetch iface queue s
  | .commandDispatch c => Sys2Proof.Machine.execCommandDispatch c s
  | .commandCompletion part => Sys2Proof.Machine.execCommandCompletion part s
  | .commandTimeout c => Sys2Proof.Machine.execCommandTimeout c s
  | .replyHeadWrite iface queue value => Sys2Proof.Machine.execReplyHeadWrite iface queue value s
  | .replyRingConfig iface queue value => Sys2Proof.Machine.execReplyRingConfig iface queue value s
  | .cringRdWrite iface value => Sys2Proof.Machine.execCringRdWrite iface value s
  | .ctxSelWrite iface value => Sys2Proof.Machine.execCtxSelWrite iface value s
  | .rcCounterRead space offset width => Sys2Proof.Machine.execRcCounterRead space offset width s
  | .viewPendClear iface value => Sys2Proof.Machine.execViewPendClear iface value s
  | .registerWrite space offset width value => Sys2Proof.Machine.execRegisterWrite space offset width value s
  | .contextSwitch part => Sys2Proof.Machine.execContextSwitch part s
  | .switchComplete part => Sys2Proof.Machine.execSwitchComplete part s
  | .rotation part => Sys2Proof.Machine.execRotation part s
  | .donationBegin part => Sys2Proof.Machine.execDonationBegin part s
  | .donationEnd part => Sys2Proof.Machine.execDonationEnd part s
  | .donationQuantumExpiry part => Sys2Proof.Machine.execDonationQuantumExpiry part s
  | .collPacketReceive part m => Sys2Proof.Machine.execCollPacketReceive part m s
  | .benzelDataReceive link p => Sys2Proof.Machine.execBenzelDataReceive link p s
  | .benzelAckReceive link p => Sys2Proof.Machine.execBenzelAckReceive link p s
  | .benzelNakReceive link p => Sys2Proof.Machine.execBenzelNakReceive link p s
  | .benzelCreditReceive link p => Sys2Proof.Machine.execBenzelCreditReceive link p s
  | .benzelCnpReceive link p => Sys2Proof.Machine.execBenzelCnpReceive link p s
  | .benzelAbortReceive link p => Sys2Proof.Machine.execBenzelAbortReceive link p s
  | .ackTimerExpiry f => Sys2Proof.Machine.execAckTimerExpiry f s
  | .rtoExpiry f => Sys2Proof.Machine.execRtoExpiry f s
  | .pathRetry f => Sys2Proof.Machine.execPathRetry f s
  | .creditReturnTimer f => Sys2Proof.Machine.execCreditReturnTimer f s
  | .ratePeriod k => Sys2Proof.Machine.execRatePeriod k s
  | .roceRdmaWrite port r => Sys2Proof.Machine.execRoceRdmaWrite port r s
  | .roceRdmaRead port r => Sys2Proof.Machine.execRoceRdmaRead port r s
  | .roceCnpReceive port qpn => Sys2Proof.Machine.execRoceCnpReceive port qpn s
  | .roceResponseReceive port qpn r => Sys2Proof.Machine.execRoceResponseReceive port qpn r s
  | .qpError port qpn => Sys2Proof.Machine.execQpError port qpn s
  | .pfcFrameReceive port prio pause => Sys2Proof.Machine.execPfcFrameReceive port prio pause s
  | .pfcWatchdog port => Sys2Proof.Machine.execPfcWatchdog port s
  | .arpRequest port target => Sys2Proof.Machine.execArpRequest port target s
  | .neighbourSolicitation port target => Sys2Proof.Machine.execNeighbourSolicitation port target s
  | .echoRequest port target v6 ident => Sys2Proof.Machine.execEchoRequest port target v6 ident s
  | .nextHopRefresh link => Sys2Proof.Machine.execNextHopRefresh link s
  | .frameDiscard port badFcs => Sys2Proof.Machine.execFrameDiscard port badFcs s
  | .linkUp port => Sys2Proof.Machine.execLinkUp port s
  | .linkDown port => Sys2Proof.Machine.execLinkDown port s
  | .trainingRestart port => Sys2Proof.Machine.execTrainingRestart port s
  | .lpiEntry link => Sys2Proof.Machine.execLpiEntry link s
  | .seedLaneSwap lane link => Sys2Proof.Machine.execSeedLaneSwap lane link s
  | .faultDetect d => Sys2Proof.Machine.execFaultDetect d s
  | .collectorSelfFault => Sys2Proof.Machine.execCollectorSelfFault s
  | .recordClear source value => Sys2Proof.Machine.execRecordClear source value s
  | .severityWrite source value => Sys2Proof.Machine.execSeverityWrite source value s
  | .injectionArm value => Sys2Proof.Machine.execInjectionArm value s
  | .tokenGrant cls => Sys2Proof.Machine.execTokenGrant cls s
  | .scrubYield cls => Sys2Proof.Machine.execScrubYield cls s
  | .hbmScrub handle granule => Sys2Proof.Machine.execHbmScrub handle granule s
  | .ddr5PatrolScrub handle granule => Sys2Proof.Machine.execDdr5PatrolScrub handle granule s
  | .hbmRowRepair stack => Sys2Proof.Machine.execHbmRowRepair stack s
  | .serdesRetune port => Sys2Proof.Machine.execSerdesRetune port s
  | .seedTileSwap tile => Sys2Proof.Machine.execSeedTileSwap tile s
  | .seedRowSwap tile row => Sys2Proof.Machine.execSeedRowSwap tile row s
  | .vectorLaneReplace tile lane => Sys2Proof.Machine.execVectorLaneReplace tile lane s
  | .sensorRecalibration => Sys2Proof.Machine.execSensorRecalibration s
  | .randomTableRekey die => Sys2Proof.Machine.execRandomTableRekey die s
  | .dozeEntry => Sys2Proof.Machine.execDozeEntry s
  | .powerWindow milliwatts => Sys2Proof.Machine.execPowerWindow milliwatts s
  | .pwrbrkAssert => Sys2Proof.Machine.execPwrbrkAssert s
  | .pwrbrkDeassert => Sys2Proof.Machine.execPwrbrkDeassert s
  | .thermalLoop r => Sys2Proof.Machine.execThermalLoop r s
  | .thermalGuard hottest => Sys2Proof.Machine.execThermalGuard hottest s
  | .thermtrip => Sys2Proof.Machine.execThermtrip s
  | .coolantRead inlet flow => Sys2Proof.Machine.execCoolantRead inlet flow s
  | .rdimmTempRead channel temp => Sys2Proof.Machine.execRdimmTempRead channel temp s
  | .wearSample hottest => Sys2Proof.Machine.execWearSample hottest s
  | .wearUpdate => Sys2Proof.Machine.execWearUpdate s
  | .energyRecalibration idle ctx => Sys2Proof.Machine.execEnergyRecalibration idle ctx s
  | .calUserWrite value => Sys2Proof.Machine.execCalUserWrite value s
  | .inputApplied millivolts => Sys2Proof.Machine.execInputApplied millivolts s
  | .inputLoss => Sys2Proof.Machine.execInputLoss s
  | .pwrEnAssert => Sys2Proof.Machine.execPwrEnAssert s
  | .pwrEnDeassert => Sys2Proof.Machine.execPwrEnDeassert s
  | .resetAssert tenthsUs => Sys2Proof.Machine.execResetAssert tenthsUs s
  | .resetRelease => Sys2Proof.Machine.execResetRelease s
  | .proxyDoorbell value => Sys2Proof.Machine.execProxyDoorbell value s
  | .statusGet r => Sys2Proof.Machine.execStatusGet r s
  | .bulkRead r => Sys2Proof.Machine.execBulkRead r s
  | .identGet r => Sys2Proof.Machine.execIdentGet r s
  | .evidenceGet r => Sys2Proof.Machine.execEvidenceGet r s
  | .logRead r => Sys2Proof.Machine.execLogRead r s
  | .telemGet r => Sys2Proof.Machine.execTelemGet r s
  | .regRead r => Sys2Proof.Machine.execRegRead r s
  | .regWrite r => Sys2Proof.Machine.execRegWrite r s
  | .partCreate r => Sys2Proof.Machine.execPartCreate r s
  | .partDestroy r => Sys2Proof.Machine.execPartDestroy r s
  | .ifCreate r => Sys2Proof.Machine.execIfCreate r s
  | .ifDestroy r => Sys2Proof.Machine.execIfDestroy r s
  | .ifBudget r => Sys2Proof.Machine.execIfBudget r s
  | .qpCreate r => Sys2Proof.Machine.execQpCreate r s
  | .qpConnect r => Sys2Proof.Machine.execQpConnect r s
  | .qpDestroy r => Sys2Proof.Machine.execQpDestroy r s
  | .proxyGrant r => Sys2Proof.Machine.execProxyGrant r s
  | .powerState r => Sys2Proof.Machine.execPowerState r s
  | .reset r => Sys2Proof.Machine.execReset r s
  | .calSave r => Sys2Proof.Machine.execCalSave r s
  | .seedSwap r => Sys2Proof.Machine.execSeedSwap r s
  | .fwStageBegin r => Sys2Proof.Machine.execFwStageBegin r s
  | .fwStageData r => Sys2Proof.Machine.execFwStageData r s
  | .fwStageEnd r => Sys2Proof.Machine.execFwStageEnd r s
  | .fwActivate r => Sys2Proof.Machine.execFwActivate r s
  | .fwCommit r => Sys2Proof.Machine.execFwCommit r s
  | .mkeySet r => Sys2Proof.Machine.execMkeySet r s
  | .provSet r => Sys2Proof.Machine.execProvSet r s
  | .thermalGuardRelease hottest => Sys2Proof.Machine.execThermalGuardRelease hottest s
  | .referenceInTolerance => Sys2Proof.Machine.execReferenceInTolerance s
  | .refDevUpdate deviation => Sys2Proof.Machine.execRefDevUpdate deviation s
  | .entdaa address => Sys2Proof.Machine.execEntdaa address s
  | .nextHopResolved link mac => Sys2Proof.Machine.execNextHopResolved link mac s
  | .pfcIgnoredEnd port => Sys2Proof.Machine.execPfcIgnoredEnd port s
  | .acknowledgementTimeout port qpn => Sys2Proof.Machine.execAcknowledgementTimeout port qpn s
  | .tileMemoryScrub tile => Sys2Proof.Machine.execTileMemoryScrub tile s

end Sys2Proof.Machine
end

