-- ==== Sys2Proof/Machine/Tick.lean ====
section
/-!
DEFINITION. What an advance of the local clock does (spec 16 R430, R424; 11 R299).
-/
namespace Sys2Proof.Machine

/-- The local clock runs from the start of boot in every power state (R430). -/
def State.clockRuns (s : State) : Bool :=
  match s.phase with
  | .off => false
  | .inReset => false
  | .tripped => false
  | _ => true

/-- One microsecond. The commands whose timeouts have expired in the microsecond that ends complete first, and the
scheduler has noted which contexts are blocked or runnable. At a millisecond boundary a thermal fraction below 16/16 counts (PWR.THERM_MS, R424). -/
def tick (s : State) : State :=
  if s.clockRuns then
    let s := (lapse s).noteSched
    let us := s.clk.localUs + 1
    let s := { s with clk := { s.clk with localUs := us % 2 ^ 64 } }
    if us % 1000 = 0 ∧ s.pwr.thermFrac < 16 then s.modPwr fun p => { p with thermMs := satAdd32 p.thermMs 1 } else s
  else s

end Sys2Proof.Machine
end

