-- ==== Sys2Proof/Safety.lean ====
section
/-!
DEFINITION. What counts as a safe run, in the terms the statements use: a command that runs, memory without read errors,
the latched thermal trip, the safe state.
-/
namespace Sys2Proof.Machine

/-! ## A command that runs -/

/-- Command `id` of opcode `op` is dispatched in an awake module, its partition's role accepts the opcode, and none of its
work is on a tile that failed or is failing: `k` is the command, `e` what it works on. -/
structure Runs (s : State) (op : Nat) (id : CmdId) (k : Cmd) (e : Env) : Prop where
  awake : s.awake = true
  env : s.env? op id = some (k, e)
  role : roleAccepts e.part.role op = true
  seeded : s.maint.dead.any (fun t => e.part.ownsTile t && k.usesTile e.fw e.part t) = false
  sound : s.maint.failing.any (fun t => e.part.ownsTile t && k.usesTile e.fw e.part t) = false

/-- No unit of memory of the module reads with an error, in an allocation, its shadow or a copy of a weight. -/
def State.clean (s : State) : Prop :=
  (∀ a ∈ s.allocs, a.corr = [] ∧ a.uncorr = [] ∧ ∀ d, a.shadow = some d → d.uncorr = []) ∧
  ∀ p ∈ s.parts, ∀ r ∈ p.epo.areas, (∀ us ∈ r.corrs, us = []) ∧ (∀ us ∈ r.uncorrs, us = []) ∧
    ∀ d, some d ∈ r.shadows → d.uncorr = []

/-- The partition of a command drains no checkpoint, so its writes need no reserve page. -/
def State.undrained (s : State) (c : CmdId) : Prop := (s.part? (s.cmdPart c)).bind (·.ckp.drain) = none

/-- Every field of a packet that a list of checks names obeys its rule (spec 11 R287). -/
def fieldsOk (cs : List Check) : Prop := firstBad cs = none

/-- What MEM_ALLOC asks for: SIZE, FLAGS, FMT, RANK, DIM0 to DIM3, AFFINITY (spec 06 R481). -/
def allocAsked (c : Cmd) : AllocReq :=
  { size := c.d 0, flags := BitVec.ofNat 16 (c.n 1), fmt := BitVec.ofNat 8 (c.n 2), rank := c.n 3, dims := allocDims c,
    affinity := c.n 8 }

/-- What a command that writes outputs answers, its elements served where `at_` says: each output encoded, SCALE_RANGE where
a guarded one trips, and the generators when an output drew (spec 03 R81 to R83, 05 R122). -/
def outsAt (s : State) (c : Cmd) (e : Env) (at_ : Nat → Nat → Spot) (outs : List OutSpec) (r : Result) : Result :=
  let w := encodeOuts c e at_ outs (s.drawer e)
  let drew := (outs.any (·.ref.stoch)) && !((e.first.ctx.map (·.det)).getD false)
  outputsResult c w.1 (if drew then some w.2.gens else none) r

/-- The same of an element-wise command. -/
def outsResult (s : State) (c : Cmd) (e : Env) (outs : List OutSpec) (r : Result) : Result := outsAt s c e (c.spot e) outs r

/-- The same of a row command whose rows have `per` elements in each output: a row stays on one tile (spec 04 R90). -/
def rowsResult (s : State) (c : Cmd) (e : Env) (per : Nat → Nat) (outs : List OutSpec) (r : Result) : Result :=
  outsAt s c e (c.rowSpot e per) outs r

/-- What an ATOMIC command that wrote in place leaves for its commit: the statistics of its outputs, and no element (spec 11
R297). -/
def inPlace (w : Result) : Result :=
  { w with status := stOK, detail := 0#32, writes := w.writes.map fun x => { x with elems := [], scales := [] }, always := true }

/-- The plan that LEARN_PLAN gives: its entries, its command list, POOL and M_MAX (spec 09 R225). -/
def planAsked (c : Cmd) (e : Env) (ps : List PlanEntry) : LearnPlan :=
  { entries := ps, commands := ((e.firstAlloc? (c.a 1).handle).map fun a => a.bytes (c.a 1).off (c.a 1).count).getD []
    pool := c.w 2, mMax := c.n 3, histories := [] }

/-- The reduction that a collective leaves for RULE_APPLY (spec 09 R240). -/
def Coll.reduction (x : Coll) : Reduced :=
  { buffer := x.buffer, q := x.q, vote := x.vote, rank := x.rank, o := x.o, entries := x.entries, blocks := x.blocks }

/-- The records an owner writes: none where the rank owns no block (spec 14 R382). -/
def Coll.ownWrites (x : Coll) : List TWrite :=
  if x.rank < x.o then
    [rawWrite x.buffer 0 ((x.keys x.rank).flatMap fun (n, b) => recordBytes x.vote (blockAt (x.partial_ x.rank) n b))]
  else []

/-- The result of the first command after a revocation: the lowest revoked semaphore is named (spec 11 R302). -/
def revokedResult (ms : List Nat) : Result :=
  { Result.bare stSEM_REVOKED with index := BitVec.ofNat 32 (lowest ms) }

/-- The transposed blocks that the last commit of a partition has queued become its job (spec 02 R48). -/
def State.takeJobs (s : State) (p : Nat) : State := s.numberJobs p (s.openAllocs p)

/-! ## A scrubbed tile -/

/-- What lies in a tile or in its die's commons has no corrected location left (spec 06 R168). -/
def State.tileScrubbed (s : State) (tile : Nat) : State := s.writeBack (onTileMemory s tile)

/-! ## A seed tile -/

/-- A seed tile has taken the place of a tile of its die (spec 15 R404). -/
def Maint.seeded (m : Maint) (tile : Nat) : Maint :=
  { m with failing := m.failing.filter (· != tile), seedTiles := Tab.mod m.seedTiles (tile / 16) 0 (· - 1), lanes := Tab.set m.lanes tile 0 }

/-- A lane's replacement waits no longer; the tile has one more lane replaced (spec 02 R30). -/
def Maint.laneIdle (m : Maint) (tile lane : Nat) : Maint := { m with laneWait := m.laneWait.filter (· != (tile, lane)) }
def Maint.laneOut (m : Maint) (tile : Nat) : Maint := { m with lanes := Tab.mod m.lanes tile 0 (· + 1) }

/-! ## A Benzel packet that a partition receives (spec 14 R372) -/

/-- The link that received a frame is awake. -/
def State.heard (s : State) (k : Nat) : State :=
  s.wake.modLink k fun l => { l with asleep := false, lastFrame := s.wake.clk.localUs }

/-- A packet that arrives on a link that is up, is not discarded, and has the right CRC-32C. -/
structure Heard (s : State) (k : Nat) (p : BzPacket) (l : Link) : Prop where
  up : s.windowUp = true
  number : k < 32
  link : s.link? k = some l
  linkUp : l.up = true
  kept : (s.heard k).bzDropped k l p = false
  crc : bzCrcOk p = true

/-- The flow that a packet names, as its receiver does. -/
def bzRecv (p : BzPacket) : RecvId := { srcModule := (bzSrc p).module_, srcPart := (bzSrc p).part, flow := bzFlow p }

/-! ## A management request that is served (spec 17 R445 to R447) -/

/-- A request takes part in authentication. -/
def authenticated (auth : Bool) (r : MgmtReq) : Bool := auth && r.path != .i3c

/-- A request on a working path, of a command that the module's phase serves, that needs no authentication or is accepted by
its counter and MAC. -/
structure Admitted (s : State) (cmd : Nat) (auth : Bool) (r : MgmtReq) : Prop where
  path : s.pathUp r.path = true
  dormant : s.phase = .dormant → dormantServes cmd = true
  recovery : s.phase = .recovery → recoveryServes cmd = true
  mac : authenticated auth r = true → s.macOk cmd r = true
  counter : authenticated auth r = true → s.mgt.ctr.toNat < r.counter.toNat

/-- The state on which the command of an admitted request runs: the module is awake, and the counter and tag of an
authenticated request are noted. -/
def State.noted (s : State) (auth : Bool) (r : MgmtReq) : State :=
  if authenticated auth r then s.wake.modMgt fun m => { m with ctr := r.counter, lastTag := some r.tag } else s.wake

/-- State `t` with the reply to a request sent; the reply to an authenticated one carries a MAC under the key of the request and
is kept. -/
def State.answered (s t : State) (cmd : Nat) (auth : Bool) (r : MgmtReq) (st : Nat) (body : List W32) : State :=
  let ws := mgmtWords (cmd + st * 2 ^ 16) r.tag r.counter body
  let mac := if authenticated auth r then macOf (s.mgt.key.getD []) ws else noMac
  let u := sendReply t r ws mac
  if authenticated auth r then u.modMgt fun m => { m with lastReply := ws ++ bytesWords 8 mac } else u

/-- A request served with OK: state `t` with the reply, and the waiting times of the contexts noted. -/
def State.doneOk (s t : State) (cmd : Nat) (auth : Bool) (r : MgmtReq) (body : List W32) : Answer :=
  .next (s.answered t cmd auth r stOK body).noteSched

/-- An object of a command's reply is kept for BULK_READ (spec 17 R447). -/
def State.produced (s : State) (cmd : Nat) (bs : List Byte) : State :=
  s.modMgt fun m => { m with produced := Tab.set m.produced cmd bs }

/-- The host's mailbox with a word at its doorbell (spec 17 R448). -/
def State.rung (s : State) (v : W32) : State :=
  s.modMgt fun m => { m with mailbox := Mem.putBytes m.mailbox zeroByte 0xFFC (wordBytes v) }

/-- The registers that a partition's descriptor gives its first interface, and its initial context (spec 12 R306). -/
def State.withPart (s : State) (d : Descr) : State := { s with parts := s.parts ++ [Part.new d] }

/-- The slot that stages is opened: its MAGIC is erased (spec 17 R451). -/
def Mgt.opened (m : Mgt) (len : Nat) : Mgt :=
  { m.setSlot (!m.running) none with otherSvn := none, stage := 1#3, stageBytes := 0#32, stageLen := len, stageMem := [] }

/-- The staged image takes its slot (spec 17 R451). -/
def Mgt.closed (m : Mgt) (img : Option Image) (good : Bool) : Mgt :=
  { m.setSlot (!m.running) img with stage := if good then 3#3 else 4#3, stageMem := [] }

/-- Fuses burned, and OTHER_VALID as they now stand (spec 17 R452). -/
def Mgt.burned (m : Mgt) (f : Fuses) : Mgt := { m with fuses := f }
def Mgt.judged (m : Mgt) : Mgt := { m with otherSvn := m.otherNow }

/-- A queue pair connected (spec 14 R364). -/
def Qp.connected (q : Qp) (ws : List W32) : Qp :=
  let n := bodyNat ws
  { q with
    remoteQpn := n 2, remoteAddr := netAddr6 ws 3, mtu := n 7, sendPsn := n 8
    recvPsn := n 9, timeout := n 10, retry := n 11, retriesLeft := n 11, ready := true, error := false }

/-- A budget that takes effect at the next millisecond, and a slot cap (spec 07 R188). -/
def Iface.budgeted (f : Iface) (b : W32 × W32 × W32 × W32) (cap : Nat) : Iface := { f with newBudget := some b, slotCap := cap }

/-- A grant of the proxy. -/
def Mgt.granted (m : Mgt) (g : Option (Nat × Nat)) (k : W32) : Mgt := { m with proxy := g, proxyKey := k, mailbox := [] }

/-! ## Idle steps -/

/-- n steps of a machine. -/
def steps : Nat → State → Host.Outcome State Fault Refusal
  | 0, s => .next s
  | n + 1, s =>
    match step s with
    | .next t => steps n t
    | o => o

/-- The state with its local clock at another time. -/
def State.atTime (s : State) (us : Nat) : State := { s with clk := { s.clk with localUs := us } }

/-! ## The latched thermal trip (spec 18 R468) -/

/-- The module has tripped: its rails are off, THERMTRIP is driven, and no context is left. -/
def State.tripHeld (s : State) : Prop :=
  s.phase = .tripped ∧ s.pins.thermtrip = true ∧ s.pins.pwrGood = false ∧ s.ctxs = []

/-- The commands that take the input power away. -/
def endsTrip : Instr → Bool
  | .inputLoss => true
  | .inputApplied mv => decide (mv < 36000)
  | _ => false

/-- The commands that can end a session, and with it the safe state: resets, power, the trip, and the management requests for a
reset or a power state (spec 15 R398; 18 R466 to R469). -/
def endsSession : Instr → Bool
  | .resetAssert _ => true
  | .resetRelease => true
  | .referenceInTolerance => true
  | .pwrEnAssert => true
  | .pwrEnDeassert => true
  | .thermtrip => true
  | .inputLoss => true
  | .inputApplied _ => true
  | .reset _ => true
  | .powerState _ => true
  | _ => false

/-- The other management requests, which destroy partitions and interfaces in the safe state too (spec 17 Table 17-4). -/
def managed : Instr → Bool
  | .statusGet _ => true
  | .bulkRead _ => true
  | .identGet _ => true
  | .evidenceGet _ => true
  | .logRead _ => true
  | .telemGet _ => true
  | .regRead _ => true
  | .regWrite _ => true
  | .partCreate _ => true
  | .partDestroy _ => true
  | .ifCreate _ => true
  | .ifDestroy _ => true
  | .ifBudget _ => true
  | .qpCreate _ => true
  | .qpConnect _ => true
  | .qpDestroy _ => true
  | .proxyGrant _ => true
  | .calSave _ => true
  | .seedSwap _ => true
  | .fwStageBegin _ => true
  | .fwStageData _ => true
  | .fwStageEnd _ => true
  | .fwActivate _ => true
  | .fwCommit _ => true
  | .mkeySet _ => true
  | .provSet _ => true
  | _ => false

/-- Everything but the queue, the pins, the power block and the phase is as it was. -/
def State.sameWork (s t : State) : Prop :=
  t.fit = s.fit ∧ t.clk = s.clk ∧ t.flt = s.flt ∧ t.net = s.net ∧ t.mgt = s.mgt ∧ t.maint = s.maint ∧ t.parts = s.parts ∧
  t.ifaces = s.ifaces ∧ t.ctxs = s.ctxs ∧ t.allocs = s.allocs ∧ t.cmds = s.cmds ∧ t.boards = s.boards ∧ t.shared = s.shared ∧
  t.keys = s.keys ∧ t.issued = s.issued ∧ t.out = s.out

end Sys2Proof.Machine
end

