-- ==== Sys2Proof/Certificates/Slice0/Obligations.lean ====
section
/-!
DEFINITION. The statements for the provers. An opcode's own effect is what its row does when it has nothing left to wait
for: the command becomes ready with its result; COMMAND_COMPLETION applies that result (log 1). A command with work items
is stated at the state its items leave, in which all of them have run.
-/
open Sys2Proof Sys2Proof.Machine

/-! ## Opcode rows -/

/-- Query and control, and events. CTL_NOP becomes ready with OK. QUE_CREATE and EVT_SET carry what they were asked for.
QUE_DESTROY marks its queue, kills the queue's other commands, and is ready when they have gone. CTL_KILL kills its target, or
waits for an ATOMIC one past its first write and then answers ALREADY_DONE.
EVT_WAIT is ready once the event has reached its value and leaves everything as it is before (spec 11 R278, R291, R298,
R300). -/
def Obligations.ControlRowsComplete : Prop :=
  ∀ (s : State) (id : CmdId) (k : Cmd) (e : Env),
    (Runs s 0x0101 id k e → exec (.ctlNop id) s = .next (s.markReady id (Result.bare stOK))) ∧
    (Runs s 0x0102 id k e → 1 ≤ k.n 0 → k.n 0 ≤ 15 → 6 ≤ k.n 1 → k.n 1 ≤ 13 → e.iface.queuePresent (k.n 0) = false →
      exec (.queCreate id) s = .next (s.markReady id (Result.ok (.queCreate (k.n 0) (k.n 1))))) ∧
    (∀ t : State, Runs s 0x0103 id k e → 1 ≤ k.n 0 → k.n 0 ≤ 15 → e.iface.queuePresent (k.n 0) = true →
      s.destroying k (k.n 0) = false →
      t = (let u := (s.modQueue id.iface (k.n 0) fun q => { q with dying := true }).modCmd id fun c => { c with stage := 1 }
           (u.killAll (u.queueCmds id.iface (k.n 0) id)).noteSched) →
      t.queueCmds id.iface (k.n 0) id = [] →
      exec (.queDestroy id) s = .next (t.markReady id (Result.ok (.queDestroy (k.n 0))))) ∧
    (∀ x : Cmd, Runs s 0x0104 id k e → k.n 0 < 16 → k.n 1 < 2 ^ 24 → k.target = none → s.killTarget k (k.n 0) (k.n 1) = some x →
      exec (.ctlKill id) s = if x.pastWrite then .next (s.modCmd id fun c => { c with target := some x.id })
        else .next ((s.killAll [x.id]).noteSched.markReady id (Result.bare stOK))) ∧
    (∀ x : CmdId, Runs s 0x0104 id k e → k.n 0 < 16 → k.n 1 < 2 ^ 24 → k.target = some x → s.cmd? x = none →
      exec (.ctlKill id) s = .next (s.markReady id (Result.bare stALREADY_DONE))) ∧
    (Runs s 0x0801 id k e → k.n 0 < 256 → k.n 1 < 2 →
      exec (.evtSet id) s = .next (s.markReady id (Result.ok (.evtSet (k.n 0) (k.n 1 == 1) (k.w 2))))) ∧
    (Runs s 0x0802 id k e → k.n 0 < 256 →
      exec (.evtWait id) s = if k.n 1 ≤ (s.event id.iface (k.n 0)).toNat then .next (s.markReady id (Result.bare stOK))
        else .next s)

/-- Semaphores: SEM_INIT of a semaphore not in use; SEM_ACQUIRE as the oldest waiter, with the count at its units or above
and a place among the context's 64 semaphores; SEM_RELEASE of units the context holds (spec 11 R301). -/
def Obligations.SemaphoreRowsComplete : Prop :=
  ∀ (s : State) (id : CmdId) (k : Cmd) (e : Env) (x : Ctx),
    (Runs s 0x0803 id k e → k.n 0 < 4096 → k.n 1 ≤ 65535 → s.semInUse e.part.num (k.n 0) = false →
      exec (.semInit id) s = .next (s.markReady id (Result.ok (.semInit (k.n 0) (k.n 1))))) ∧
    (Runs s 0x0804 id k e → k.n 0 < 4096 → 1 ≤ k.n 1 → k.n 1 ≤ 65535 → s.ctx? k.ctx = some x →
      x.semsFull (k.n 0) = false → (∀ w ∈ s.semWaiters e.part.num (k.n 0), k.disp ≤ w.disp) →
      exec (.semAcquire id) s = if k.n 1 ≤ s.semCount e.part.num (k.n 0)
        then .next (s.markReady id (Result.ok (.semAcquire (k.n 0) (k.n 1)))) else .next s) ∧
    (Runs s 0x0805 id k e → k.n 0 < 4096 → 1 ≤ k.n 1 → k.n 1 ≤ 65535 → s.ctx? k.ctx = some x → k.n 1 ≤ x.held (k.n 0) →
      exec (.semRelease id) s = .next (s.markReady id (Result.ok (.semRelease (k.n 0) (k.n 1)))))

/-- The memory family: each command whose fields obey their rules becomes ready with what it asks for; MEM_PLACE answers the
home and the shadow in its detail word, and MEM_UNEXPOSE of an allocation that is not exposed answers ALREADY_DONE (spec 06
R144, R154, R481; 11 R292, R293). -/
def Obligations.MemoryRowsComplete : Prop :=
  ∀ (s : State) (id : CmdId) (k : Cmd) (e : Env) (a : Alloc),
    (Runs s 0x0201 id k e → fieldsOk (allocFields k e.part) →
      exec (.memAlloc id) s = .next (s.markReady id (Result.ok (.alloc (allocAsked k))))) ∧
    (Runs s 0x0202 id k e → e.alloc? (k.w 0) = some a → a.role = .plain → s.checkpointed e.part.num (k.w 0) = false →
      s.namedBefore k (k.w 0) = false → exec (.memFree id) s = .next (s.markReady id (Result.ok (.free (k.w 0))))) ∧
    (Runs s 0x0203 id k e → e.alloc? (k.w 0) = some a →
      exec (.memPlace id) s = .next (s.markReady id (Result.okDetail (BitVec.ofNat 32 (a.home.code + 4 * boolNat a.shadow.isSome))))) ∧
    (Runs s 0x0204 id k e → s.clean → 1 ≤ (k.a 0).count → (k.a 0).count ≤ 4096 → e.arrayOk (k.a 0) 4 = true →
      k.n 1 < 16 → k.n 2 < 16 →
      (∀ h ∈ (e.entries (k.a 0) 4).map (fun w => w.getD 0 0#32), ∃ b, e.firstAlloc? h = some b ∧ b.stream = true) →
      exec (.layerPlan id) s = .next (s.markReady id
        (Result.ok (.plan ((e.entries (k.a 0) 4).map fun w => w.getD 0 0#32) (k.n 1) (k.n 2))))) ∧
    (Runs s 0x0205 id k e → (e.alloc? (k.w 0)).isSome = true → fieldsOk (bufferChecks e (k.off 1) (k.t 1) 40) →
      exec (.memStats id) s = .next (s.markReady id (Result.bare stOK))) ∧
    (Runs s 0x0206 id k e → (e.alloc? (k.w 0)).isSome = true →
      exec (.memExpose id) s = .next (s.markReady id (Result.ok (.expose (k.w 0))))) ∧
    (Runs s 0x0207 id k e → (e.alloc? (k.w 0)).isSome = true → s.alloc? e.part.num (k.w 0) = some a →
      exec (.memUnexpose id) s = .next (s.markReady id
        (if a.key.isSome then Result.ok (.unexpose (k.w 0)) else Result.bare stALREADY_DONE)))

/-- The compute family, in memory without read errors: a command whose fields obey their rules, whose rows fit the tile, and
which need not wait for the generators becomes ready with its outputs encoded, under the guard of spec 03 R82; a row of a
row command stays on one tile. A MATMUL inserts its work items and is ready once all have run; one by the transposed copy
runs once every tag of the copy is current; an ATOMIC VEC_EWISE has a statement of its own. A scoreboard never holds more than 64
entries, keeps the order of insertion, and gives the array its oldest ready entry. A
field that breaks its rule ends MATMUL, VEC_EWISE and SFU_EVAL with BAD_PACKET at the first byte of its parameter (spec 02 R51, R53;
04; 09; 11 R287, R472). -/
def Obligations.ComputeRowsComplete : Prop :=
  ∀ (s : State) (id : CmdId) (k : Cmd) (e : Env) (x w o : Alloc), s.clean → s.undrained id →
    (∀ t : State, Runs s 0x0301 id k e → fieldsOk (matFields k e) → e.alloc? (k.t 0).handle = some x →
      e.alloc? (k.t 1).handle = some w → e.alloc? (k.t 6).handle = some o → k.n 13 ≠ 1 →
      t = s.runItems k e [matProduct k x w] → t.itemsDone id = true →
      (requantises x w o = true ∨ mustWait t k e [k.t 6, k.t 7, k.t 8] = false) →
      exec (.matmul id) s = .next (t.markReady id (matResult t k e x w o))) ∧
    (∀ (t : State) (v v' : Alloc), Runs s 0x0301 id k e → fieldsOk (matFields k e) → e.alloc? (k.t 0).handle = some x →
      e.alloc? (k.t 1).handle = some w → e.alloc? (k.t 6).handle = some o → k.n 13 = 1 →
      t = s.runItems k e [matProduct k x w] → t.itemsDone id = true →
      (t.alloc? e.part.num w.handle).map tagsCurrent = some true → w.transposed = some v →
      (t.alloc? e.part.num w.handle).bind (·.transposed) = some v' →
      (requantises x { v with mem := v'.mem } o = true ∨ mustWait t k e [k.t 6, k.t 7, k.t 8] = false) →
      exec (.matmul id) s = .next (t.markReady id (matResult t k e x { v with mem := v'.mem } o))) ∧
    (∀ (b : Board) (i : WorkItem) (ready : WorkItem → Bool), b.entries.length ≤ 64 →
      (b.insert i).entries.length ≤ 64 ∧ (b.insert i).entries ++ (b.insert i).held = b.entries ++ (b.held ++ [i]) ∧
      (b.issue i).entries.length ≤ 64 ∧ (b.forget id).entries.length ≤ 64 ∧
      (b.oldestReady ready = some i → ready i = true ∧ ∃ l r, b.entries = l ++ i :: r ∧ ∀ y ∈ l, ready y = false)) ∧
    (Runs s 0x0302 id k e → fieldsOk (vecFields k e) → bitAt k.flags 0 = false → mustWait s k e [k.t 4] = false →
      exec (.vecEwise id) s = .next (s.markReady id (outsResult s k e [vecOut k e] (Result.bare stOK)))) ∧
    (Runs s 0x0303 id k e → fieldsOk (sfuFields k e) → (k.n 0 < 0x10 ∨ (boundCustom e (k.n 0)).isSome = true) →
      mustWait s k e [k.t 2] = false →
      exec (.sfuEval id) s = .next (s.markReady id (outsResult s k e (sfuOuts k e) (Result.bare stOK)))) ∧
    (Runs s 0x0304 id k e → fieldsOk (softmaxFields k e) → s.rowFits e (k.t 0).fmt (k.n 2) 4 = true →
      mustWait s k e [k.t 1] = false →
      exec (.rowSoftmax id) s = .next (s.markReady id (rowsResult s k e (fun _ => k.n 2) (softmaxOuts k e) (Result.bare stOK)))) ∧
    (Runs s 0x0305 id k e → fieldsOk (normFields k e) → s.rowFits e (k.t 0).fmt (k.n 6) 0 = true →
      mustWait s k e [k.t 1, k.t 2, k.t 3] = false →
      exec (.rowNorm id) s = .next (s.markReady id (rowsResult s k e (fun o => if o = 2 then k.n 6 else 1) (normOuts k e)
        (Result.bare stOK)))) ∧
    (Runs s 0x0306 id k e → fieldsOk (lossGatherFields k e) → s.rowFits e (k.t 0).fmt (k.n 6) 4 = true →
      mustWait s k e [k.t 2, k.t 3, k.t 4, k.t 5] = false →
      exec (.lossGather id) s = .next (s.markReady id (rowsResult s k e (fun _ => 1) (lossGatherOuts k e) (Result.bare stOK)))) ∧
    (Runs s 0x0307 id k e → fieldsOk (lossClipFields k e) → mustWait s k e [k.t 3, k.t 4, k.t 5] = false →
      exec (.lossClip id) s = .next (s.markReady id (outsResult s k e (lossClipOuts k e) { Result.bare stOK with
        aux0 := BitVec.ofNat 32 (e.len (k.t 0)), aux1 := BitVec.ofNat 32 ((lossClipTokens k e).countP (·.2.2)) }))) ∧
    (Runs s 0x0308 id k e → fieldsOk (lossReduceFields k e) → s.rowFits e (k.t 0).fmt (e.len (k.t 0)) 0 = true →
      mustWait s k e [k.t 3, k.t 4] = false →
      exec (.lossReduce id) s = .next (s.markReady id (rowsResult s k e (fun _ => e.len (k.t 0)) (lossReduceOuts k e)
        (Result.bare stOK)))) ∧
    (∀ o : Nat, (Runs s 0x0301 id k e → firstBad (matFields k e) = some o →
        exec (.matmul id) s = .next (s.markReady id (Result.bad (paramStart k.opcode o)))) ∧
      (Runs s 0x0302 id k e → firstBad (vecFields k e) = some o →
        exec (.vecEwise id) s = .next (s.markReady id (Result.bad (paramStart k.opcode o)))) ∧
      (Runs s 0x0303 id k e → firstBad (sfuFields k e) = some o →
        exec (.sfuEval id) s = .next (s.markReady id (Result.bad (paramStart k.opcode o)))))

/-- SCALE_LOAD and TABLE_LOAD: with good entries, and nothing running that is bound to what they replace, they become
ready with what to load (spec 02 R76, 04 R101 to R104). -/
def Obligations.TableRowsComplete : Prop :=
  ∀ (s : State) (id : CmdId) (k : Cmd) (e : Env), s.clean →
    (Runs s 0x0309 id k e → k.n 0 < 8192 → e.arrayOk (k.a 1) 8 = true → k.n 0 + (k.a 1).count ≤ 8192 →
      (∀ w ∈ e.entries (k.a 1) 8, (w.getD 1 0#32).toNat < 64) → scaleBusy s k (k.n 0) (k.n 0 + (k.a 1).count) = false →
      exec (.scaleLoad id) s = .next (s.markReady id (Result.ok (.scale
        ((((List.range (k.a 1).count).map (k.n 0 + ·)).zip (e.entries (k.a 1) 8)).map fun x =>
          (x.1, x.2.getD 0 0#32, BitVec.ofNat 6 (x.2.getD 1 0#32).toNat)))))) ∧
    (Runs s 0x030A id k e → tableSelOk (k.n 0) = true → fieldsOk (inputChecks e (k.off 1) (k.t 1)) → (k.t 1).fmt = 0#8 →
      e.len (k.t 1) = (if k.n 0 = 0 then 1024 else 1030) →
      (if k.n 0 = 0 then tempOk (e.values (k.t 1)) else customOk (e.values (k.t 1))) = true →
      shadowBound s k (k.n 0) = false →
      exec (.tableLoad id) s = .next (s.markReady id (Result.ok (.table (k.n 0) (e.values (k.t 1))))))

/-- Random numbers: RNG_SET and RNG_STATE_PUT once no running command is bound to the seed; RNG_FILL with the words of the
context's mode; RNG_STATE_GET with the state of every tile as its dispatch found it (spec 05 R119 to R137; 11 R295). -/
def Obligations.RandomRowsComplete : Prop :=
  ∀ (s : State) (id : CmdId) (k : Cmd) (e : Env) (a : Alloc), s.clean → s.undrained id →
    (Runs s 0x0A01 id k e → k.n 1 < 2 → s.seedBound k = false →
      exec (.rngSet id) s = .next (s.markReady id (Result.ok (.rngSet (BitVec.ofNat 64 (k.d 0)) (k.n 1 == 1))))) ∧
    (Runs s 0x0A02 id k e → fieldsOk (fillFields k e) → (e.det = true ∨ s.generatorHeld k e.part.tiles = false) →
      e.alloc? (k.t 1).handle = some a →
      exec (.rngFill id) s = .next (s.markReady id (fillResult s k e a))) ∧
    (Runs s 0x0A03 id k e → e.bufferOk (k.w 0) 0 (stateSize e.part.tiles) = true →
      exec (.rngStateGet id) s = .next (s.markReady id { Result.bare stOK with
        writes := [rawWrite (k.w 0) 0 (genBytes e.ctx.seed e.ctx.det e.part.tiles e.ctx.gens)] })) ∧
    (Runs s 0x0A04 id k e → e.bufferOk (k.w 0) 0 0 = true → genStateOk (e.buffer (k.w 0)) = true → s.seedBound k = false →
      exec (.rngStatePut id) s = .next (s.markReady id
        (let g := genParse (e.buffer (k.w 0))
         Result.ok (.rngPut g.1 g.2.1 (genReshape g.2.2.1 e.part.tiles g.2.2.2)))))

/-- Contexts: a context of a legal footprint and priority; the end of another context of the interface once its commands have
gone; its priority; its state word (spec 12 R315 to R318). -/
def Obligations.ContextRowsComplete : Prop :=
  ∀ (s : State) (id : CmdId) (k : Cmd) (e : Env) (x : Ctx),
    (Runs s 0x0B01 id k e → k.n 0 % 4 = 0 → (e.part.foot = 0 ∨ k.n 0 ≤ e.part.foot) → k.n 1 ≤ 3 → e.iface.prioMin ≤ k.n 1 →
      exec (.ctxCreate id) s = .next (s.markReady id (Result.ok (.ctxCreate (k.n 0) (k.n 1))))) ∧
    (∀ t : State, Runs s 0x0B02 id k e → k.n 0 < 4096 → k.n 0 ≠ k.ctx → s.ctxDestroyable k e (k.n 0) = true →
      t = (s.killAll ((s.cmds.filter (·.ctx == k.n 0)).map (·.id))).noteSched → (∀ c ∈ t.cmds, c.ctx ≠ k.n 0) →
      exec (.ctxDestroy id) s = .next (t.markReady id (Result.ok (.ctxDestroy (k.n 0))))) ∧
    (Runs s 0x0B03 id k e → k.n 0 < 4096 → k.n 1 ≤ 3 → e.iface.prioMin ≤ k.n 1 → s.ctx? (k.n 0) = some x →
      x.iface = id.iface →
      exec (.ctxPriority id) s = .next (s.markReady id (Result.ok (.ctxPriority (k.n 0) (k.n 1))))) ∧
    (Runs s 0x0B04 id k e → k.n 0 < 4096 → s.ctx? (k.n 0) = some x → x.iface = id.iface →
      exec (.ctxState id) s = .next (s.markReady id (Result.okDetail
        (BitVec.ofNat 32 (x.st.code + x.prio * 16 + boolNat (s.ctxWaiting x) * 256)))))

/-! ## Serving, learning, epochs, experience, checkpoints -/

/-- The generation family, in memory without read errors: GEN_CONFIG and GEN_ADMIT carry what they were given; GEN_STEP
composes its batch at its start and inserts its work items and, once every streamed layer is in and every item has run, decides a
token count for each request and leaves the keys and values of its positions; GEN_CANCEL
names a live request; GEN_PREFILL ships its blocks and its final message; GEN_COMPL_RING waits while entries are owed (spec 07). -/
def Obligations.GenerationRowsComplete : Prop :=
  ∀ (s : State) (id : CmdId) (k : Cmd) (e : Env) (g : GenCfg) (b : StepOut), s.clean →
    (Runs s 0x0401 id k e → e.arrayOk (k.a 0) 4 = true → k.n 1 ≠ 0 → k.n 2 ≠ 0 → k.n 3 ≠ 0 → kvFmtOk (k.n 4) (k.n 3) = true →
      g = genCfgOf k ((e.entries (k.a 0) 4).map fun w => w.getD 0 0#32) → poolOk e k g = true → 64 ≤ k.n 6 →
      k.n 6 ≤ 1048576 → e.serving = true → e.part.gen.reqs = [] → (e.first.ctx.bind (·.plan)).isSome = true →
      (∀ h ∈ g.draft, ∃ a, e.firstAlloc? h = some a ∧ a.stream = false ∧ a.home ≠ .ddr) →
      exec (.genConfig id) s = .next (s.markReady id (Result.ok (.genConfig g)))) ∧
    (Runs s 0x0402 id k e → 1 ≤ (k.a 0).count → (k.a 0).count ≤ 256 → e.arrayOk (k.a 0) 64 = true → (k.a 1).absent = false →
      e.arrayOk (k.a 1) 4 = true → (k.a 0).count ≤ (k.a 1).count → e.part.gen.cfg.isSome = true →
      e.iface.cring.isSome = true →
      exec (.genAdmit id) s = .next (s.markReady id (Result.ok (.genAdd (e.entries (k.a 0) 64) (k.a 1).handle (k.a 1).off)))) ∧
    (∀ (t u : State) (p : Part) (i : Nat), Runs s 0x0403 id k e → 1 ≤ k.n 0 → k.n 0 ≤ 65536 → 1 ≤ k.n 1 → k.n 1 ≤ 16384 →
      1 ≤ k.n 2 → k.n 2 ≤ 8192 → e.serving = true → e.part.gen.cfg = some g → tempEmptied e = false → e.planOk = true →
      e.hadBloom = true → k.begun = false → s.stepBefore e.part.num k = false → s.cancelWaits e.part.num = false →
      t = s.stepStart k e.part.num → t.part? e.part.num = some p → b = composeFor k.batch t p g (k.n 0) (k.n 1) (k.n 2) →
      u = t.modCmd id (fun c => { c with batch := some b, begun := true }) → k.nextEntry = some i →
      exec (.genStep id) s = .next ((u.arriveAt k i).runItems k e
        (planProducts e b.rows (if b.outs.any (·.drafted != 0) then g.draft else [])))) ∧
    (∀ (t : State) (p : Part) (a : Alloc) (o : List ReqOut × Run), Runs s 0x0403 id k e → 1 ≤ k.n 0 → k.n 0 ≤ 65536 →
      1 ≤ k.n 1 → k.n 1 ≤ 16384 → 1 ≤ k.n 2 → k.n 2 ≤ 8192 → e.serving = true → e.part.gen.cfg = some g →
      tempEmptied e = false → e.planOk = true → e.hadBloom = true → k.begun = true → k.batch = some b → k.nextEntry = none →
      t = (s.traverse k).1.runItems k e (planProducts e b.rows (if b.outs.any (·.drafted != 0) then g.draft else [])) →
      t.itemsDone id = true → t.clean → t.undrained id → (e.det = true ∨ t.generatorHeld k e.part.tiles = false) →
      t.part? e.part.num = some p → t.contents e.part.num g.pool = some a →
      o = stepOuts t e g p { b with late := !k.late.isEmpty } k.late a → t.rowFits e 0#8 o.2.longest 4 = true →
      exec (.genStep id) s = .next (t.markReady id (stepResult k e { b with late := !k.late.isEmpty } a o))) ∧
    (∀ (p : Part) (r : Req), Runs s 0x0404 id k e → k.n 0 < 2 ^ 24 → s.part? e.part.num = some p →
      p.reqOf id.iface (k.n 0) = some r → s.inStep e.part.num r.slot = false →
      exec (.genCancel id) s = .next (s.markReady id (Result.ok (.genCancel (k.n 0))))) ∧
    (∀ (t u : State) (p : Part) (a : Area) (m : List Byte × Tab Made), Runs s 0x0405 id k e → k.n 1 < 2 ^ 14 → k.n 2 < 32 →
      promptOk e (k.w 3) (k.n 4) (k.n 5) = true → 2 ≤ k.n 5 → e.part.gen.cfg = some g → kvFmtOk (k.n 6) g.dh = true →
      e.planOk = true → e.first.epo.area? .bloom = some a → (k.begun = true ∨ s.fundsOk id.iface = true) → k.nextEntry = none →
      t = ((s.modCmd id fun c => { c with begun := true }).traverse k).1.runItems k e (planProducts e (k.n 5 - 1) []) →
      t.itemsDone id = true → t.clean → t.part? e.part.num = some p → m = prefillCache k e p.epo g a.epoch →
      u = shipBlocks t k ((List.range (kvBlocks (k.n 5))).map (shippedBlock t k e g a.epoch m.1)) e →
      guardResult k (madeWrites m.2) = none → (shipFinal u k e (finalMessage u k e a.epoch)).1.undrained id →
      exec (.genPrefill id) s = .next ((shipFinal u k e (finalMessage u k e a.epoch)).1.markReady id
        (prefillResult (shipFinal u k e (finalMessage u k e a.epoch)).2 (k.n 5) ((madeWrites m.2).map fun x => x.2.2)))) ∧
    (Runs s 0x0406 id k e → e.bufferOk (k.w 0) 0 (32 * k.n 1) = true → ringCountOk (k.n 1) = true →
      exec (.genComplRing id) s = if s.owes id.iface then .next s
        else .next (s.markReady id (Result.ok (.complRing (k.w 0) (k.n 1)))))

/-- The learning family, in memory without read errors and with no checkpoint draining: LEARN_PLAN and RULE_LOAD once nothing
is bound to what they replace; LEARN_STEP, once its work items have run, with the loss, gradients, saved values and counts of its
passes; GRAD_REDUCE and PARAM_GATHER once all they owe
is sent and all they wait for has come; RULE_APPLY, not ATOMIC, with the updated tensors; MASK_SET with the blocks it freezes
(spec 09, 14 R379 to R383). -/
def Obligations.LearningRowsComplete : Prop :=
  ∀ (s : State) (id : CmdId) (k : Cmd) (e : Env), s.clean → s.undrained id →
    (∀ ps : List PlanEntry, Runs s 0x0501 id k e → ps = (e.entries (k.a 0) 32).map planEntryOf → 1 ≤ (k.a 0).count →
      (k.a 0).count ≤ 4096 → e.arrayOk (k.a 0) 32 = true → e.arrayOk (k.a 1) 1 = true →
      (∃ a, e.alloc? (k.w 2) = some a ∧ a.home ≠ .ddr) → 1 ≤ k.n 3 → k.n 3 ≤ 64 → ps.all (planEntryOk e) = true →
      entriesOk ps = true → s.planBound k = false →
      exec (.learnPlan id) s = .next (s.markReady id (Result.ok (.learnPlan (planAsked k e ps))))) ∧
    (∀ (t : State) (w : StepWork) (mbs : List (List Seq)), Runs s 0x0502 id k e → fieldsOk (learnFields k e) →
      learnState k e = true → e.planOk = true → mbs = microBatches (k.n 3) (stepSeqs k e) →
      (∃ a, e.alloc? (e.plan!).pool = some a ∧
        poolNeed (stepLayers s e (e.plan!)) (mbs.map fun qs => sumBy Seq.len qs) ≤ a.size) → k.nextEntry = none →
      t = (s.traverse k).1.runItems k e (stepProducts (stepLayers s e (e.plan!)) ((k.plan.map (·.handles)).getD [])
        (mbs.map fun qs => sumBy Seq.len qs)) →
      t.itemsDone id = true → t.undrained id → t.transposing e.part.num (e.plan!) = false →
      (e.det = true ∨ k.layersStoch = false ∨ t.generatorHeld k e.part.tiles = false) →
      w = stepWork t k e (e.plan!) mbs → overridesKnown (stepOverrides k e) w.ordinals = true →
      exec (.learnStep id) s = .next (t.markReady id (learnResult k e (e.plan!) (stepLayers t e (e.plan!)) w))) ∧
    (∀ (x z y : Coll) (t : State), Runs s 0x0503 id k e → (s.part? e.part.num).bind (·.coll? id) = some x →
      earlyMismatch s e.part.num x = false → ((collAbsorb s e.part.num x).part? e.part.num).bind (·.coll? id) = some z →
      t = collAdvance (collAbsorb s e.part.num x) e.part.num z → (t.part? e.part.num).bind (·.coll? id) = some y → t.undrained id →
      collSent t e.part.num y = true → (y.rank < y.o → y.received y.rank = true ∧ y.errOf y.rank = 0#32) →
      exec (.gradReduce id) s = .next (t.markReady id { Result.ok (.reduce (nansOf k e) y.reduction) with
        writes := y.ownWrites })) ∧
    (Runs s 0x0504 id k e → k.n 0 < 8 → 1 ≤ (k.a 1).count → (k.a 1).count ≤ 32 → e.arrayOk (k.a 1) 4 = true →
      (∀ w ∈ e.entries (k.a 1) 4, ruleOk (w.getD 0 0#32) = true) → s.ruleBound e.part.num (k.n 0) = false →
      exec (.ruleLoad id) s = .next (s.markReady id
        (Result.ok (.ruleLoad (k.n 0) ((e.entries (k.a 1) 4).map fun w => w.getD 0 0#32))))) ∧
    (∀ (prog : List W32) (r : Reduced) (u : List TWrite × Drawer), Runs s 0x0505 id k e → bitAt k.flags 0 = false →
      fieldsOk (ruleFields k e) → ruleState k e = true → boundRule e (k.n 0) = some prog → ruleReduced k e = some r →
      (e.det = true ∨ k.planStoch = false ∨ s.generatorHeld k e.part.tiles = false) →
      u = ruleEntries k e (fun _ _ => true) prog (ruleWork k e) (entryList k e 20).eraseDups (s.drawer e) →
      guardResult k (guardedRule e (entryList k e 20) u.1) = none →
      exec (.ruleApply id) s = .next (s.markReady id
        (ruleOutcome k e r u.1 (if !e.det && k.planStoch then some u.2.gens else none)))) ∧
    (∀ (x z y : Coll) (t : State) (r : Result), Runs s 0x0506 id k e → (s.part? e.part.num).bind (·.coll? id) = some x →
      earlyMismatch s e.part.num x = false → ((collAbsorb s e.part.num x).part? e.part.num).bind (·.coll? id) = some z →
      t = collAdvance (collAbsorb s e.part.num x) e.part.num z → (t.part? e.part.num).bind (·.coll? id) = some y → t.undrained id →
      collSent t e.part.num y = true → (∀ o < y.o, y.received o = true) → gatherResult? t e.part.num e y = some r →
      r.status = stOK ∧ r.eff = .gather y.entries y.epoch ∧ exec (.paramGather id) s = .next (t.markReady id r)) ∧
    (∀ (w : List Alloc) (a : Alloc), Runs s 0x0507 id k e → e.plan.isSome = true → k.n 0 < (e.plan!).entries.length →
      w = (e.weights [k.n 0]).filterMap e.alloc? → w ≠ [] → fieldsOk (inputChecks e (k.off 1) (k.t 1)) →
      (k.t 1).fmt = int8Field → e.bufferOk (k.t 1).handle (k.t 1).off (((w.map Alloc.paramBlocks).headD 0 + 7) / 8) = true →
      ((w.map Alloc.paramBlocks).headD 0 + 7) / 8 ≤ e.len (k.t 1) → e.alloc? (k.t 1).handle = some a →
      exec (.maskSet id) s = .next (s.markReady id
        (Result.ok (.mask (k.n 0) (maskBlocks a (k.t 1).off ((w.map Alloc.paramBlocks).headD 0))))))

/-- Weights and epochs: EPO_MAP and EPO_GRANT of the interface that may issue them, with what they name; BUD_LOAD, with no
other load and a bud it may use, takes an area and asks its sources; BUD_PUBLISH of the READY bud; BUD_DISCARD of a bud that
is not pending (spec 10 R253 to R270). -/
def Obligations.EpochRowsComplete : Prop :=
  ∀ (s : State) (id : CmdId) (k : Cmd) (e : Env) (p : Part), s.clean → s.epochIssuer e = true →
    (∀ ms : List MapEntry, Runs s 0x0601 id k e → ms = (e.entries (k.a 0) 32).map mapEntryOf → 1 ≤ (k.a 0).count →
      (k.a 0).count ≤ 4096 → e.arrayOk (k.a 0) 32 = true →
      (∀ w ∈ e.entries (k.a 0) 32, mapEntryOk (e.part.role == roleLearn) w = true) → pairwiseApart ms = true →
      s.mapBusy e.part id = false → (e.part.role = roleLearn → ∀ m ∈ ms, s.learnEntryOk e.part.num m = true) →
      exec (.epoMap id) s = .next (s.markReady id (Result.ok (.epoMap ms (k.a 0).handle (k.a 0).off)))) ∧
    (Runs s 0x0602 id k e → (k.a 0).count ≤ 64 → e.arrayOk (k.a 0) 8 = true → (∀ g ∈ e.entries (k.a 0) 8, grantOk g = true) →
      exec (.epoGrant id) s = .next (s.markReady id
        (Result.ok (.epoGrant ((e.entries (k.a 0) 8).map fun g => (g.getD 0 0#32, g.getD 1 0#32)))))) ∧
    (∀ (c : Cmd) (t : State), Runs s 0x0603 id k e → e.part.role ≠ roleLearn → k.stage = 0 → fieldsOk (loadFields k e) →
      (∀ w ∈ e.entries (k.a 3) 64, sourceOk w = true) → s.part? e.part.num = some p → p.bloomEpoch ≠ some (k.w 0) →
      (∀ d ∈ loadSources k e, d.storage = true → s.portFitted d.port = true) →
      c = { k with stage := 1 } → t = s.modCmd id (fun c => { c with stage := 1 }) →
      p.epo.load = none → t.loadBefore e.part.num c = false → p.role ≠ roleLearn → p.epo.bud ≠ .pending →
      (p.epo.bud = .ready → p.epo.budEpoch ≠ k.w 0) →
      exec (.budLoad id) s = .next (advanceLoad (acquire ((t.modPart e.part.num fun q => { q with epo := { q.epo with
        load := some (newLoad c e), raw := if q.role = roleLearn then [] else q.epo.raw } }).modCmd id fun x => { x with begun := true })
        e.part.num) e.part.num)) ∧
    (Runs s 0x0604 id k e → s.part? e.part.num = some p → p.epo.bud = .ready → p.epo.budEpoch = k.w 0 →
      exec (.budPublish id) s = .next (s.markReady id (Result.ok (.budPublish (k.w 0))))) ∧
    (Runs s 0x0605 id k e → s.part? e.part.num = some p →
      exec (.budDiscard id) s = .next (s.markReady id (match p.epo.bud with
        | .pending => Result.bare stALREADY_DONE
        | .free => Result.bare stOK
        | _ => Result.ok .budDiscard)))

/-- Experience, in memory without read errors and with no checkpoint draining: a ring over a plain HBM allocation of a legal
size; a class's factors; the scan of a closed trajectory that the command holds, in a lane of the unit; the gather, under a grant, of
the trajectories of this module that it claimed at its first dispatch; the end of a ring that nothing uses (spec 08 R209 to R222). -/
def Obligations.ExperienceRowsComplete : Prop :=
  ∀ (s : State) (id : CmdId) (k : Cmd) (e : Env), s.clean → s.undrained id →
    (∀ (a : Alloc) (gs : List W32), Runs s 0x0701 id k e → e.alloc? (k.w 0) = some a → ringAllocOk a = true →
      (k.a 1).count ≤ 8 → e.arrayOk (k.a 1) 4 = true → e.part.freeRing.isSome = true →
      gs = (e.entries (k.a 1) 4).map (fun w => w.getD 0 0#32) → (∀ g ∈ gs, g &&& 0xFFE0C000#32 = 0#32) →
      exec (.expRingCreate id) s = .next (s.markReady id (Result.ok (.ringCreate (k.w 0) gs)))) ∧
    (Runs s 0x0702 id k e → k.n 0 < 16 → k.n 1 < 256 → unitOk (k.w 2) = true → unitOk (k.w 3) = true →
      (e.part.ring? (k.n 0)).isSome = true →
      exec (.expClassSet id) s = .next (s.markReady id (Result.ok (.classSet (k.n 0) (k.n 1) (k.w 2) (k.w 3))))) ∧
    (∀ (r : Ring) (x : Traj) (t : State), Runs s 0x0703 id k e → s.fit.scan = true → fieldsOk (scoreFields k e) →
      e.part.ring? (k.n 0) = some r → k.n 1 / 2 ^ 24 = id.iface → r.unscanned (k.w 1) = some x →
      (x.holder = some id ∨ x.holder = none ∧ s.scoredBefore k = false) →
      t = (holdTraj s e.part.num (k.n 0) (k.w 1) id).joinScans → x.closed = true → t.inLane id = true →
      tensorsCover k e x.recs.length = true →
      exec (.expScore id) s = .next ((t.leaveQueues id).markReady id (Result.ok (.score (k.n 0) (k.w 1) (scored k e x))))) ∧
    (∀ (p : Part) (r : Ring), Runs s 0x0704 id k e → k.n 0 < 2 ^ 14 → k.n 1 < 32 → k.n 2 < 16 →
      1 ≤ k.n 3 → e.bufferOk (k.w 4) 0 0 = true → k.n 0 = s.net.moduleId → s.part? (k.n 1) = some p →
      p.ring? (k.n 2) = some r → r.grantsTo s.net.moduleId e.part.num = true →
      (k.stage = 1 → exec (.expGather id) s = .next (s.markReady id (Result.bare stOK))) ∧
      (k.stage = 2 → exec (.expGather id) s = .next (s.markReady id (Result.bare stNO_RESOURCE))) ∧
      (k.stage = 3 → exec (.expGather id) s = .next (s.markReady id (gatherResult k p.num r.number (claimed r id))))) ∧
    (∀ r : Ring, Runs s 0x0705 id k e → k.n 0 < 16 → e.part.ring? (k.n 0) = some r →
      exec (.expRingDestroy id) s = if s.ringBusy e.part r then .next s
        else .next (s.markReady id (Result.ok (.ringDestroy (k.n 0)))))

/-- Checkpoints: CKP_CONFIG reads the manifests of its sets and then carries the new plan; CKP_STEP its count; CKP_RESTORE,
with every manifest, list and shard answered and nothing missing, what it restores; CKP_STATUS its record (spec 13). -/
def Obligations.CheckpointRowsComplete : Prop :=
  ∀ (s : State) (id : CmdId) (k : Cmd) (e : Env), s.clean → s.undrained id →
    (∀ q : CkpParams, Runs s 0x0901 id k e → q = ckpParams k e → k.stage = 0 → fieldsOk (ckpFields k e) → e.serving = true →
      planOk e (e.entries (k.a 0) 32) = true → s.ctxsOk e.part.num q.ctxs = true →
      (∀ x ∈ q.sets, ∀ d ∈ x.2 :: x.1, d.storage = true → s.portFitted d.port = true) → regionsOk k e q = true →
      (∀ x ∈ q.sets, setFits x.1 q.shards = true) → e.part.ckp.drain = none →
      exec (.ckpConfig id) s = .next (s.beginReads id 1 (configWants q))) ∧
    (∀ q : CkpParams, Runs s 0x0901 id k e → q = ckpParams k e → k.stage ≠ 0 → k.answered (configWants q) = true →
      (∀ w ∈ configWants q, w.tag ∉ k.failedReads) →
      exec (.ckpConfig id) s = .next (s.useFresh.markReady id (Result.ok (.ckpConfig (newCkp s k q))))) ∧
    (Runs s 0x0902 id k e → k.n 0 < 2 → (k.n 0 = 1 ∨ (1 ≤ k.d 1 ∧ k.d 1 < 2 ^ 32)) → e.serving = true →
      exec (.ckpStep id) s = .next (s.markReady id (Result.ok (.ckpStep (k.n 0 == 0) (BitVec.ofNat 64 (k.d 1)))))) ∧
    (∀ (us : List Manifest) (m : Manifest), Runs s 0x0903 id k e → k.stage = 3 →
      k.answered (headWants (restoreLocs k e)) = true → k.answered (listWants k (restoreLocs k e)) = true →
      us = usedManifests (k.n 1 = 1) (BitVec.ofNat 64 (k.d 2)) (manifests k (restoreLocs k e).length) → us.head? = some m →
      (∀ x ∈ us, x.step = m.step) →
      missingReport us (restoreTargets k e) (restorePairs k e) (fun _ _ => false) s.fresh = [] →
      k.answered (shardWants (restoreLocs k e) (neededShards us (restoreTargets k e) (restorePairs k e))) = true →
      (∀ x ∈ neededShards us (restoreTargets k e) (restorePairs k e), (shardRead k x.1 x.2.1 x.2.2).isSome = true) →
      (∀ t ∈ restoreTargets k e, ∀ a, e.alloc? t.handle = some a → restoredScaleOk k us t a = true) →
      (∀ b ∈ restoredRecords k us (restorePairs k e), genStateOk b = true) →
      exec (.ckpRestore id) s = .next (s.markReady id (restoreResult s k e us m.step))) ∧
    (Runs s 0x0904 id k e → fieldsOk (bufferChecks e (k.off 0) (k.t 0) 80) →
      exec (.ckpStatus id) s = .next (s.markReady id { Result.bare stOK with
        writes := [rawWrite (k.t 0).handle (k.t 0).off (ckpStatus e.part)] }))

/-! ## The queue, the local clock, reset -/

/-- A step takes the command at the front of the queue and is what exec does with it on the rest; an empty queue idles
(DESIGN CHOICE, log 3). -/
def Obligations.StepRunsTheFront : Prop :=
  (∀ (s : State) (c : Instr) (r : List Instr), step { s with pending := c :: r } = exec c { s with pending := r }) ∧
  ∀ s : State, s.pending = [] → step s = .next (tick s)

/-- The machine right after reset, in the values the spec gives: nothing waits, memory is empty, the local clock is 0, every
severity is that of Table 15-1 and no record pends, the power registers hold Table 16-5's reset values, the ports of Table 14-9
theirs, and no port is up (spec 15 Table 15-10; 16 Table 16-5; 18 R465). -/
def Obligations.ResetState : Prop :=
  State.reset.pending = [] ∧ State.reset.allocs = [] ∧ State.reset.cmds = [] ∧ State.reset.parts = [] ∧
  State.reset.ifaces = [] ∧ State.reset.clk.localUs = 0 ∧
  (∀ n < 96, State.reset.severity n = sourceDefault n) ∧ State.reset.flt.recs = [] ∧ State.reset.flt.safe = false ∧
  State.reset.pwr.cfg = 0x64#32 ∧ State.reset.pwr.resume = 0xFA0#32 ∧
  State.reset.net.fabCfg = 0x1835B0E1#32 ∧ State.reset.net.rcCfg = 0x326C#32 ∧ State.reset.net.bzRto = 0x80032#32 ∧
  (∀ k < 32, (State.reset.link? k).map (fun l => (l.up, l.cfg)) = some (false, 1#32)) ∧
  (∀ p < 4, (State.reset.net.ports.find? (·.1 == p)).map (fun e => (e.2.up, e.2.cfg)) = some (false, 0x6806#32)) ∧
  State.reset.awake = false ∧ State.reset.faultN = false

/-- With the clock running, nothing waiting and no command in flight that can time out, n idle steps are n microseconds of the
64-bit local clock, and they change nothing else but PWR.THERM_MS (spec 16 R430, R424; that an idle step is one microsecond is
the model's choice, log 3). -/
def Obligations.IdleStepsCountMicroseconds : Prop :=
  ∀ (n : Nat) (s : State), s.pending = [] → s.clockRuns = true → s.clk.localUs < 2 ^ 64 → (∀ c ∈ s.cmds, c.timeout = 0) →
    ∃ m : W32, steps n s = .next ((s.modPwr fun p => { p with thermMs := m }).atTime ((s.clk.localUs + n) % 2 ^ 64))

/-! ## The packet path -/

/-- A doorbell of a working window: a value within the ring counted from the head and from the tail becomes the tail, with
its place in the order of doorbells; any other value, and any value for a queue that does not exist, is discarded and
recorded, and the tail stays. -/
def Obligations.DoorbellMovesTheTail : Prop :=
  ∀ (s : State) (i n : Nat) (t : W32) (f : Iface), s.windowUp = true → s.iface? i = some f →
    s.partFenced f.part = false →
    (∀ q : Queue, f.queue? n = some q → q.present = true →
      (t - q.head).toNat ≤ 2 ^ q.log2 → (t - q.tail).toNat ≤ 2 ^ q.log2 →
      exec (.doorbellWrite i n t) s =
        .next (s.wake.modQueue i n fun u => { u with tail := t, bells := u.bells ++ [(t, s.wake.stamp)] }).tickStamp) ∧
    (∀ q : Queue, f.queue? n = some q →
      (q.present = false ∨ 2 ^ q.log2 < (t - q.head).toNat ∨ 2 ^ q.log2 < (t - q.tail).toNat) →
      exec (.doorbellWrite i n t) s = .next (s.wake.discard i causeR279 true (4 * n))) ∧
    (f.queue? n = none → exec (.doorbellWrite i n t) s = .next (s.wake.discard i causeR279 true (4 * n)))

/-- PACKET_FETCH of a queue that R281 lets fetch: a good packet joins the commands in flight, and the queue moves past its
units; a packet that fails a check of R283 completes with BAD_PACKET and that offset; a ring that the interface may not use
stops the queue (spec 11 R281, R283, R288). -/
def Obligations.PacketFetchCompletes : Prop :=
  ∀ (s : State) (i n : Nat) (f : Iface) (p : Part) (q : Queue) (ws : List W32) (c : Cmd) (u : State),
    s.awake = true → s.iface? i = some f → s.part? f.part = some p → f.queue? n = some q →
    p.fenced = false → p.dying = false → s.fetchable f n q = true →
    ws = f.packetAt q 0 → c = s.newCmd f n q ws →
    u = { s with cmds := s.cmds ++ [c] }.modQueue f.num n (fun v => v.advance (advanceOf ws)) →
    (s.ringUsable f q = true → lenOk (hdrLen ws) = true →
      fieldsOk (headerChecks ws ++ s.fetchChecks f n c.bell q.next ws) →
      exec (.packetFetch i n) s = .next (u.cascade u.cmds.length).noteSched) ∧
    (∀ o : Nat, s.ringUsable f q = true → lenOk (hdrLen ws) = true →
      firstBad (headerChecks ws ++ s.fetchChecks f n c.bell q.next ws) = some o →
      exec (.packetFetch i n) s = .next (u.complete c (Result.bad o)).noteSched) ∧
    (s.ringUsable f q = true → lenOk (hdrLen ws) = false →
      exec (.packetFetch i n) s = .next (u.complete c (Result.bad 0)).noteSched) ∧
    (s.ringUsable f q = false → exec (.packetFetch i n) s =
      .next ((s.modQueue i n fun v => { v with stopped := true }).discard i causeR288 true n).noteSched)

/-- COMMAND_DISPATCH of a command that R294 lets start: it is dispatched with one more attempt, sees the committed contents
of now, keeps the bindings and the resolved epochs of its first start, and at that first start takes its place in the order of
dispatch and what it holds of a ring; after a revocation the context's next command
completes with SEM_REVOKED, naming the lowest revoked semaphore, and clears the context's revocations (spec 11 R294, R295,
R302). -/
def Obligations.DispatchCompletes : Prop :=
  ∀ (s : State) (id : CmdId) (c : Cmd) (f : Iface) (x : Ctx) (p : Part) (v : View),
    s.awake = true → s.cmd? id = some c → s.iface? id.iface = some f → s.ctx? c.ctx = some x → s.part? f.part = some p →
    p.fenced = false → p.dying = false → x.inTile = true → s.dispatchable c = true →
    v = (s.viewOf p (s.bindCtx p c x) f.classL).keepEpochs c.first →
    (∀ t : State, x.revoked = [] → t = (s.modCmd id fun k =>
      { k with phase := .dispatched, attempts := k.attempts + 1, disp := k.place s.stamp, view := some v,
               first := some (k.first.getD v), guardLog2 := field f.fmtGuard 4 0
               startUs := if k.started then k.startUs else s.clk.localUs }).tickStamp.settle →
      exec (.commandDispatch id) s = .next (if c.started then t.joinScans.noteSched
        else (bindRing t { c with disp := c.place s.stamp } v).noteSched)) ∧
    (∀ m r, x.revoked = m :: r → exec (.commandDispatch id) s =
      .next ((s.modCtx c.ctx fun y => { y with revoked := [] }).complete { c with attempts := c.attempts + 1 }
        (revokedResult (m :: r))).noteSched)

/-- COMMAND_TIMEOUT: once the local clock has run TIMEOUT microseconds or more since the fetch, a command that is not ready
completes with TIMEOUT, but for one that waits for an event or a semaphore whose arrival is registered; before, and with no timeout,
nothing happens. The cycle of R299 is the model's microsecond (log 31). -/
def Obligations.TimeoutCompletes : Prop :=
  ∀ (s : State) (id : CmdId) (c : Cmd), s.live = true → s.pwr.state.toNat ≤ 2 → s.cmd? id = some c →
    (c.phase = .fetched ∨ c.phase = .dispatched) →
    (c.timeout ≠ 0 → c.fetchUs + c.timeout ≤ s.clk.localUs → s.granted c = false → ∀ t : State, t = s.wake.endWith c (Result.bare stTIMEOUT) →
      exec (.commandTimeout id) s = .next (t.cascade t.cmds.length).noteSched) ∧
    ((c.timeout = 0 ∨ s.clk.localUs < c.fetchUs + c.timeout ∨ s.granted c = true) → exec (.commandTimeout id) s = .next s.noteSched)

/-- COMMAND_COMPLETION: the oldest ready command that nothing holds back completes. A result that commits nothing is only
replied and remembered; one that commits replaces the committed state first, and its reply shows what the commit answers; a
queue that QUE_DESTROY ends is freed after the reply; the transposed blocks that the commit changed become its job; and the held
requests of a batch step settle after it (spec 11 R287, R289, R295, R298; 02 R48). -/
def Obligations.CompletionCompletes : Prop :=
  ∀ (s : State) (n : Nat) (c : Cmd) (r : Result), s.awake = true → s.nextCommit n = some (c, r) →
    (r.commits = false → c.opcode ≠ 0x0405 → exec (.commandCompletion n) s = .next (s.complete c r).noteSched) ∧
    (∀ (t : State) (r' : Result), r.commits = true → commitAll s c r = (t, r') →
      (c.opcode ≠ 0x0405 → (∀ q, r'.eff = .queDestroy q → r'.status ≠ stOK) →
        exec (.commandCompletion n) s = .next ((t.complete c r').takeJobs (s.cmdPart c.id)).noteSched) ∧
      (∀ q, c.opcode ≠ 0x0405 → r'.eff = .queDestroy q → r'.status = stOK →
        exec (.commandCompletion n) s = .next ((freeQueue (t.complete c r') c.id.iface q).takeJobs (s.cmdPart c.id)).noteSched) ∧
      (c.opcode = 0x0405 → (∀ q, r'.eff ≠ .queDestroy q) →
        exec (.commandCompletion n) s = .next (((t.complete c r').takeJobs (s.cmdPart c.id)).settleHeld (s.cmdPart c.id)).noteSched))

/-- A completion that commits nothing leaves every allocation, remote key and page as it was, and the epochs, rules,
semaphores and STEP of every partition; the command is in flight no longer. -/
def Obligations.FailureCommitsNothing : Prop :=
  ∀ (s : State) (n : Nat) (c : Cmd) (r : Result), s.awake = true → s.nextCommit n = some (c, r) → r.commits = false →
    c.opcode ≠ 0x0405 →
    ∃ t, exec (.commandCompletion n) s = .next t ∧ t.allocs = s.allocs ∧ t.keys = s.keys ∧ t.cmd? c.id = none ∧
      t.parts.map (fun p => (p.num, p.epo, p.rules, p.sems, p.step)) =
        s.parts.map (fun p => (p.num, p.epo, p.rules, p.sems, p.step))

/-- The reply-ring registers: DBL.RR_HEAD takes a value from RR_WR − size to RR_WR; QCF.RR_CFG, with the ring idle and a size
that is not reserved, restarts the ring; another write of either is discarded and recorded. -/
def Obligations.ReplyRingRegisters : Prop :=
  ∀ (s : State) (i n : Nat) (v : W32) (f : Iface) (q : Queue), s.windowUp = true → s.iface? i = some f →
    f.queue? n = some q →
    (q.present = true → q.ringOk = true → (q.rrWr - v).toNat ≤ 2 ^ q.ringLog2 →
      exec (.replyHeadWrite i n v) s = .next (s.wake.modQueue i n fun u => { u with rrHead := v })) ∧
    ((q.present = false ∨ q.ringOk = false ∨ 2 ^ q.ringLog2 < (q.rrWr - v).toNat) →
      exec (.replyHeadWrite i n v) s = .next (s.wake.discard i causeR304 true (0x40 + 4 * n))) ∧
    (q.present = true → s.inflight i n = 0 → q.rrWr = q.rrHead → ringSizeOk (field v 31 27) = true →
      exec (.replyRingConfig i n v) s = .next (s.wake.modQueue i n fun u =>
        { u with rrCfg := v &&& 0xFBFFFFFF#32, rrWr := 0#32, rrHead := 0#32, stopped := false })) ∧
    ((q.present = false ∨ s.inflight i n ≠ 0 ∨ q.rrWr ≠ q.rrHead ∨ ringSizeOk (field v 31 27) = false) →
      exec (.replyRingConfig i n v) s = .next (s.wake.discard i causeR305 true (0x101C + 0x40 * n)))

/-! ## Registers -/

/-- The rows of a control window and of register accesses: the read pointer of the completion ring, the context snapshot, a
clear of the fault view, and a 32-bit read and write of a window register; an access that is not the register's natural one
reads zero, writes nothing, and is recorded (spec 00 R13; 07 R205; 12 R330; 15 R401). -/
def Obligations.WindowRegisters : Prop :=
  ∀ (s : State) (i off : Nat) (v : W32) (w : W64) (f : Iface), s.windowUp = true → s.iface? i = some f →
    (∀ h n, f.cring = some (h, n) → (f.cringWr - v).toNat ≤ n →
      exec (.cringRdWrite i v) s = .next (s.wake.modIface i fun g => { g with cringRd := v })) ∧
    (∀ h n, f.cring = some (h, n) → n < (f.cringWr - v).toNat →
      exec (.cringRdWrite i v) s = .next (s.wake.discard i causeR205 true 0x1A28)) ∧
    (f.cring = none → exec (.cringRdWrite i v) s = .next (if v = f.cringWr
      then s.wake.modIface i fun g => { g with cringRd := v } else s.wake.discard i causeR205 true 0x1A28)) ∧
    (∀ x : Ctx, s.ctx? (field v 11 0) = some x → x.iface = i →
      exec (.ctxSelWrite i v) s = .next (s.wake.modIface i fun g => { g with
        ctxSel := v &&& 0xFFF#32, snapTime := lowWord s.wake.clk.localUs, snap := x.acct
        snapStatus := packed [(0, x.st.code), (4, x.prio), (8, boolNat (s.wake.ctxWaiting x)), (16, x.foot / 4)] })) ∧
    ((s.ctx? (field v 11 0)).filter (·.iface == i) = none →
      exec (.ctxSelWrite i v) s = .next (s.wake.modIface i fun g => { g with
        ctxSel := v &&& 0xFFF#32, snapTime := 0#32, snap := { eng := [], bytes := [], energy := 0 }, snapStatus := 7#32 })) ∧
    exec (.viewPendClear i v) s = .next (s.wake.modIface i fun g => { g with vPend := g.vPend &&& ~~~v }) ∧
    (windowWide off = false → off % 4 = 0 → exec (.rcCounterRead (.window i) off 4) s =
      .next ((s.wake.modIface f.num (·.afterRead off)).emit (.regValue (BitVec.ofNat 64 (s.wake.windowReg f off).toNat)))) ∧
    (windowWide off = false → off % 4 = 0 →
      exec (.registerWrite (.window i) off 4 w) s = .next (windowSet s.wake i off (w.truncate 32))) ∧
    (∀ width, accessOk off width = false →
      exec (.rcCounterRead (.window i) off width) s =
        .next ((s.wake.discard f.num causeR13 false off).emit (.regValue 0#64)) ∧
      exec (.registerWrite (.window i) off width w) s = .next (s.wake.discard i causeR13 true off))

/-! ## The scheduler -/

/-- A context comes in by the first case of R319: into a free slot, or for a victim of worse priority or of a full slice, or by
a rotation when every resident context is blocked. The victim's commands are pre-empted. When the last clover is done the
incoming context is resident, or donated, and the victim is swapped out (spec 12 R319 to R321, R323). -/
def Obligations.SwitchRowsComplete : Prop :=
  ∀ (s : State) (n : Nat) (p : Part) (x y : Ctx) (w : Switch), s.awake = true → s.part? n = some p →
    (s.entry p = some (.free x) → exec (.contextSwitch n) s = .next (beginSwitch s n x none false).noteSched) ∧
    (s.entry p = some (.swap x y) →
      exec (.contextSwitch n) s = .next (markServed (beginSwitch s n x (some y) false) n).noteSched) ∧
    (s.entry p = some (.rotate x y) → exec (.rotation n) s = .next
      ((markServed (beginSwitch s n x (some y) false) n).modPart n fun q =>
        { q with rotations := satNat32 (q.rotations + 1) }).noteSched) ∧
    (p.switch = some w → w.incoming = some x.id → w.outgoing = some y.id → (∀ c ∈ s.cmds, c.ctx = y.id → c.pastWrite = false) →
      exec (.switchComplete n) s = .next
        ((((setSt ((setSt s x.id (if w.donate then .donated else .resident)).refillWindows n x.id) y.id .swapped).loseWindows
            y.id).modPart n fun q => { q with
          switch := none, switches := satNat32 (q.switches + 2), switchUs := satNat32 (q.switchUs + (s.clk.localUs - w.start))
          donation := q.donation.map fun d => if w.donate then { d with since := s.clk.localUs } else d }).noteSched))

/-- The victim of a switch is a resident context of the partition, and the incoming context is of better priority, or of the
same one with both of them past a SLICE; no victim is taken while a resident slot is free. -/
def Obligations.SwitchVictims : Prop :=
  ∀ (s : State) (p : Part) (x y : Ctx), s.entry p = some (.swap x y) →
    p.foot ≠ 0 ∧ p.switch = none ∧ p.donation = none ∧ s.slotFree p = false ∧ y ∈ s.ctxs ∧ y.part = p.num ∧ y.st = .resident ∧
    x ∈ s.ctxs ∧ x.st = .swapped ∧ s.runnable x = true ∧
    (x.prio < y.prio ∨ (x.prio = y.prio ∧ x.runnableSince ≠ 0 ∧ x.runnableSince - 1 + p.slice ≤ s.clk.localUs ∧
      y.residentSince + p.slice ≤ s.clk.localUs))

/-- A donation begins for the acquire whose wait began first: its holder is loaded into the rotation slot. It ends, with
nothing revoked, once the holder has no unit left or the acquire is over; at the end of QUANTUM what the holder still holds
returns to the count and is recorded as revoked (spec 12 R325, R326; 11 R302). -/
def Obligations.DonationRowsComplete : Prop :=
  ∀ (s : State) (n : Nat) (p : Part) (c : Cmd) (h : Nat) (x : Ctx) (d : Donation), s.awake = true → s.part? n = some p →
    (p.foot ≠ 0 → p.rotationFree = true → s.switchOwed p = false → s.nextDonation p = some (c, h) → s.ctx? h = some x →
      exec (.donationBegin n) s = .next ((beginSwitch s n x none true).modPart n fun q => { q with
        donation := some { holder := h, sem := c.n 0, acquire := c.id, since := s.clk.localUs }
        donations := satNat32 (q.donations + 1) }).noteSched) ∧
    (p.donation = some d → p.switch = none → s.donationOver d = true →
      exec (.donationEnd n) s = .next (s.endDonation n).noteSched) ∧
    (p.donation = some d → p.switch = none → s.donationOver d = false → d.since + p.quantum ≤ s.clk.localUs →
      exec (.donationQuantumExpiry n) s = .next ((revoke s n d).endDonation n).noteSched)

/-! ## Events of generation, epochs, memory and checkpoints -/

/-- The events of generation: a shipped block that fits its waiting request is written into the request's blocks of the pool; the final message with every block there
makes the request ready and answers OK; a request whose blocks are late fails; pins past the limit are dropped between batch
steps; the oldest owed entry is written and its slot freed; budgets refill once a millisecond (spec 07 R187, R188, R192,
R193, R199, R203). -/
def Obligations.GenerationEventsComplete : Prop :=
  ∀ (s : State) (n i : Nat) (p : Part) (g : GenCfg) (r : Req) (b : KvBlock) (m : KvFinal) (f : Iface) (h : W32) (k : Nat)
    (o : Owed), s.part? n = some p → p.gen.cfg = some g →
    (s.windowUp = true → p.kvTarget b.request b.srcModule b.srcPart = some r → kvFits g r b = true →
      exec (.kvBlockReceive n b) s = .next ((s.wake.writeBuffer n g.pool (kvAddr g 0 r.blocks (64 * b.index))
        (b.data.take (b.positions * (passOf 0#16 g 0 []).kvSize))).modPart n fun q => { q with gen := { q.gen with
        reqs := modWhere (·.slot == r.slot) (fun r => { r with kvGot := addOnce b.index r.kvGot }) q.gen.reqs } })) ∧
    (s.windowUp = true → p.gen.reqs.find? (·.ident == m.request) = some r → r.waiting = true →
      field r.src 13 0 = m.srcModule → field r.src 20 16 = m.srcPart → m.fmt = g.kvFmt → m.promptLen = r.promptLen →
      m.blocks = kvBlocks r.promptLen → (∀ j < kvBlocks r.promptLen, r.kvGot.contains j = true) →
      exec (.prefillFinalMessage n m) s = .next ((s.wake.modPart n fun q => { q with gen := { q.gen with
        reqs := modWhere (·.slot == r.slot) (fun r =>
          { r with waiting := false, len := r.promptLen - 1, prefillEpoch := m.epoch }) q.gen.reqs } }).emit
        (.kvAnswer m.request stOK))) ∧
    (s.windowUp = true → p.gen.reqs.find? (·.slot == i) = some r → r.waiting = true → r.kvDeadline ≠ 0 →
      r.admitUs + 1000 * r.kvDeadline ≤ s.clk.localUs →
      exec (.kvDeadlineExpiry n i) s = .next (s.wake.endReq n r endKvFailed true)) ∧
    (s.windowUp = true → p.epo.hasArea .held = true → s.stepping n = false → p.epo.heldAt + 1000 * p.pinLimit ≤ s.clk.localUs →
      exec (.pinDrop n) s = .next (s.wake.dropPins n)) ∧
    (s.live = true → s.clk.refillMs < s.clk.localUs / 1000 → exec .budgetRefill s = .next
      { s with ifaces := s.ifaces.map (·.refill), clk := { s.clk with refillMs := s.clk.refillMs + 1 } }) ∧
    (s.awake = true → s.iface? i = some f → f.part = n → f.cring = some (h, k) →
      p.gen.owed.find? (·.iface == i) = some o → (f.cringWr - f.cringRd).toNat < k →
      exec (.completionEntryWrite i) s = .next
        (((s.writeBuffer n h (32 * (f.cringWr.toNat % k)) (wordsBytes o.words)).modPart n fun q =>
          { q with gen := { q.gen with owed := dropFirst (·.iface == i) q.gen.owed } }).modIface i fun f =>
            { f with cringWr := f.cringWr + 1 }))

/-- The events of a load: an area that has freed is taken, a deadline that passes ends the load with EPOCH_INCOMPLETE, a piece
of a remote partition is placed and the rows it did not bring are asked of the next source, rows that every source refused are
asked again, and a source that does not answer is skipped. A request of another module outside the grants is REFUSED; one for
rows that are held is answered with them. A held copy that frees lets a waiting switch of a prefill take place (spec 10 R259,
R264, R268, R269, R272). -/
def Obligations.EpochEventsComplete : Prop :=
  ∀ (s : State) (n : Nat) (p : Part) (l : Load) (a : Asked) (d : Source) (m : MapEntry) (b : Alloc) (x : Piece) (c : Cmd)
    (q : PieceReq) (got : Option (Nat × Nat)), s.awake = true → s.part? n = some p →
    (p.epo.bud = .waitArea → p.epo.load = some l →
      exec (.budAreaAcquire n) s = .next (advanceLoad (acquire s n) n)) ∧
    (s.windowUp = true → minBy (·.disp) ((s.loadsOf n).filter s.loadExpired) = some c →
      exec (.budDeadlineExpiry n) s = .next (incompleteLoad s.wake n c).noteSched) ∧
    (p.role = rolePrefill → exec (.prefillSwitch n) s = .next ((s.settleHeld n).epochSwitch n)) ∧
    (∀ t : State, p.epo.load = some l → x.epoch = l.epoch → (p.role = roleLearn ∨ p.epo.bud = .loading) →
      l.askedFor x = some a → l.sources[a.source]? = some d → p.epo.map[a.entry]? = some m → s.dest? p a.entry = some b →
      d.storage = false → d.module_ ≠ s.net.moduleId → remotePiece s p a x b = some (t, got) →
      exec (.pieceArrival n x) s = .next (afterAnswer t n a got).noteSched) ∧
    (∀ t : State, p.epo.load = some l → x.epoch = l.epoch → (p.role = roleLearn ∨ p.epo.bud = .loading) →
      l.askedFor x = some a → l.sources[a.source]? = some d → p.epo.map[a.entry]? = some m → s.dest? p a.entry = some b →
      d.storage = false → d.module_ = s.net.moduleId → localPiece s p l a d m b = some (t, got) →
      exec (.pieceArrival n x) s = .next (afterAnswer t n a got).noteSched) ∧
    (∀ t : State, p.epo.load = some l → x.epoch = l.epoch → (p.role = roleLearn ∨ p.epo.bud = .loading) →
      l.askedFor x = some a → l.sources[a.source]? = some d → p.epo.map[a.entry]? = some m → s.dest? p a.entry = some b →
      d.storage = true → objectPiece s p a x m b = some (t, got) →
      exec (.pieceArrival n x) s = .next (afterAnswer t n a got).noteSched) ∧
    (p.epo.load = some l → l.asked.find? (fun a => decide (l.sources.length ≤ a.source) && decide (a.at_ + 100 ≤ s.clk.localUs)) =
      some a → exec (.pieceRetry n) s = .next (ask (dropAsked s n a) n a.entry a.row a.rows 0)) ∧
    (p.epo.load = some l → l.asked.find? (fun a => decide (a.source < l.sources.length) && decide (a.at_ + 1000 ≤ s.clk.localUs)) =
      some a → exec (.pieceRequestTimeout n) s = .next (afterAnswer (skipSource s n l a.source) n a none).noteSched) ∧
    (p.fenced = false → q.fromModule ≠ s.net.moduleId → p.epo.lets q.fromModule q.fromPart = false →
      exec (.pieceRequestReceive n q) s =
        .next (s.wake.emit (.piece q.fromModule q.fromPart q.epoch q.tensorId q.rowLo q.rowCnt .refused))) ∧
    (∀ (t : State) (lo k : Nat) (vals : List Val) (bs : List Byte), p.fenced = false → q.fromModule ≠ s.net.moduleId →
      s.wake.findPiece p q = (t, .rows lo k vals) → bs = encodeRows q.fmt q.dscale k q.colCnt vals →
      exec (.pieceRequestReceive n q) s = .next
        (((countServed t n bs.length).sendMessage n q.fromModule q.fromPart 0 0 false none bs).emit
          (.piece q.fromModule q.fromPart q.epoch q.tensorId lo k (.data bs))))

/-- The events of memory, generators and checkpoints: a queued block of a transposed copy is transposed when its die's engine
comes to its command, and not before; a fetched plan entry
is staged, or noted as spoiled where it reads uncorrectable; a weight that is staged by its deadline is passed, one whose
shadow stands in is passed and counted as late, one whose fetch met an uncorrectable read fails its command, and one that is none of
these waits; a generator refills its table; the timer of an
enabled plan takes a snapshot, or is deferred by a drain; an acknowledged write of a drain is one fewer outstanding (spec 06
R157, R159 to R162; 02 R47 to R50; 05 R118, R120; 13 R338, R345). -/
def Obligations.MemoryEventsComplete : Prop :=
  ∀ (s : State) (n i : Nat) (h : W32) (id : CmdId) (c : Cmd) (p : Part) (x : Ctx) (l : LayerPlan) (a : Alloc),
    (∀ j : Nat, s.awake = true → s.part? n = some p → s.engineTurn (p.engineOf i) = some (n, j) →
      (s.transposes p (p.engineOf i)).contains (j, h, i) = true →
      exec (.transposeBlock n h i) s = .next ({ s with
        shared := { s.shared with turns := Tab.set s.shared.turns (p.engineOf i) (n, j) } }.modAlloc n h (·.transposeBlock i))) ∧
    (s.awake = true → s.part? n = some p → (∀ j, s.engineTurn (p.engineOf i) = some (n, j) →
      (s.transposes p (p.engineOf i)).contains (j, h, i) = false) → exec (.transposeBlock n h i) s = .next s) ∧
    (s.awake = true → s.ctx? n = some x → x.fetch = some (l, i) → s.contents x.part (l.handles.getD i 0#32) = some a →
      exec (.stagingFetchComplete n) s = .next (stageErrors (s.modPlanNo x.id l.serial fun m =>
        if a.uncorr.isEmpty then m.staged i else m.spoiled i) x.part a)) ∧
    (∀ (t : State) (m : LayerPlan), s.awake = true → s.cmd? id = some c → s.part? (s.cmdPart id) = some p → c.plan = some l →
      c.phase = .dispatched → traverses c.opcode = true → c.inserted = true → c.nextEntry = some i → t = s.arriveAt c i →
      t.contents p.num (l.handles.getD i 0#32) = some a → t.schedule c = some m →
      (m.slots.contains (i, true) = true → exec (.weightDeadline id i) s = .next (t.useEntry c i false)) ∧
      (m.slots.contains (i, true) = false → shadowPath p c a = false → m.bad.contains i = false →
        exec (.weightDeadline id i) s = .next (t.modCmd id fun k => { k with waitSince := some (k.waitSince.getD t.clk.localUs) })) ∧
      (m.slots.contains (i, true) = false → shadowPath p c a = false → m.bad.contains i = true →
        exec (.weightDeadline id i) s = .next (t.failRead c)) ∧
      (m.slots.contains (i, true) = false → shadowPath p c a = true → (a.shadow.map (·.uncorr)).getD [] = [] →
        exec (.weightDeadline id i) s = .next ((t.modIface id.iface fun f =>
          { f with lateUses := satNat32 (f.lateUses + 1) }).useEntry c i true))) ∧
    (s.awake = true → s.ctx? n = some x → (Tab.get x.gens i Gen.start).refill = Tab.get x.gens i Gen.start →
      exec (.tableRefill n i) s = .next (s.modCtx x.id fun c => { c with
        gens := c.gens.map fun (t, g) => if t = i then (t, g.refill) else (t, g) })) ∧
    (s.awake = true → s.ctx? n = some x → (Tab.get x.gens i Gen.start).refill ≠ Tab.get x.gens i Gen.start →
      s.part? x.part = some p →
      exec (.tableRefill n i) s = .next ((s.strikeTable x.part (p.firstTile + i) 8192).modCtx x.id fun c => { c with
        gens := c.gens.map fun (t, g) => if t = i then (t, g.refill) else (t, g) })) ∧
    (s.windowUp = true → s.part? n = some p → p.fenced = false → p.ckp.timerDue s.clk.localUs = true → p.ckp.drain = none →
      exec (.ckpTimerExpiry n) s = .next (snapshot s.wake n 1)) ∧
    (s.windowUp = true → s.part? n = some p → p.fenced = false → p.ckp.timerDue s.clk.localUs = true → p.ckp.drain.isSome = true →
      p.ckp.deferred = false → exec (.ckpTimerExpiry n) s = .next (s.wake.modPart n fun q =>
        { q with ckp := { q.ckp with deferred := true, deferrals := satNat32 (q.ckp.deferrals + 1) } })) ∧
    (∀ (q : Qp) (d : Drain) (t : State), s.windowUp = true → s.part? n = some p → p.ckp.drain = some d →
      s.net.qps.find? (fun q => q.work.any (·.ofDrain n)) = some q → d.awaiting ≠ 0 →
      t = ((s.modQp q.port q.num fun u => { u with work := dropFirst (·.ofDrain n) u.work, retriesLeft := u.retry }).modPart n fun u =>
        { u with ckp := { u.ckp with drain := u.ckp.drain.map fun d => { d with awaiting := d.awaiting - 1 } } }) →
      exec (.drainWriteAck n) s = .next (if d.awaiting = 1 then drainStep t n p d else t))

/-! ## The fabric -/

/-- Packets of the Benzel transport that a partition accepts: an ACK acknowledges what lies before its PSN and brings its
credits; a NAK also has what is not acknowledged sent again; both are for flows of this module's incarnation; a CREDIT grants to a sending flow or asks for credits; a CNP
lowers the rate of its path; an ABORT drops the attempt it names (spec 14 R367, R374, R376, R378). -/
def Obligations.BenzelRowsComplete : Prop :=
  ∀ (s : State) (k : Nat) (p : BzPacket) (l : Link) (u : State), Heard s k p l → u = s.heard k →
    (bzType p = tyAck → exec (.benzelAckReceive k p) s =
      .next (if u.answersMe p then
        tryColls (gainCredits (ackFlow u (ownFlow p) (bzPsn p)) (ownFlow p) (field (bzArg p) 15 0)) (ownFlow p).part else u).noteSched) ∧
    (bzType p = tyNak → exec (.benzelNakReceive k p) s =
      .next (if u.answersMe p then tryColls (resend (ackFlow u (ownFlow p) (bzPsn p)) (ownFlow p)) (ownFlow p).part else u).noteSched) ∧
    (bzType p = tyCredit → bzGrant p = true → exec (.benzelCreditReceive k p) s = .next (creditGrant u p).noteSched) ∧
    (bzType p = tyCredit → bzGrant p = false → exec (.benzelCreditReceive k p) s = .next (creditRequest u p).noteSched) ∧
    (∀ w : SendFlow, bzType p = tyCnp → u.answersMe p = true → u.flow? (ownFlow p) = some w →
      exec (.benzelCnpReceive k p) s = .next (lowerRate u (.path w.link w.id.dstModule)).noteSched) ∧
    (bzType p = tyCnp → u.answersMe p = false ∨ u.flow? (ownFlow p) = none →
      exec (.benzelCnpReceive k p) s = .next (u.modNet fun n => { n with cnpRx := sat64 (n.cnpRx + 1) }).noteSched) ∧
    (bzType p = tyAbort → exec (.benzelAbortReceive k p) s = .next (u.modRecv (bzRecv p) fun r => { r with
      aborted := addOnce (field (bzArg p) 23 0, field (bzArg p) 31 24) r.aborted
      held := r.held.filter fun d => !(d.tag == field (bzArg p) 23 0 && d.attempt == field (bzArg p) 31 24) }).noteSched)

/-- A DATA or COLL packet of a known incarnation of its flow is accepted exactly when its PSN is the one expected: then the
receiver expects the next one, and otherwise it expects what it expected (spec 14 R373, R374). -/
def Obligations.DataInOrder : Prop :=
  ∀ (s : State) (k : Nat) (p : BzPacket) (l : Link) (r : RecvFlow), Heard s k p l → (bzType p = tyData ∨ bzType p = tyColl) →
    s.recv? (bzRecv p) = some r → r.incarnation = bzInc p → r.expected < 2 ^ 32 →
    ∃ t, exec (.benzelDataReceive k p) s = .next t ∧
      (t.recv? (bzRecv p)).map (·.expected) = some (if bzPsn p = r.expected then (r.expected + 1) % 2 ^ 32 else r.expected)

/-- The timers of the transport: an acknowledgement 1 µs after the oldest packet that waits for one; retransmission with a
doubled RTO, up to 64 times its base, until MAX_EXP expiries fail the path; a new path or another second of waiting; unused
credits returned after 100 µs; a rate raised after a PERIOD without a notification (spec 14 R367, R374, R375, R376). -/
def Obligations.TransportTimersComplete : Prop :=
  ∀ (s : State) (f : FlowId) (g : RecvId) (w : SendFlow) (r : RecvFlow) (key : RateKey) (t : Nat), s.windowUp = true →
    (s.recv? g = some r → r.oldest = some t → t + 1 ≤ s.clk.localUs → exec (.ackTimerExpiry g) s = .next (sendAck s g)) ∧
    (s.flow? f = some w → w.unacked ≠ [] → w.stuck = none → w.progress + w.rto ≤ s.clk.localUs →
      exec (.rtoExpiry f) s = .next (if field s.net.bzRto 19 16 ≤ w.expiries + 1 then (pathFail s f).noteSched
        else (resend (s.modFlow f fun w => { w with rto := min (2 * w.rto) (64 * field s.net.bzRto 15 0)
                                                    expiries := w.expiries + 1, progress := s.clk.localUs }) f).noteSched)) ∧
    (s.flow? f = some w → w.stuck = some t → t + 1000000 ≤ s.clk.localUs →
      exec (.pathRetry f) s = .next (match s.nextLink f.part w.link with
        | some k => takePath s f k
        | none => s.modFlow f fun w => { w with stuck := some s.clk.localUs })) ∧
    (s.flow? f = some w → 0 < w.credits → w.unsent = [] → w.stuck = none → w.lastUse + 100 ≤ s.clk.localUs →
      exec (.creditReturnTimer f) s = .next
        ((s.modFlow f fun w => { w with credits := 0 }).emitControl w tyCredit 0 (BitVec.ofNat 32 (w.credits % 2 ^ 16 + 2 ^ 16)))) ∧
    exec (.ratePeriod key) s = .next (s.modNet fun n => { n with
      rates := modWhere (fun r => r.key == key && decide (r.lastEvent + field n.rcCfg 23 8 ≤ s.clk.localUs)) (fun r =>
        { r with kbps := min (r.kbps + lineRate key / 2 ^ field n.rcCfg 7 4) (lineRate key), lastEvent := s.clk.localUs }) n.rates })

/-- A message of a collective whose command has not been dispatched waits for it; one of a collective in progress, with its
DIGEST and not yet there, is taken, and the collective goes on; another DIGEST ends the command with BAD_PACKET (spec 14 R382;
09 R242; that an early message waits is the model's reading, log 38). -/
def Obligations.CollectiveMessages : Prop :=
  ∀ (s : State) (n : Nat) (m : CollMsg) (p : Part) (x : Coll), s.awake = true → s.part? n = some p →
    (p.collFor m = none → p.shut.contains (msgKey m) = false →
      exec (.collPacketReceive n m) s = .next (s.wake.modPart n fun q => if q.shut.contains (msgKey m) then q
        else { q with early := q.early ++ [m] }).noteSched) ∧
    (∀ (u : State) (y : Coll), p.collFor m = some x → m.digest = x.digest → x.msgFrom m.owner m.rank = none →
      u = modColl s.wake n x.cmd (fun y => { y with got := y.got ++ [m] }) → (u.part? n).bind (·.coll? x.cmd) = some y →
      exec (.collPacketReceive n m) s = .next (collTry (collAdvance u n y) n x.cmd).noteSched) ∧
    (p.collFor m = some x → m.digest ≠ x.digest →
      exec (.collPacketReceive n m) s = .next (collMismatch s.wake n x).noteSched)

/-! ## The host ports -/

/-- An RDMA WRITE to the queue area is acknowledged, and the area then reads as written and elsewhere as before; one whose key
or range the queue pair has no right to is answered with a NAK and changes no queue area (spec 11 R279, R293; 14 R363, R364). -/
def Obligations.HostWritesQueueArea : Prop :=
  ∀ (s : State) (port : Nat) (r : RdmaWrite) (q : Qp) (f : Iface), port < 4 → Mem.wf zeroByte f.qarea = true →
    s.responder? port r.qpn = some (q, f) →
    (s.region? f port r.rkey = some (.qarea f.num) → r.offset + r.data.length ≤ 2 * mib →
      ∃ t g, exec (.roceRdmaWrite port r) s = .next t ∧ t.iface? f.num = some g ∧
        (∀ i (h : i < r.data.length), Mem.get g.qarea zeroByte (r.offset + i) = r.data[i]) ∧
        ∀ a, (a < r.offset ∨ r.offset + r.data.length ≤ a) → Mem.get g.qarea zeroByte a = Mem.get f.qarea zeroByte a) ∧
    ((∀ x, s.region? f port r.rkey = some x → x.size < r.offset + r.data.length) →
      exec (.roceRdmaWrite port r) s = .next ((noteCongestion s.wake q r.ce).sendRoce q .nak).noteSched)

/-- The rows of the host ports as responder and requester: a write to an exposed allocation, a read of one, a congestion
notification, an answer to a reply that was sent, an error and a timeout of a queue pair (spec 14 R363 to R367; 06 R166). -/
def Obligations.HostPortRowsComplete : Prop :=
  ∀ (s : State) (port n : Nat) (w : RdmaWrite) (r : RdmaRead) (q : Qp) (f : Iface) (p : Nat) (h : W32) (z : Nat), port < 4 →
    (s.responder? port w.qpn = some (q, f) → s.region? f port w.rkey = some (.alloc p h z) →
      w.offset + w.data.length ≤ z → exec (.roceRdmaWrite port w) s =
        .next (((hostWrite (noteCongestion s.wake q w.ce) p h w.offset w.data).received q w.data.length).sendRoce q .ack).noteSched) ∧
    (∀ i, s.responder? port w.qpn = some (q, f) → s.region? f port w.rkey = some (.window i) →
      w.offset + w.data.length ≤ 0x10000 → exec (.roceRdmaWrite port w) s =
        .next (((windowWrite (noteCongestion s.wake q w.ce) i w.offset w.data.length (BitVec.ofNat 64 (leNat (w.data.take 8)))).received q
          w.data.length).sendRoce q .ack).noteSched) ∧
    (s.responder? port w.qpn = some (q, f) → s.region? f port w.rkey = some .mailbox →
      w.offset + w.data.length ≤ 4096 → exec (.roceRdmaWrite port w) s =
        .next (((mailboxWrite (noteCongestion s.wake q w.ce) w.offset w.data).received q w.data.length).sendRoce q .ack).noteSched) ∧
    (∀ a : Alloc, s.responder? port r.qpn = some (q, f) → s.region? f port r.rkey = some (.alloc p h z) → r.offset + r.len ≤ z →
      (noteCongestion s.wake q r.ce).contents p h = some a → unitsHit a a.uncorr r.offset (r.offset + r.len) = [] →
      exec (.roceRdmaRead port r) s = .next ((((noteCongestion s.wake q r.ce).received q r.len).noteSend (.qp port r.qpn)).sendRoce q
        (.data (a.bytes r.offset r.len))).noteSched) ∧
    (s.responder? port n = some (q, f) → exec (.roceCnpReceive port n) s = .next (lowerRate s.wake (.qp port n))) ∧
    (∀ (id : CmdId) (x : QpReq) (rest : List QpReq) (bs : List Byte) (ce : Bool), s.responder? port n = some (q, f) → q.work = x :: rest →
      x.work = .reply id → exec (.roceResponseReceive port n ⟨bs, ce⟩) s =
        .next ((noteCongestion s.wake q ce).modQp port n fun q => { q with work := rest, retriesLeft := q.retry }).noteSched) ∧
    (∀ (x : QpReq) (m : Nat) (bs : List Byte) (ce : Bool), s.responder? port n = some (q, f) → q.work.head? = some x → x.work = .drain m →
      exec (.roceResponseReceive port n ⟨bs, ce⟩) s = .next (drainAckOn (noteCongestion s.wake q ce) m q).noteSched) ∧
    (∀ (c : CmdId) (tag : Nat) (x : QpReq) (rest : List QpReq) (bs : List Byte) (ce : Bool), s.responder? port n = some (q, f) →
      q.work = x :: rest → x.work = .read c tag → bs.length = x.len → exec (.roceResponseReceive port n ⟨bs, ce⟩) s =
        .next (((noteCongestion s.wake q ce).modQp port n fun q => { q with work := rest, retriesLeft := q.retry }).modCmd c fun k =>
          { k with reads := k.reads.filter (·.1 != tag) ++ [(tag, bs)] }).noteSched) ∧
    (s.liveQp? port n = some q → exec (.qpError port n) s = .next (qpFails s.wake q).noteSched) ∧
    (s.liveQp? port n = some q → q.work ≠ [] → exec (.acknowledgementTimeout port n) s =
      .next (if q.retriesLeft = 0 then (qpFails s.wake q).noteSched
        else resendWork (s.wake.modQp port n fun q => { q with retriesLeft := q.retriesLeft - 1 }) q))

/-- The ports: training ends in a link that is up with the configuration of that moment; a link or port that goes down trains
again and is recorded; a second of training without success starts it again; a link without a frame for 20 µs enters low-power
idle; a frame with a bad check sequence is counted (spec 14 R361, R362, R375, R390). -/
def Obligations.PortRowsComplete : Prop :=
  ∀ (s : State) (k : Nat) (l : Link) (h : HostPort), s.portsOn = true →
    (k < 32 → s.link? k = some l → l.training = true → s.flt.safe = false → s.linkMayRun k l = true → s.linkBusy k = false →
      l.seed = false → exec (.linkUp (.link k)) s = .next ((s.useFresh.modLink k fun l =>
        l.comeUp s.net (Config.freeBool 1 s.fresh) s.clk.localUs).emit (.resolve k l.nh))) ∧
    (k < 4 → s.flt.safe = false → exec (.linkUp (.host k)) s = .next (s.modPort k fun h =>
      if h.training then { h with up := true, training := false, pausedSince := none } else h)) ∧
    (k < 32 → s.link? k = some l → l.up = true →
      exec (.linkDown (.link k)) s = .next ((takeLinkDown s k).trainLink k).noteSched) ∧
    (k < 4 → s.port? k = some h → h.up = true →
      exec (.linkDown (.host k)) s = .next ((takePortDown s k).trainPort k).noteSched) ∧
    (k < 4 → s.port? k = some h → h.training = true → h.trainStart + 1000000 ≤ s.clk.localUs →
      exec (.trainingRestart (.host k)) s = .next ((s.modPort k fun h => { h with trainStart := s.clk.localUs }).detect
        { source := 0x41, inst := k, part := none, info := s.portInfo k, cmd := none })) ∧
    (k < 32 → exec (.lpiEntry k) s = .next (s.modLink k fun l =>
      if l.up && l.lpi && decide (l.lastFrame + 20 ≤ s.clk.localUs) then { l with asleep := true } else l)) ∧
    exec (.frameDiscard (.link k) true) s =
      .next (s.modLink k fun l => if l.up then { l with badFcs := sat64 (l.badFcs + 1) } else l) ∧
    exec (.frameDiscard (.link k) false) s = .next s

/-- Addresses and next hops: ARP, Neighbour Solicitation and echo requests for an address of the port are answered; a next hop
is resolved again every 30 s, and its address is kept (spec 14 R369). -/
def Obligations.AddressRowsComplete : Prop :=
  ∀ (s : State) (port : Port) (a : W32) (b : BitVec 128) (n : W32) (k : Nat) (l : Link) (mac : BitVec 48),
    (s.ownsV4 port a = true → exec (.arpRequest port a) s = .next (s.answerOn port (.arpReply port))) ∧
    (s.ownsV6 port b = true → exec (.neighbourSolicitation port b) s = .next (s.answerOn port (.neighbourAdvert port)) ∧
      exec (.echoRequest port b true n) s = .next (s.answerOn port (.echoReply port n))) ∧
    (s.ownsV4 port (b.truncate 32) = true → b.toNat < 2 ^ 32 →
      exec (.echoRequest port b false n) s = .next (s.answerOn port (.echoReply port n))) ∧
    (k < 32 → s.portsOn = true → s.link? k = some l → l.up = true → s.flt.safe = false →
      l.resolvedAt + 30000000 ≤ s.clk.localUs → exec (.nextHopRefresh k) s =
        .next (((s.modLink k fun l => { l with resolvedAt := s.clk.localUs }).frameOut k).emit (.resolve k l.effNh))) ∧
    (k < 32 → s.portsOn = true →
      exec (.nextHopResolved k mac) s = .next (s.modLink k fun l => if l.up then { l with mac := some mac } else l))

/-- Priority pause on a lossless host port: a pause frame on its priority pauses it from its first frame on and a frame with time
zero resumes it and lets out what the pause held back, in order; a pause of 100 ms makes the port ignore pause frames for a second, counted and recorded with source 0x42
(spec 14 R366). -/
def Obligations.PriorityPause : Prop :=
  ∀ (s : State) (k prio : Nat) (h : HostPort), s.portsOn = true → k < 4 → s.port? k = some h →
    (h.up = true → h.lossless = true → h.prio = prio → h.pfcIgnored = false → s.flt.safe = false →
      ∃ t g, exec (.pfcFrameReceive (.host k) prio true) s = .next t ∧ t.port? k = some g ∧
        g.pausedSince = some (h.pausedSince.getD s.clk.localUs)) ∧
    (h.up = true → h.lossless = true → h.prio = prio → h.pfcIgnored = false → s.flt.safe = false →
      ∃ t g, exec (.pfcFrameReceive (.host k) prio false) s = .next t ∧ t.port? k = some g ∧ g.pausedSince = none ∧ g.waits = [] ∧
        t.out = s.out ++ h.waits.map fun x => .roce x.1 x.2) ∧
    (∀ since, h.pausedSince = some since → since + 100000 ≤ s.clk.localUs →
      exec (.pfcWatchdog k) s = .next (((s.modPort k fun h => { h with
        pfcIgnored := true, ignoreUntil := s.clk.localUs + 1000000, pausedSince := none, waits := [] }).modNet fun n =>
          { n with pfcWd := sat64 (n.pfcWd + 1) }).detect
        { source := 0x42, inst := k, part := none, info := s.portInfo k, cmd := none }).noteSched) ∧
    (h.pfcIgnored = true → h.ignoreUntil ≤ s.clk.localUs →
      ∃ t g, exec (.pfcIgnoredEnd k) s = .next t ∧ t.port? k = some g ∧ g.pfcIgnored = false)

/-! ## Faults -/

/-- The collector in a phase in which it works: a detection is recorded with its reactions and what follows it; a self-fault
enters the safe state and keeps Milpeost's own record; writing 1 to PENDING clears a record's PENDING and COUNT; a severity is
set unless the source is locked or reserved or the code is reserved; arming with a count arms the injection, and is a self-fault
where a mask is armed on the collector's own registers (spec 15 R393, R395, R398, R400,
R402; that a self-fault's notification names source 0x58 is in R400). -/
def Obligations.FaultRowsComplete : Prop :=
  ∀ (s : State) (d : Detection) (n : Nat) (v : W32), s.collectorUp = true →
    (d.source < 0x60 → d.source ≠ 0x58 → d.source ≠ 0x05 →
      exec (.faultDetect d) s = .next (afterDetection (s.detect (s.asRecorded d)) d).drainNext.noteSched) ∧
    (∃ t, exec .collectorSelfFault s = .next t ∧ t.flt.safe = true ∧ t.flt.self = true ∧ t.flt.lastResort = true ∧
      t.faultN = true) ∧
    (n < 0x60 → s.mgmtOn = true → s.flt.safe = false → (sourceScope n).isSome = true → bitAt v 0 = true →
      exec (.recordClear n v) s = .next (s.modFlt (·.clearRec n))) ∧
    (n < 0x60 → s.mgmtOn = true → (sourceScope n).isSome = true → sourceLocked n = false → field v 2 0 ≤ 4 →
      exec (.severityWrite n v) s = .next (s.modFlt fun f => { f with sev := f.sev.set n (field v 2 0) })) ∧
    (n < 0x60 → s.mgmtOn = true → (sourceLocked n = true ∨ 4 < field v 2 0 ∨ sourceScope n = none) →
      exec (.severityWrite n v) s = .next s) ∧
    (s.mgmtOn = true → (field s.flt.injSel 3 0 ≠ 7 ∨ s.flt.injMask = 0#32) →
      exec (.injectionArm v) s = .next (s.modFlt fun f => { f with injCount := field v 15 0, armed := decide (0 < field v 15 0) })) ∧
    (s.mgmtOn = true → field s.flt.injSel 3 0 = 7 → s.flt.injMask ≠ 0#32 → 0 < field v 15 0 →
      ∃ t, exec (.injectionArm v) s = .next t ∧ t.flt.safe = true ∧ t.flt.armed = true) ∧
    (0x60 ≤ n → exec (.recordClear n v) s = .fault .noSuchUnit ∧ exec (.severityWrite n v) s = .fault .noSuchUnit)

/-- In the safe state a detection leaves a record and nothing else: no command fails, no partition is fenced, no allocation or
partition changes. -/
def Obligations.SafeStateOnlyRecords : Prop :=
  ∀ (s : State) (d : Detection), s.flt.safe = true →
    (s.detect d).flt.safe = true ∧ (s.detect d).cmds = s.cmds ∧ (s.detect d).allocs = s.allocs ∧ (s.detect d).ctxs = s.ctxs ∧
    (s.detect d).parts.map (fun p => (p.num, p.fenced, p.epo, p.gen, p.rules, p.sems, p.step)) =
      s.parts.map (fun p => (p.num, p.fenced, p.epo, p.gen, p.rules, p.sems, p.step))

/-- A source at severity CONTAIN fences every partition that the detection affects: and no partition goes or comes
(spec 15 R393, R394, R396). -/
def Obligations.ContainFences : Prop :=
  ∀ (s : State) (d : Detection), s.flt.safe = false → (sourceScope d.source).isSome = true →
    sourceScope d.source ≠ some .c → s.severity d.source = sevContain →
    (∀ n ∈ s.affected d, (s.part? n).isSome = true → ((s.detect d).part? n).map (·.fenced) = some true) ∧
    (s.detect d).parts.map (·.num) = s.parts.map (·.num)

/-! ## Maintenance -/

/-- Tokens: the class's first waiting request that no held token and no earlier waiting request conflicts with is granted, and
its activity begins; a scrub that holds its token gives it up to a conflicting request and asks again (spec 15 R407 to R410). -/
def Obligations.TokenRowsComplete : Prop :=
  ∀ (s : State) (cls : Nat) (t : Token), cls < 9 → s.awake = true →
    (nextGrant s.maint cls [] s.maint.waiting = some t → exec (.tokenGrant cls) s = .next (takeToken s t).noteSched) ∧
    (s.holds (scrubToken cls) = true → s.maint.waiting.any (fun u => clash u (scrubToken cls)) = true →
      exec (.scrubYield cls) s = .next ((s.releaseToken (scrubToken cls)).requestToken (scrubToken cls)))

/-- Tokens that conflict are never held together, and no token twice: granting keeps it so. -/
def Obligations.GrantsKeepTokensApart : Prop :=
  ∀ (s : State) (cls : Nat) (t : Token), s.maint.held.Pairwise (fun a b => clash a b = false) →
    nextGrant s.maint cls [] s.maint.waiting = some t →
    t ∈ s.maint.waiting ∧ t.cls = cls ∧ (s.maint.held ++ [t]).Pairwise (fun a b => clash a b = false)

/-- The scrubs, in a module that runs: a scrub that holds its token corrects what can be corrected in its granule of the
allocations of its tier with a handle and nothing else, the patrol scrub reads the error counts of the granule's channels besides,
and a tile's scrub does so for the tile; an uncorrectable location stays, and so does every byte (spec 06
R166, R168, R169; 15 R410). -/
def Obligations.ScrubRowsComplete : Prop :=
  ∀ (s : State) (h : W32) (g tile : Nat), s.live = true → s.pwr.state.toNat ≤ 1 →
    (s.holds (scrubToken 0) = true → s.allocs.any (fun a => a.handle == h && a.home == .hbm) = true →
      exec (.hbmScrub h g) s = .next ((s.writeBack (inGranule .hbm h g)).modMaint fun m =>
        { m with scrubAt := Tab.set m.scrubAt 0 g })) ∧
    (s.holds (scrubToken 2) = true → s.allocs.any (fun a => a.handle == h && a.home == .ddr) = true →
      exec (.ddr5PatrolScrub h g) s = .next ((s.scrubChannels h g).foldl readEcs
        ((s.writeBack (inGranule .ddr h g)).modMaint fun m => { m with scrubAt := Tab.set m.scrubAt 2 g }))) ∧
    (tile < 128 → exec (.tileMemoryScrub tile) s = .next (s.tileScrubbed tile)) ∧
    (∀ hit, (s.writeBack hit).allocs.map (fun a => (a.part, a.handle, a.mem, a.uncorr)) =
      s.allocs.map (fun a => (a.part, a.handle, a.mem, a.uncorr)))

/-- Repairs that hold their token, and complete: an HBM row, a retuned port, a seed tile, a seed row, a vector lane, a seed
lane. Activities that the module starts by time ask for their token, and under it they complete and release it, and nothing else
changes: sensors, the random table of a die (spec 02 R30, R31; 05 R120; 14 R384; 15 R403 to R405, R409; 16 R434). -/
def Obligations.RepairRowsComplete : Prop :=
  ∀ (s : State) (k tile row lane link : Nat) (port : Port), s.live = true →
    exec .sensorRecalibration s = .next (if s.holds sensorToken then s.releaseToken sensorToken else s.requestToken sensorToken) ∧
    (k < 8 → exec (.randomTableRekey k) s =
      .next (if s.holds (rekeyToken k) then s.releaseToken (rekeyToken k) else s.requestToken (rekeyToken k))) ∧
    (k < 8 → s.holds (repairToken k) = true → ∃ t, exec (.hbmRowRepair k) s = .next t ∧ t.holds (repairToken k) = false) ∧
    (s.holds (serdesToken port) = true →
      exec (.serdesRetune port) s = .next (trainAgain (s.releaseToken (serdesToken port)) port)) ∧
    (tile < 128 → s.holds (tileToken tile) = true → exec (.seedTileSwap tile) s =
      .next (((((s.releaseToken (tileToken tile)).modMaint (·.seeded tile)).mapRepair repairTile tile).detect
        (unitFault 0x08 tile (s.tileOwner tile))).noteSched)) ∧
    (tile < 128 → s.holds (rowToken tile row) = true →
      ∃ t, exec (.seedRowSwap tile row) s = .next t ∧ t.holds (rowToken tile row) = false) ∧
    (tile < 128 → lane < 64 → s.onTile tile = [] → Tab.get s.maint.lanes tile 0 < 2 → exec (.vectorLaneReplace tile lane) s =
      .next ((((s.modMaint (·.laneIdle tile lane)).modMaint (·.laneOut tile)).mapRepair repairLane (tile * 64 + lane)).detect
        (unitFault 0x06 tile (s.tileOwner tile)))) ∧
    (tile < 128 → lane < 64 → s.onTile tile = [] → 2 ≤ Tab.get s.maint.lanes tile 0 → exec (.vectorLaneReplace tile lane) s =
      .next (markFailing (s.modMaint (·.laneIdle tile lane)) tile)) ∧
    (lane < 2 → link < 32 → s.holds (laneToken lane link) = true → (s.link? link).isSome = true →
      ∃ t l, exec (.seedLaneSwap lane link) s = .next t ∧ t.link? link = some l ∧ l.seed = true ∧ l.failed = false)

/-! ## Power and temperature -/

/-- The rows of the power block, of which those of the thermal sensors, coolant, wear and calibration act whenever Milpeost runs and
the others in a module that runs: Doze after DOZE_IDLE of idleness; the brake; the thermal loop and guard;
a measured window; the sensors of coolant and memory modules; wear; energy; a user calibration value (spec 16 R414, R420, R422
to R428, R431; 12 R328; 06 R171). -/
def Obligations.PowerRowsComplete : Prop :=
  ∀ (s : State) (n m c : Nat) (v : W32) (i x : Tab Nat), s.mgmtOn = true →
    (s.phase = .running → s.flt.safe = false → s.pwr.state = 1#3 → field s.pwr.cfg 15 0 ≠ 0 → s.quiet = true →
      s.pwr.idleSince + field s.pwr.cfg 15 0 ≤ s.clk.localUs → exec .dozeEntry s = .next (s.setPower 2#3)) ∧
    (s.phase = .running → exec (.powerWindow n) s = .next (powerWindow s n).noteSched) ∧
    (s.phase = .running → s.pins.pwrbrkN = true → ∃ t, exec .pwrbrkAssert s = .next t ∧ t.pins.pwrbrkN = false ∧ 1 ≤ t.pwr.brake ∧ t.pwr.brake ≤ 16) ∧
    exec .pwrbrkDeassert s = .next { s with pins := { s.pins with pwrbrkN := true }, pwr := { s.pwr with brake := 16 } } ∧
    (10100 ≤ n → exec (.thermalGuard n) s = .next (s.modPwr fun p => { p with guard := true })) ∧
    (n < 9900 → exec (.thermalGuardRelease n) s = .next (s.modPwr fun p => { p with guard := false })) ∧
    (∃ t, exec (.coolantRead n m) s = .next t ∧ t.pwr.flow = BitVec.ofNat 32 (satNat16 (gainBy s.pwr 0x15 m)) ∧
      t.pwr.flowOut = decide (gainBy s.pwr 0x15 m < 200)) ∧
    (s.phase = .running → c < 8 → s.fit.channels.any (·.1 == c) = true → ∃ t, exec (.rdimmTempRead c n) s = .next t ∧
      (t.pwr.doubled.contains c = decide (8500 < n)) ∧ (9500 < n → t.pwr.halved.contains c = true) ∧
      (n < 9000 → t.pwr.halved.contains c = false)) ∧
    exec (.wearSample n) s = .next (s.modPwr fun p => { p with stress := p.stress + secondStress n, powered := p.powered + 1 }) ∧
    (s.pwr.powered ≠ 0 → s.pwr.powered % 86400 = 0 → exec .wearUpdate s = .next (wearUpdate s).noteSched) ∧
    (s.phase = .running → exec (.energyRecalibration i x) s = .next { s with
      parts := s.parts.map fun p => { p with idleEnergy := sat64 (p.idleEnergy + Tab.get i p.num 0) }
      ctxs := s.ctxs.map fun y => { y with acct := { y.acct with energy := sat64 (y.acct.energy + Tab.get x y.id 0) } }
      ifaces := s.ifaces.map fun f => { f with acct := { f.acct with
        energy := sat64 (f.acct.energy + ((s.ctxs.filter (·.iface == f.num)).map fun y => Tab.get x y.id 0).foldl (· + ·) 0) } } }) ∧
    (calItemUsed (field s.pwr.calSel 7 0) = true → ∃ t, exec (.calUserWrite v) s = .next t ∧
      Tab.get t.pwr.user (field s.pwr.calSel 7 0) 0#32 = v)

/-- The thermal loop: its fraction is taken, source 0x50 is recorded when it first reduces, and 0x51 from 105 °C on, whose
severity is FATAL and locked, so the module is then in the safe state (spec 16 R424, R425; 15 Table 15-1). -/
def Obligations.ThermalLoopReacts : Prop :=
  ∀ (s : State) (r : ThermalReading), s.mgmtOn = true →
    ∃ t, exec (.thermalLoop r) s = .next t ∧ t.pwr.therm = min r.fraction 16 ∧
      (10500 ≤ offsetBy s.pwr r.sensor r.hottest → sevFatal ≤ s.severity 0x51 → t.flt.safe = true)

/-- The allowance after a window of the measured power: A rises and falls by the difference to 1,800 W over 2 µs, in
nanojoules, never above A_max; the peak loop's fraction stays between 1/16 and 16/16. -/
def Obligations.WindowMovesTheAllowance : Prop :=
  ∀ (s : State) (n : Nat), s.phase = .running → 1 ≤ s.pwr.gov → s.pwr.gov ≤ 16 →
    ∃ t, exec (.powerWindow n) s = .next t ∧
      t.pwr.allow = min (s.pwr.allow + ((1800000 : Int) - gainBy s.pwr 0x20 n) * 2) ((s.pwr.allowMax : Int) * 1000000) ∧
      1 ≤ t.pwr.gov ∧ t.pwr.gov ≤ 16

/-! ## Pins -/

/-- Events on the pins: the standby rail comes up in Dormant and the input's loss clears everything volatile; PWR_EN brings up
the rails and takes the module to Dormant; RESET_N holds the module in reset and releases it to boot; the thermal trip turns the
rails off; the references' return lets boot begin; the reference deviation and the I3C address are taken (spec 16 R416, R425,
R429; 18 R458, R464 to R469). -/
def Obligations.PinRowsComplete : Prop :=
  ∀ (s : State) (n : Nat) (v : W32) (a : BitVec 7),
    (s.phase = .off → 40000 ≤ n → n ≤ 60000 → exec (.inputApplied n) s = .next { s with
      pins := { s.pins with vin := n }, phase := .dormant, pwr := { s.pwr with state := 5#3 } }) ∧
    (s.phase ≠ .off → n < 36000 → exec (.inputApplied n) s = .next (loseInput s n)) ∧
    (s.phase ≠ .off → exec .inputLoss s = .next (loseInput s 0)) ∧
    (s.phase = .dormant → s.pins.booted = false →
      exec .pwrEnAssert s = .next (rampRails (s.modPins fun p => { p with pwrEn := true }))) ∧
    (s.phase = .running → exec .pwrEnDeassert s = .next (enterDormant (s.modPins fun p => { p with pwrEn := false }) true)) ∧
    (100 ≤ n → s.phase = .running → exec (.resetAssert n) s = .next { s.endSession with
      phase := .inReset, pins := { s.pins with resetN := false, booted := false, i3c := none } }) ∧
    (n < 10 → exec (.resetAssert n) s = .next s) ∧
    (s.phase = .inReset → s.pins.pwrGood = true → s.pins.refsOk = true →
      exec .resetRelease s = .next (boot (s.modPins fun p => { p with resetN := true }))) ∧
    (s.phase = .inReset → s.pins.pwrGood = true → s.pins.resetN = true →
      exec .referenceInTolerance s = .next (boot (s.modPins fun p => { p with refsOk := true }))) ∧
    (s.phase = .running → exec .thermtrip s = .next { s.endSession with
      phase := .tripped, pins := { s.pins with pwrGood := false, thermtrip := true, booted := false, i3c := none } }) ∧
    (s.phase = .running → exec (.refDevUpdate v) s = .next { s with clk := { s.clk with refDev := v } }) ∧
    (s.phase = .running → exec (.entdaa a) s = .next { s with pins := { s.pins with i3c := some a } })

/-- Everything volatile ends with a session: no partition, interface, context, allocation, command or key is left, every record
is clear and every register of the network and power blocks is at its reset value, while the fuses, the slots, the seed map, the
calibration that was saved and the wear stay (spec 15 R398; 18 R467, R469). -/
def Obligations.SessionEndsClean : Prop :=
  ∀ s : State,
    s.endSession.parts = [] ∧ s.endSession.ifaces = [] ∧ s.endSession.ctxs = [] ∧ s.endSession.allocs = [] ∧
    s.endSession.cmds = [] ∧ s.endSession.boards = [] ∧ s.endSession.shared = State.reset.shared ∧ s.endSession.keys = [] ∧ s.endSession.flt.recs = [] ∧ s.endSession.flt.safe = false ∧
    (∀ n < 96, s.endSession.severity n = sourceDefault n) ∧ s.endSession.clk.localUs = 0 ∧
    s.endSession.net.flows = [] ∧ s.endSession.net.qps = [] ∧ s.endSession.pwr.cfg = 0x64#32 ∧
    s.endSession.mgt.fuses = s.mgt.fuses ∧ s.endSession.mgt.slotA = s.mgt.slotA ∧ s.endSession.mgt.slotB = s.mgt.slotB ∧
    s.endSession.mgt.key = s.mgt.key ∧ s.endSession.mgt.ctr = s.mgt.ctr ∧ s.endSession.maint.repair = s.maint.repair ∧
    s.endSession.pwr.saved = s.pwr.saved ∧ s.endSession.pwr.stress = s.pwr.stress ∧ s.endSession.fit = s.fit

/-! ## Management -/

/-- The queries, for a request that its path and its state admit: the status, an object that was produced, the certificates, the
evidence for a nonce, the log of the session before, telemetry, and registers of the management space or of an interface's
control window. Bodies are laid out by log 14 (spec 17 R447, R450, R453). -/
def Obligations.MgmtQueriesAnswer : Prop :=
  ∀ (s : State) (r : MgmtReq) (u : State) (o : Nat × List Byte) (f : Iface),
    (Admitted s 0x01 false r → r.body = [] → u = s.noted false r →
      exec (.statusGet r) s = s.doneOk u 0x01 false r [u.mgtStatus, u.mgt.svnWord, u.mgt.fwVer]) ∧
    (Admitted s 0x02 (bulkAuth r.body) r → r.body.length = 2 → u = s.noted (bulkAuth r.body) r →
      u.mgt.produced.find? (·.1 == bulkObject r.body) = some o →
      exec (.bulkRead r) s = s.doneOk u 0x02 (bulkAuth r.body) r (bytesWords 256 (o.2.drop (bodyNat r.body 1)))) ∧
    (Admitted s 0x03 false r → r.body = [] → u = s.noted false r →
      exec (.identGet r) s = s.doneOk (u.produced 0x03 u.mgt.identObject) 0x03 false r
        [BitVec.ofNat 32 u.mgt.identObject.length]) ∧
    (Admitted s 0x04 false r → r.body.length = 8 → u = s.noted false r →
      exec (.evidenceGet r) s = s.doneOk (u.produced 0x04 (u.evidence r.body)) 0x04 false r
        [BitVec.ofNat 32 (u.evidence r.body).length]) ∧
    (Admitted s 0x05 true r → r.body = [] → u = s.noted true r →
      exec (.logRead r) s = s.doneOk (u.produced 0x05 (logBytes u.flt.prevLog)) 0x05 true r
        [BitVec.ofNat 32 (logBytes u.flt.prevLog).length]) ∧
    (Admitted s 0x06 true r → r.body = [] → u = s.noted true r →
      exec (.telemGet r) s = s.doneOk u 0x06 true r u.telemetry) ∧
    (Admitted s 0x10 true r → r.body.length = 3 → bodyNat r.body 0 = mgmtSpace → u = s.noted true r →
      rangeOk mgmtWide (bodyNat r.body 1) (bodyNat r.body 2) = true → bodyNat r.body 1 + 4 * bodyNat r.body 2 ≤ 2 ^ 32 →
      exec (.regRead r) s = s.doneOk (((List.range (bodyNat r.body 2)).map fun i => bodyNat r.body 1 + 4 * i).foldl mgmtAfterRead u)
        0x10 true r (((List.range (bodyNat r.body 2)).map fun i => bodyNat r.body 1 + 4 * i).map u.mgmtWord)) ∧
    (Admitted s 0x10 true r → r.body.length = 3 → bodyNat r.body 0 ≠ mgmtSpace → u = s.noted true r →
      u.iface? (bodyNat r.body 0) = some f →
      rangeOk windowWide (bodyNat r.body 1) (bodyNat r.body 2) = true → bodyNat r.body 1 + 4 * bodyNat r.body 2 ≤ 0x10000 →
      exec (.regRead r) s = s.doneOk
        (u.modIface f.num fun f => ((List.range (bodyNat r.body 2)).map fun i => bodyNat r.body 1 + 4 * i).foldl Iface.afterRead f)
        0x10 true r (((List.range (bodyNat r.body 2)).map fun i => bodyNat r.body 1 + 4 * i).map (u.windowWord f)))

/-- Requests about partitions, interfaces and queue pairs that are admitted and obey every rule: each changes what it names and
completes with OK (spec 12 R306, R307, R309, R310, R312; 07 R188; 14 R364, R365; 17 R447, R448). -/
def Obligations.TenantRowsComplete : Prop :=
  ∀ (s : State) (r : MgmtReq) (u t : State) (ks : List W32) (p : Part) (f : Iface) (q : Qp), u = s.noted true r →
    (Admitted s 0x20 true r → r.body.length = 12 → descrReserved r.body = true → (descrOf r.body).ok u = true → u.pwr.state ≠ 4#3 →
      (descrOf r.body).fitted u = true → (descrOf r.body).room u = true →
      (u.withPart (descrOf r.body)).addIface (descrOf r.body).num (descrOf r.body).firstIf (descrOf r.body).host 0
        (descrOf r.body).slots = some (t, ks) →
      exec (.partCreate r) s = s.doneOk t 0x20 true r ks) ∧
    (Admitted s 0x21 true r → r.body.length = 1 → u.part? (bodyNat r.body 0) = some p →
      ∃ t, exec (.partDestroy r) s = .next t ∧ t.part? p.num = none ∧ (∀ a ∈ t.allocs, a.part ≠ p.num) ∧
        (∀ x ∈ t.ctxs, x.part ≠ p.num) ∧ ∀ i ∈ t.ifaces, i.part ≠ p.num) ∧
    (Admitted s 0x22 true r → r.body.length = 5 → u.part? (bodyNat r.body 1) = some p → bodyNat r.body 0 < 256 →
      u.iface? (bodyNat r.body 0) = none → bodyNat r.body 2 < 16 → bodyNat r.body 3 ≤ 3 → bodyNat r.body 4 ≤ 16384 →
      (List.range 4).all (fun k => bodyNat r.body 2 / 2 ^ k % 2 == 0 || p.host / 2 ^ k % 2 == 1) = true →
      bodyNat r.body 2 < 2 ^ u.fit.hostPorts →
      u.addIface p.num (bodyNat r.body 0) (bodyNat r.body 2) (bodyNat r.body 3) (bodyNat r.body 4) = some (t, ks) →
      exec (.ifCreate r) s = s.doneOk t 0x22 true r ks) ∧
    (Admitted s 0x23 true r → r.body.length = 1 → u.iface? (bodyNat r.body 0) = some f → u.part? f.part = some p →
      (p.role = roleLearn ∨ p.firstIf ≠ f.num) → ∃ t, exec (.ifDestroy r) s = .next t ∧ t.iface? f.num = none) ∧
    (Admitted s 0x24 true r → r.body.length = 6 → (u.iface? (bodyNat r.body 0)).isSome = true → bodyNat r.body 1 ≤ 1 →
      bodyNat r.body 3 ≤ 0x7FFFFFFF → bodyNat r.body 5 ≤ 16384 →
      exec (.ifBudget r) s = s.doneOk (u.modIface (bodyNat r.body 0) (·.budgeted (r.body.getD 1 0#32, r.body.getD 2 0#32,
        r.body.getD 3 0#32, r.body.getD 4 0#32) (bodyNat r.body 5))) 0x24 true r []) ∧
    (Admitted s 0x25 true r → r.body.length = 3 → bodyNat r.body 2 < 2 ^ 24 → u.qp? (bodyNat r.body 1) (bodyNat r.body 2) = none →
      portUse u (bodyNat r.body 0) (bodyNat r.body 1) = none → u.net.qps.countP (·.port == bodyNat r.body 1) < 4096 →
      u.net.qps.countP (·.iface == bodyNat r.body 0) < 256 →
      exec (.qpCreate r) s = s.doneOk (u.modNet fun x => { x with qps := x.qps ++ [Qp.new (bodyNat r.body 1) (bodyNat r.body 2)
        (bodyNat r.body 0)] }) 0x25 true r []) ∧
    (Admitted s 0x26 true r → r.body.length = 12 → u.qp? (bodyNat r.body 0) (bodyNat r.body 1) = some q → bodyNat r.body 0 < 4 →
      bodyNat r.body 1 < 2 ^ 24 → u.portFitted (bodyNat r.body 0) = true →
      bodyNat r.body 2 < 2 ^ 24 → (bodyNat r.body 7 = 1024 ∨ bodyNat r.body 7 = 2048 ∨ bodyNat r.body 7 = 4096) →
      bodyNat r.body 8 < 2 ^ 24 → bodyNat r.body 9 < 2 ^ 24 → bodyNat r.body 10 < 32 → bodyNat r.body 11 < 8 →
      exec (.qpConnect r) s = s.doneOk ((failWork u q).modQp (bodyNat r.body 0) (bodyNat r.body 1) (·.connected r.body))
        0x26 true r []) ∧
    (Admitted s 0x27 true r → r.body.length = 2 → u.qp? (bodyNat r.body 0) (bodyNat r.body 1) = some q → bodyNat r.body 0 < 4 →
      bodyNat r.body 1 < 2 ^ 24 → u.portFitted (bodyNat r.body 0) = true →
      exec (.qpDestroy r) s = s.doneOk (dropQp u q) 0x27 true r []) ∧
    (Admitted s 0x28 true r → r.body.length = 3 → bodyNat r.body 2 = 0 → portUse u (bodyNat r.body 0) (bodyNat r.body 1) = none →
      exec (.proxyGrant r) s = s.doneOk (u.modMgt (·.granted none 0#32)) 0x28 true r []) ∧
    (Admitted s 0x28 true r → r.body.length = 3 → bodyNat r.body 2 = 1 → portUse u (bodyNat r.body 0) (bodyNat r.body 1) = none →
      u.partFenced (u.ifacePart (bodyNat r.body 0)) = false →
      exec (.proxyGrant r) s = s.doneOk (u.issueKey.2.modMgt (·.granted (some (bodyNat r.body 0, bodyNat r.body 1)) u.issueKey.1))
        0x28 true r [])

/-- Requests about the module that are admitted and obey every rule: registers written in order, the power states that can be
requested, the reset that follows its reply, calibration saved, seed units ordered, firmware staged, activated and committed, the
management key, the provisioning record, and the doorbell of the proxy, which runs the request in its mailbox (spec 15 R404,
R405, R409; 16 R415, R416, R433; 17 R447 to R453; 18 R467). -/
def Obligations.ModuleRowsComplete : Prop :=
  ∀ (s : State) (r q : MgmtReq) (u : State) (img : Image) (v : W32) (cmd : Nat), u = s.noted true r →
    (Admitted s 0x11 true r → rangeOk mgmtWide (bodyNat r.body 0) (r.body.length - 1) = true →
      bodyNat r.body 0 + 4 * (r.body.length - 1) ≤ 2 ^ 32 →
      exec (.regWrite r) s = s.doneOk (writeWords u (bodyNat r.body 0) (r.body.drop 1)) 0x11 true r []) ∧
    (Admitted s 0x30 true r → r.body = [1#32] → u.phase = .running →
      exec (.powerState r) s = s.doneOk (if u.pwr.state.toNat ≤ 2 then u else exitLow u) 0x30 true r []) ∧
    (Admitted s 0x30 true r → r.body = [3#32] → u.phase = .running → u.pwr.state ≠ 3#3 → u.napRefused = false →
      exec (.powerState r) s = s.doneOk (enterLow u 3#3) 0x30 true r []) ∧
    (Admitted s 0x30 true r → r.body = [4#32] → u.phase = .running → u.pwr.state ≠ 4#3 → u.parts = [] →
      exec (.powerState r) s = s.doneOk (enterLow u 4#3) 0x30 true r []) ∧
    (Admitted s 0x30 true r → r.body = [5#32] → u.phase = .running → u.pwr.state ≠ 5#3 → (u.parts = [] ∨ u.pins.pwrEn = false) →
      exec (.powerState r) s = s.doneOk (enterDormant u false) 0x30 true r []) ∧
    (Admitted s 0x31 true r → r.body = [] → exec (.reset r) s = .next (resetModule (s.answered u 0x31 true r stOK []))) ∧
    (Admitted s 0x32 true r → r.body = [] → u.maint.grantNow calToken = true →
      exec (.calSave r) s = s.doneOk (u.modPwr fun p => { p with saved := p.user }) 0x32 true r []) ∧
    (Admitted s 0x33 true r → r.body.length = 3 → bodyNat r.body 0 = 0 → bodyNat r.body 1 < 2 → bodyNat r.body 2 < 32 →
      bodyNat r.body 2 / 16 = bodyNat r.body 1 → u.linkFitted (bodyNat r.body 2) = true →
      u.net.seedLanes.any (·.1 == bodyNat r.body 1) = false →
      u.maint.grantNow (laneToken (bodyNat r.body 1) (bodyNat r.body 2)) = true →
      exec (.seedSwap r) s = s.doneOk (takeToken u (laneToken (bodyNat r.body 1) (bodyNat r.body 2))) 0x33 true r []) ∧
    (Admitted s 0x33 true r → r.body.length = 3 → bodyNat r.body 0 = 1 → bodyNat r.body 1 < 128 →
      u.maint.grantNow (rowToken (bodyNat r.body 1) (bodyNat r.body 2)) = true →
      exec (.seedSwap r) s = s.doneOk (takeToken u (rowToken (bodyNat r.body 1) (bodyNat r.body 2))) 0x33 true r []) ∧
    (Admitted s 0x33 true r → r.body.length = 3 → bodyNat r.body 0 = 2 → bodyNat r.body 1 < 128 →
      Tab.get u.maint.seedTiles (bodyNat r.body 1 / 16) 0 ≠ 0 → u.maint.grantNow (tileToken (bodyNat r.body 1)) = true →
      exec (.seedSwap r) s = s.doneOk (takeToken (u.modMaint fun m => { m with failing := addOnce (bodyNat r.body 1) m.failing })
        (tileToken (bodyNat r.body 1))) 0x33 true r []) ∧
    (Admitted s 0x40 true r → r.body.length = 2 → u.holds stagingToken = false → u.maint.grantNow stagingToken = true →
      exec (.fwStageBegin r) s = s.doneOk ((takeToken u stagingToken).modMgt (·.opened (bodyNat r.body 0 + bodyNat r.body 1 * 2 ^ 32)))
        0x40 true r []) ∧
    (Admitted s 0x41 true r → r.body.length = 3 + (bodyNat r.body 2 + 3) / 4 → bodyNat r.body 2 ≤ 1024 → u.mgt.stage = 1#3 →
      bodyNat r.body 0 + bodyNat r.body 1 * 2 ^ 32 + bodyNat r.body 2 ≤ u.mgt.stageLen →
      exec (.fwStageData r) s = s.doneOk (u.modMgt fun m => { m with
        stageMem := Mem.putBytes m.stageMem zeroByte (bodyNat r.body 0 + bodyNat r.body 1 * 2 ^ 32)
          ((wordsBytes (r.body.drop 3)).take (bodyNat r.body 2))
        stageBytes := satAdd32 m.stageBytes (bodyNat r.body 2) }) 0x41 true r []) ∧
    (Admitted s 0x42 true r → r.body = [] → u.mgt.stage = 1#3 →
      exec (.fwStageEnd r) s = s.doneOk (((u.modMgt (·.closed u.mgt.stagedImage ((u.mgt.stagedImage.map fun i =>
        i.acceptable u.mgt.fuses && i.fwOk && i.compsOk).getD false))).modMgt (·.judged)).releaseToken stagingToken) 0x42 true r []) ∧
    (Admitted s 0x43 true r → r.body.length = 1 → bodyNat r.body 0 ≤ 1 →
      ((u.mgt.measured ≠ [] ∧ (bodyNat r.body 0 == 1) = u.mgt.running) ∨
        ((bodyNat r.body 0 == 1) ≠ u.mgt.running ∧ u.mgt.stage = 3#3)) →
      exec (.fwActivate r) s = s.doneOk (u.modMgt fun m => { m with pref := bodyNat r.body 0 == 1 }) 0x43 true r []) ∧
    (Admitted s 0x44 true r → r.body = [] → u.mgt.slot u.mgt.running = some img → u.mgt.fuses.burn img ≠ u.mgt.fuses →
      exec (.fwCommit r) s = s.doneOk ((u.modMgt (·.burned (u.mgt.fuses.burn img))).modMgt (·.judged)) 0x44 true r []) ∧
    (Admitted s 0x50 true r → r.body.length = 16 →
      exec (.mkeySet r) s = s.doneOk (u.modMgt fun m => { m with key := some (wordsBytes r.body) }) 0x50 true r []) ∧
    (Admitted s 0x51 true r → r.body.length = 6 → r.body.getD 0 0#32 &&& 0x7FFEC000#32 = 0#32 →
      exec (.provSet r) s = s.doneOk ((modConfig u (r.body.getD 0 0#32)).modMgt fun m => { m with provAddr := r.body.drop 1 })
        0x51 true r []) ∧
    (s.windowUp = true → s.mgt.proxy.isSome = true → mailboxRequest (s.rung v).mgt v.toNat = some (cmd, q) →
      exec (.proxyDoorbell v) s = .next (mgmtRequest (s.rung v) cmd q))

/-- A request that needs authentication and fails it is discarded without a reply, and counted in MGT.AUTH_FAIL where its MAC
fails, in MGT.REPLAY where its COUNTER is stale; it changes nothing else but that the module is awake (spec 17 R445, R446). The
two writes stand for every row that Table 17-4 marks so: the shared operation is the same. -/
def Obligations.UnauthenticatedChangesNothing : Prop :=
  ∀ (s : State) (r : MgmtReq) (cmd : Nat), s.pathUp r.path = true → s.phase ≠ .dormant → r.path ≠ .i3c → cmd ≠ 0x31 →
    (mgmtBody cmd r.body).1 = true →
    (s.macOk cmd r = false →
      mgmtRequest s cmd r = (s.wake.modMgt fun m => { m with authFail := satAdd32 m.authFail 1 }).noteSched) ∧
    (s.macOk cmd r = true → r.counter.toNat < s.mgt.ctr.toNat →
      mgmtRequest s cmd r = (s.wake.modMgt fun m => { m with replay := satAdd32 m.replay 1 }).noteSched) ∧
    (cmd = 0x50 → exec (.mkeySet r) s = .next (mgmtRequest s cmd r)) ∧
    (cmd = 0x11 → exec (.regWrite r) s = .next (mgmtRequest s cmd r)) ∧
    (cmd = 0x20 → exec (.partCreate r) s = .next (mgmtRequest s cmd r))

/-! ## Rules of the whole machine -/

/-- A completion whose result has no effect besides its writes keeps every allocation that the writes do not name, whole: every
byte, its errors, its state (spec 11 R287, R289). A weight with transposed blocks that wait for their job is left out: the next
commit of its partition gives them one (02 R48). -/
def Obligations.CommitKeepsOtherAllocations : Prop :=
  ∀ (s : State) (n : Nat) (c : Cmd) (r : Result) (a : Alloc), s.awake = true → s.nextCommit n = some (c, r) →
    c.opcode ≠ 0x0405 → r.eff = .none →
    a ∈ s.allocs → (a.part ≠ s.cmdPart c.id ∨ ∀ w ∈ (commitAll s c r).2.writes, w.handle ≠ a.handle) →
    (∀ v, a.tcopy = some v → ∀ b ∈ v.queued, v.jobs.any (·.1 == b) = true) →
    ∃ t, exec (.commandCompletion n) s = .next t ∧ a ∈ t.allocs

/-- The semaphores of a partition move at the commit and not before: SEM_INIT sets the count, SEM_ACQUIRE takes its units from
it, SEM_RELEASE gives its units back (spec 11 R301). -/
def Obligations.SemaphoresMoveAtCommit : Prop :=
  ∀ (s : State) (n m u : Nat) (c : Cmd) (x : Ctx), s.awake = true → (s.part? (s.cmdPart c.id)).isSome = true →
    s.ctx? c.ctx = some x →
    (c.opcode = 0x0803 → s.nextCommit n = some (c, Result.ok (.semInit m u)) → s.semInUse (s.cmdPart c.id) m = false →
      ∃ t, exec (.commandCompletion n) s = .next t ∧ t.semCount (s.cmdPart c.id) m = u) ∧
    (c.opcode = 0x0804 → s.nextCommit n = some (c, Result.ok (.semAcquire m u)) → x.semsFull m = false →
      ∃ t, exec (.commandCompletion n) s = .next t ∧
        t.semCount (s.cmdPart c.id) m = s.semCount (s.cmdPart c.id) m - u) ∧
    (c.opcode = 0x0805 → s.nextCommit n = some (c, Result.ok (.semRelease m u)) → u ≤ x.held m →
      ∃ t, exec (.commandCompletion n) s = .next t ∧
        t.semCount (s.cmdPart c.id) m = s.semCount (s.cmdPart c.id) m + u)

/-- What a sender puts into a Benzel header its receiver reads there: type, source and destination ends, flow, incarnation,
packet number and argument (spec 14 Tables 14-3, 14-4). -/
def Obligations.BenzelHeaderIsReadBack : Prop :=
  ∀ (type len flow inc psn off crc : Nat) (retx last udp ce : Bool) (src dst : End) (arg : W32) (bs : List Byte) (p : BzPacket),
    type < 16 → len < 2 ^ 16 → flow < 2 ^ 16 → inc < 2 ^ 16 → psn < 2 ^ 32 →
    src.module_ < 2 ^ 14 → src.part < 32 → src.link < 32 → dst.module_ < 2 ^ 14 → dst.part < 32 → dst.link < 32 →
    p = { hdr := bzHeader type retx last len src dst flow inc psn arg off, payload := bs, crc := BitVec.ofNat 32 crc, udpOk := udp,
          ce := ce } →
    bzType p = type ∧ bzSrc p = src ∧ bzDst p = dst ∧ bzFlow p = flow ∧ bzInc p = inc ∧ bzPsn p = psn ∧ bzArg p = arg

/-- While the thermal trip is held, no command but the removal of the input does anything: the rails stay off, THERMTRIP stays
driven, PWR_EN and RESET_N are ignored, and no unit of the module changes; a command for a unit that does not exist faults as
ever (spec 18 R468; 16 R425). That an empty queue idles is the model's choice (log 3). -/
def Obligations.TripIsLatched : Prop :=
  ∀ s t : State, s.tripHeld → (∀ c r, s.pending = c :: r → endsTrip c = false) → step s = .next t → t.tripHeld ∧ s.sameWork t

/-- The safe state is left only where a session ends, and while it lasts no command but a management request changes any
allocation: nothing commits, nothing is written by a host, no piece lands, no scrub works (spec 15 R397, R398). -/
def Obligations.SafeStateStays : Prop :=
  ∀ (s t : State) (c : Instr) (r : List Instr), s.flt.safe = true → s.pending = c :: r → endsSession c = false →
    step s = .next t → t.flt.safe = true ∧ (managed c = false → t.allocs = s.allocs)

/-- The ATOMIC forms, in memory without read errors and with no checkpoint draining: a VEC_EWISE, in the copy that its handles
name, and a RULE_APPLY write their outputs in place when they run, and become ready with a result that commits whatever happens; nothing is missed
(spec 11 R297). The guard of spec 03 R82 does not apply. -/
def Obligations.AtomicRowsComplete : Prop :=
  ∀ (s t : State) (id : CmdId) (k : Cmd) (e : Env) (w : Result), s.clean → s.undrained id → bitAt k.flags 0 = true →
    (∀ (a : Alloc) (vs : List W32) (rb : List (Option Nat) × Drawer) (x : TWrite), Runs s 0x0302 id k e →
      fieldsOk (vecFields k e) → mustWait s k e [k.t 4] = false → e.alloc? (k.t 4).handle = some a →
      vs = (vecOut k e).vals.take ((k.t 4).len a) → rb = roundBits k e (k.spot e) 0 a (k.t 4) vs.length (s.drawer e) →
      x = encodeSome a (k.t 4).conv (if (k.t 4).ds = 0#32 then none else some (k.t 4).ds)
        ((List.range vs.length).map fun i => ((k.t 4).off + i, decode32 (nth vs i), rb.1.getD i none)) →
      (s.modCmd id fun c => { c with atomic := true }).takeReserve k (some id) [] = some t →
      exec (.vecEwise id) s = .next ((t.facing e.part.num (s.copyIndex k) (·.writeNow e.part.num x)).markReady id
        (inPlace { Result.bare stOK with writes := [x], gens := if (k.t 4).stoch && !e.det then some rb.2.gens else none }))) ∧
    (∀ (prog : List W32) (r : Reduced) (u : List TWrite × Drawer), Runs s 0x0505 id k e → fieldsOk (ruleFields k e) →
      ruleState k e = true → boundRule e (k.n 0) = some prog → ruleReduced k e = some r →
      (e.det = true ∨ k.planStoch = false ∨ s.generatorHeld k e.part.tiles = false) → s.stepHolds e.part.num id (e.weights (entryList k e 20)) = false →
      u = ruleEntries k e (fun _ _ => true) prog (ruleWork k e) (entryList k e 20).eraseDups (s.drawer e) →
      w = ruleOutcome k e r u.1 (if !e.det && k.planStoch then some u.2.gens else none) →
      s.takeReserve k (some id) [] = some t →
      exec (.ruleApply id) s = .next (((w.writes.foldl (fun t x => t.writeNow e.part.num x) t).modCmd id
        fun c => { c with atomic := true }).markReady id (inPlace w)))
end

