-- ==== Sys2Proof/Laws/State.lean ====
section
/-!
SUPPORT. One lemma per field per update of the state.
-/
namespace Sys2Proof.Machine

variable (s : State)

@[simp] theorem State.modPart_pending (n : Nat) (f : Part → Part) : (s.modPart n f).pending = s.pending := rfl
@[simp] theorem State.modPart_fit (n : Nat) (f : Part → Part) : (s.modPart n f).fit = s.fit := rfl
@[simp] theorem State.modPart_pins (n : Nat) (f : Part → Part) : (s.modPart n f).pins = s.pins := rfl
@[simp] theorem State.modPart_phase (n : Nat) (f : Part → Part) : (s.modPart n f).phase = s.phase := rfl
@[simp] theorem State.modPart_clk (n : Nat) (f : Part → Part) : (s.modPart n f).clk = s.clk := rfl
@[simp] theorem State.modPart_pwr (n : Nat) (f : Part → Part) : (s.modPart n f).pwr = s.pwr := rfl
@[simp] theorem State.modPart_flt (n : Nat) (f : Part → Part) : (s.modPart n f).flt = s.flt := rfl
@[simp] theorem State.modPart_net (n : Nat) (f : Part → Part) : (s.modPart n f).net = s.net := rfl
@[simp] theorem State.modPart_mgt (n : Nat) (f : Part → Part) : (s.modPart n f).mgt = s.mgt := rfl
@[simp] theorem State.modPart_maint (n : Nat) (f : Part → Part) : (s.modPart n f).maint = s.maint := rfl
@[simp] theorem State.modPart_parts (n : Nat) (f : Part → Part) : (s.modPart n f).parts = modWhere (·.num == n) f s.parts := rfl
@[simp] theorem State.modPart_ifaces (n : Nat) (f : Part → Part) : (s.modPart n f).ifaces = s.ifaces := rfl
@[simp] theorem State.modPart_ctxs (n : Nat) (f : Part → Part) : (s.modPart n f).ctxs = s.ctxs := rfl
@[simp] theorem State.modPart_allocs (n : Nat) (f : Part → Part) : (s.modPart n f).allocs = s.allocs := rfl
@[simp] theorem State.modPart_cmds (n : Nat) (f : Part → Part) : (s.modPart n f).cmds = s.cmds := rfl
@[simp] theorem State.modPart_boards (n : Nat) (f : Part → Part) : (s.modPart n f).boards = s.boards := rfl
@[simp] theorem State.modPart_shared (n : Nat) (f : Part → Part) : (s.modPart n f).shared = s.shared := rfl
@[simp] theorem State.modPart_keys (n : Nat) (f : Part → Part) : (s.modPart n f).keys = s.keys := rfl
@[simp] theorem State.modPart_issued (n : Nat) (f : Part → Part) : (s.modPart n f).issued = s.issued := rfl
@[simp] theorem State.modPart_fresh (n : Nat) (f : Part → Part) : (s.modPart n f).fresh = s.fresh := rfl
@[simp] theorem State.modPart_stamp (n : Nat) (f : Part → Part) : (s.modPart n f).stamp = s.stamp := rfl
@[simp] theorem State.modPart_out (n : Nat) (f : Part → Part) : (s.modPart n f).out = s.out := rfl

@[simp] theorem State.modIface_pending (n : Nat) (f : Iface → Iface) : (s.modIface n f).pending = s.pending := rfl
@[simp] theorem State.modIface_fit (n : Nat) (f : Iface → Iface) : (s.modIface n f).fit = s.fit := rfl
@[simp] theorem State.modIface_pins (n : Nat) (f : Iface → Iface) : (s.modIface n f).pins = s.pins := rfl
@[simp] theorem State.modIface_phase (n : Nat) (f : Iface → Iface) : (s.modIface n f).phase = s.phase := rfl
@[simp] theorem State.modIface_clk (n : Nat) (f : Iface → Iface) : (s.modIface n f).clk = s.clk := rfl
@[simp] theorem State.modIface_pwr (n : Nat) (f : Iface → Iface) : (s.modIface n f).pwr = s.pwr := rfl
@[simp] theorem State.modIface_flt (n : Nat) (f : Iface → Iface) : (s.modIface n f).flt = s.flt := rfl
@[simp] theorem State.modIface_net (n : Nat) (f : Iface → Iface) : (s.modIface n f).net = s.net := rfl
@[simp] theorem State.modIface_mgt (n : Nat) (f : Iface → Iface) : (s.modIface n f).mgt = s.mgt := rfl
@[simp] theorem State.modIface_maint (n : Nat) (f : Iface → Iface) : (s.modIface n f).maint = s.maint := rfl
@[simp] theorem State.modIface_parts (n : Nat) (f : Iface → Iface) : (s.modIface n f).parts = s.parts := rfl
@[simp] theorem State.modIface_ifaces (n : Nat) (f : Iface → Iface) : (s.modIface n f).ifaces = modWhere (·.num == n) f s.ifaces := rfl
@[simp] theorem State.modIface_ctxs (n : Nat) (f : Iface → Iface) : (s.modIface n f).ctxs = s.ctxs := rfl
@[simp] theorem State.modIface_allocs (n : Nat) (f : Iface → Iface) : (s.modIface n f).allocs = s.allocs := rfl
@[simp] theorem State.modIface_cmds (n : Nat) (f : Iface → Iface) : (s.modIface n f).cmds = s.cmds := rfl
@[simp] theorem State.modIface_boards (n : Nat) (f : Iface → Iface) : (s.modIface n f).boards = s.boards := rfl
@[simp] theorem State.modIface_shared (n : Nat) (f : Iface → Iface) : (s.modIface n f).shared = s.shared := rfl
@[simp] theorem State.modIface_keys (n : Nat) (f : Iface → Iface) : (s.modIface n f).keys = s.keys := rfl
@[simp] theorem State.modIface_issued (n : Nat) (f : Iface → Iface) : (s.modIface n f).issued = s.issued := rfl
@[simp] theorem State.modIface_fresh (n : Nat) (f : Iface → Iface) : (s.modIface n f).fresh = s.fresh := rfl
@[simp] theorem State.modIface_stamp (n : Nat) (f : Iface → Iface) : (s.modIface n f).stamp = s.stamp := rfl
@[simp] theorem State.modIface_out (n : Nat) (f : Iface → Iface) : (s.modIface n f).out = s.out := rfl

@[simp] theorem State.modCtx_pending (n : Nat) (f : Ctx → Ctx) : (s.modCtx n f).pending = s.pending := rfl
@[simp] theorem State.modCtx_fit (n : Nat) (f : Ctx → Ctx) : (s.modCtx n f).fit = s.fit := rfl
@[simp] theorem State.modCtx_pins (n : Nat) (f : Ctx → Ctx) : (s.modCtx n f).pins = s.pins := rfl
@[simp] theorem State.modCtx_phase (n : Nat) (f : Ctx → Ctx) : (s.modCtx n f).phase = s.phase := rfl
@[simp] theorem State.modCtx_clk (n : Nat) (f : Ctx → Ctx) : (s.modCtx n f).clk = s.clk := rfl
@[simp] theorem State.modCtx_pwr (n : Nat) (f : Ctx → Ctx) : (s.modCtx n f).pwr = s.pwr := rfl
@[simp] theorem State.modCtx_flt (n : Nat) (f : Ctx → Ctx) : (s.modCtx n f).flt = s.flt := rfl
@[simp] theorem State.modCtx_net (n : Nat) (f : Ctx → Ctx) : (s.modCtx n f).net = s.net := rfl
@[simp] theorem State.modCtx_mgt (n : Nat) (f : Ctx → Ctx) : (s.modCtx n f).mgt = s.mgt := rfl
@[simp] theorem State.modCtx_maint (n : Nat) (f : Ctx → Ctx) : (s.modCtx n f).maint = s.maint := rfl
@[simp] theorem State.modCtx_parts (n : Nat) (f : Ctx → Ctx) : (s.modCtx n f).parts = s.parts := rfl
@[simp] theorem State.modCtx_ifaces (n : Nat) (f : Ctx → Ctx) : (s.modCtx n f).ifaces = s.ifaces := rfl
@[simp] theorem State.modCtx_ctxs (n : Nat) (f : Ctx → Ctx) : (s.modCtx n f).ctxs = modWhere (·.id == n) f s.ctxs := rfl
@[simp] theorem State.modCtx_allocs (n : Nat) (f : Ctx → Ctx) : (s.modCtx n f).allocs = s.allocs := rfl
@[simp] theorem State.modCtx_cmds (n : Nat) (f : Ctx → Ctx) : (s.modCtx n f).cmds = s.cmds := rfl
@[simp] theorem State.modCtx_boards (n : Nat) (f : Ctx → Ctx) : (s.modCtx n f).boards = s.boards := rfl
@[simp] theorem State.modCtx_shared (n : Nat) (f : Ctx → Ctx) : (s.modCtx n f).shared = s.shared := rfl
@[simp] theorem State.modCtx_keys (n : Nat) (f : Ctx → Ctx) : (s.modCtx n f).keys = s.keys := rfl
@[simp] theorem State.modCtx_issued (n : Nat) (f : Ctx → Ctx) : (s.modCtx n f).issued = s.issued := rfl
@[simp] theorem State.modCtx_fresh (n : Nat) (f : Ctx → Ctx) : (s.modCtx n f).fresh = s.fresh := rfl
@[simp] theorem State.modCtx_stamp (n : Nat) (f : Ctx → Ctx) : (s.modCtx n f).stamp = s.stamp := rfl
@[simp] theorem State.modCtx_out (n : Nat) (f : Ctx → Ctx) : (s.modCtx n f).out = s.out := rfl

@[simp] theorem State.modCmd_pending (c : CmdId) (f : Cmd → Cmd) : (s.modCmd c f).pending = s.pending := rfl
@[simp] theorem State.modCmd_fit (c : CmdId) (f : Cmd → Cmd) : (s.modCmd c f).fit = s.fit := rfl
@[simp] theorem State.modCmd_pins (c : CmdId) (f : Cmd → Cmd) : (s.modCmd c f).pins = s.pins := rfl
@[simp] theorem State.modCmd_phase (c : CmdId) (f : Cmd → Cmd) : (s.modCmd c f).phase = s.phase := rfl
@[simp] theorem State.modCmd_clk (c : CmdId) (f : Cmd → Cmd) : (s.modCmd c f).clk = s.clk := rfl
@[simp] theorem State.modCmd_pwr (c : CmdId) (f : Cmd → Cmd) : (s.modCmd c f).pwr = s.pwr := rfl
@[simp] theorem State.modCmd_flt (c : CmdId) (f : Cmd → Cmd) : (s.modCmd c f).flt = s.flt := rfl
@[simp] theorem State.modCmd_net (c : CmdId) (f : Cmd → Cmd) : (s.modCmd c f).net = s.net := rfl
@[simp] theorem State.modCmd_mgt (c : CmdId) (f : Cmd → Cmd) : (s.modCmd c f).mgt = s.mgt := rfl
@[simp] theorem State.modCmd_maint (c : CmdId) (f : Cmd → Cmd) : (s.modCmd c f).maint = s.maint := rfl
@[simp] theorem State.modCmd_parts (c : CmdId) (f : Cmd → Cmd) : (s.modCmd c f).parts = s.parts := rfl
@[simp] theorem State.modCmd_ifaces (c : CmdId) (f : Cmd → Cmd) : (s.modCmd c f).ifaces = s.ifaces := rfl
@[simp] theorem State.modCmd_ctxs (c : CmdId) (f : Cmd → Cmd) : (s.modCmd c f).ctxs = s.ctxs := rfl
@[simp] theorem State.modCmd_allocs (c : CmdId) (f : Cmd → Cmd) : (s.modCmd c f).allocs = s.allocs := rfl
@[simp] theorem State.modCmd_cmds (c : CmdId) (f : Cmd → Cmd) : (s.modCmd c f).cmds = modWhere (·.id == c) f s.cmds := rfl
@[simp] theorem State.modCmd_boards (c : CmdId) (f : Cmd → Cmd) : (s.modCmd c f).boards = s.boards := rfl
@[simp] theorem State.modCmd_shared (c : CmdId) (f : Cmd → Cmd) : (s.modCmd c f).shared = s.shared := rfl
@[simp] theorem State.modCmd_keys (c : CmdId) (f : Cmd → Cmd) : (s.modCmd c f).keys = s.keys := rfl
@[simp] theorem State.modCmd_issued (c : CmdId) (f : Cmd → Cmd) : (s.modCmd c f).issued = s.issued := rfl
@[simp] theorem State.modCmd_fresh (c : CmdId) (f : Cmd → Cmd) : (s.modCmd c f).fresh = s.fresh := rfl
@[simp] theorem State.modCmd_stamp (c : CmdId) (f : Cmd → Cmd) : (s.modCmd c f).stamp = s.stamp := rfl
@[simp] theorem State.modCmd_out (c : CmdId) (f : Cmd → Cmd) : (s.modCmd c f).out = s.out := rfl

@[simp] theorem State.modAlloc_pending (p : Nat) (h : W32) (f : Alloc → Alloc) : (s.modAlloc p h f).pending = s.pending := rfl
@[simp] theorem State.modAlloc_fit (p : Nat) (h : W32) (f : Alloc → Alloc) : (s.modAlloc p h f).fit = s.fit := rfl
@[simp] theorem State.modAlloc_pins (p : Nat) (h : W32) (f : Alloc → Alloc) : (s.modAlloc p h f).pins = s.pins := rfl
@[simp] theorem State.modAlloc_phase (p : Nat) (h : W32) (f : Alloc → Alloc) : (s.modAlloc p h f).phase = s.phase := rfl
@[simp] theorem State.modAlloc_clk (p : Nat) (h : W32) (f : Alloc → Alloc) : (s.modAlloc p h f).clk = s.clk := rfl
@[simp] theorem State.modAlloc_pwr (p : Nat) (h : W32) (f : Alloc → Alloc) : (s.modAlloc p h f).pwr = s.pwr := rfl
@[simp] theorem State.modAlloc_flt (p : Nat) (h : W32) (f : Alloc → Alloc) : (s.modAlloc p h f).flt = s.flt := rfl
@[simp] theorem State.modAlloc_net (p : Nat) (h : W32) (f : Alloc → Alloc) : (s.modAlloc p h f).net = s.net := rfl
@[simp] theorem State.modAlloc_mgt (p : Nat) (h : W32) (f : Alloc → Alloc) : (s.modAlloc p h f).mgt = s.mgt := rfl
@[simp] theorem State.modAlloc_maint (p : Nat) (h : W32) (f : Alloc → Alloc) : (s.modAlloc p h f).maint = s.maint := rfl
@[simp] theorem State.modAlloc_parts (p : Nat) (h : W32) (f : Alloc → Alloc) : (s.modAlloc p h f).parts = s.parts := rfl
@[simp] theorem State.modAlloc_ifaces (p : Nat) (h : W32) (f : Alloc → Alloc) : (s.modAlloc p h f).ifaces = s.ifaces := rfl
@[simp] theorem State.modAlloc_ctxs (p : Nat) (h : W32) (f : Alloc → Alloc) : (s.modAlloc p h f).ctxs = s.ctxs := rfl
@[simp] theorem State.modAlloc_allocs (p : Nat) (h : W32) (f : Alloc → Alloc) : (s.modAlloc p h f).allocs = modWhere (fun a => a.part == p && a.handle == h) f s.allocs := rfl
@[simp] theorem State.modAlloc_cmds (p : Nat) (h : W32) (f : Alloc → Alloc) : (s.modAlloc p h f).cmds = s.cmds := rfl
@[simp] theorem State.modAlloc_boards (p : Nat) (h : W32) (f : Alloc → Alloc) : (s.modAlloc p h f).boards = s.boards := rfl
@[simp] theorem State.modAlloc_shared (p : Nat) (h : W32) (f : Alloc → Alloc) : (s.modAlloc p h f).shared = s.shared := rfl
@[simp] theorem State.modAlloc_keys (p : Nat) (h : W32) (f : Alloc → Alloc) : (s.modAlloc p h f).keys = s.keys := rfl
@[simp] theorem State.modAlloc_issued (p : Nat) (h : W32) (f : Alloc → Alloc) : (s.modAlloc p h f).issued = s.issued := rfl
@[simp] theorem State.modAlloc_fresh (p : Nat) (h : W32) (f : Alloc → Alloc) : (s.modAlloc p h f).fresh = s.fresh := rfl
@[simp] theorem State.modAlloc_stamp (p : Nat) (h : W32) (f : Alloc → Alloc) : (s.modAlloc p h f).stamp = s.stamp := rfl
@[simp] theorem State.modAlloc_out (p : Nat) (h : W32) (f : Alloc → Alloc) : (s.modAlloc p h f).out = s.out := rfl

@[simp] theorem State.modLink_pending (k : Nat) (f : Link → Link) : (s.modLink k f).pending = s.pending := rfl
@[simp] theorem State.modLink_fit (k : Nat) (f : Link → Link) : (s.modLink k f).fit = s.fit := rfl
@[simp] theorem State.modLink_pins (k : Nat) (f : Link → Link) : (s.modLink k f).pins = s.pins := rfl
@[simp] theorem State.modLink_phase (k : Nat) (f : Link → Link) : (s.modLink k f).phase = s.phase := rfl
@[simp] theorem State.modLink_clk (k : Nat) (f : Link → Link) : (s.modLink k f).clk = s.clk := rfl
@[simp] theorem State.modLink_pwr (k : Nat) (f : Link → Link) : (s.modLink k f).pwr = s.pwr := rfl
@[simp] theorem State.modLink_flt (k : Nat) (f : Link → Link) : (s.modLink k f).flt = s.flt := rfl
@[simp] theorem State.modLink_net (k : Nat) (f : Link → Link) : (s.modLink k f).net = { s.net with links := s.net.links.map fun e => if e.1 == k then (e.1, f e.2) else e } := rfl
@[simp] theorem State.modLink_mgt (k : Nat) (f : Link → Link) : (s.modLink k f).mgt = s.mgt := rfl
@[simp] theorem State.modLink_maint (k : Nat) (f : Link → Link) : (s.modLink k f).maint = s.maint := rfl
@[simp] theorem State.modLink_parts (k : Nat) (f : Link → Link) : (s.modLink k f).parts = s.parts := rfl
@[simp] theorem State.modLink_ifaces (k : Nat) (f : Link → Link) : (s.modLink k f).ifaces = s.ifaces := rfl
@[simp] theorem State.modLink_ctxs (k : Nat) (f : Link → Link) : (s.modLink k f).ctxs = s.ctxs := rfl
@[simp] theorem State.modLink_allocs (k : Nat) (f : Link → Link) : (s.modLink k f).allocs = s.allocs := rfl
@[simp] theorem State.modLink_cmds (k : Nat) (f : Link → Link) : (s.modLink k f).cmds = s.cmds := rfl
@[simp] theorem State.modLink_boards (k : Nat) (f : Link → Link) : (s.modLink k f).boards = s.boards := rfl
@[simp] theorem State.modLink_shared (k : Nat) (f : Link → Link) : (s.modLink k f).shared = s.shared := rfl
@[simp] theorem State.modLink_keys (k : Nat) (f : Link → Link) : (s.modLink k f).keys = s.keys := rfl
@[simp] theorem State.modLink_issued (k : Nat) (f : Link → Link) : (s.modLink k f).issued = s.issued := rfl
@[simp] theorem State.modLink_fresh (k : Nat) (f : Link → Link) : (s.modLink k f).fresh = s.fresh := rfl
@[simp] theorem State.modLink_stamp (k : Nat) (f : Link → Link) : (s.modLink k f).stamp = s.stamp := rfl
@[simp] theorem State.modLink_out (k : Nat) (f : Link → Link) : (s.modLink k f).out = s.out := rfl

@[simp] theorem State.modPort_pending (p : Nat) (f : HostPort → HostPort) : (s.modPort p f).pending = s.pending := rfl
@[simp] theorem State.modPort_fit (p : Nat) (f : HostPort → HostPort) : (s.modPort p f).fit = s.fit := rfl
@[simp] theorem State.modPort_pins (p : Nat) (f : HostPort → HostPort) : (s.modPort p f).pins = s.pins := rfl
@[simp] theorem State.modPort_phase (p : Nat) (f : HostPort → HostPort) : (s.modPort p f).phase = s.phase := rfl
@[simp] theorem State.modPort_clk (p : Nat) (f : HostPort → HostPort) : (s.modPort p f).clk = s.clk := rfl
@[simp] theorem State.modPort_pwr (p : Nat) (f : HostPort → HostPort) : (s.modPort p f).pwr = s.pwr := rfl
@[simp] theorem State.modPort_flt (p : Nat) (f : HostPort → HostPort) : (s.modPort p f).flt = s.flt := rfl
@[simp] theorem State.modPort_net (p : Nat) (f : HostPort → HostPort) : (s.modPort p f).net = { s.net with ports := s.net.ports.map fun e => if e.1 == p then (e.1, f e.2) else e } := rfl
@[simp] theorem State.modPort_mgt (p : Nat) (f : HostPort → HostPort) : (s.modPort p f).mgt = s.mgt := rfl
@[simp] theorem State.modPort_maint (p : Nat) (f : HostPort → HostPort) : (s.modPort p f).maint = s.maint := rfl
@[simp] theorem State.modPort_parts (p : Nat) (f : HostPort → HostPort) : (s.modPort p f).parts = s.parts := rfl
@[simp] theorem State.modPort_ifaces (p : Nat) (f : HostPort → HostPort) : (s.modPort p f).ifaces = s.ifaces := rfl
@[simp] theorem State.modPort_ctxs (p : Nat) (f : HostPort → HostPort) : (s.modPort p f).ctxs = s.ctxs := rfl
@[simp] theorem State.modPort_allocs (p : Nat) (f : HostPort → HostPort) : (s.modPort p f).allocs = s.allocs := rfl
@[simp] theorem State.modPort_cmds (p : Nat) (f : HostPort → HostPort) : (s.modPort p f).cmds = s.cmds := rfl
@[simp] theorem State.modPort_boards (p : Nat) (f : HostPort → HostPort) : (s.modPort p f).boards = s.boards := rfl
@[simp] theorem State.modPort_shared (p : Nat) (f : HostPort → HostPort) : (s.modPort p f).shared = s.shared := rfl
@[simp] theorem State.modPort_keys (p : Nat) (f : HostPort → HostPort) : (s.modPort p f).keys = s.keys := rfl
@[simp] theorem State.modPort_issued (p : Nat) (f : HostPort → HostPort) : (s.modPort p f).issued = s.issued := rfl
@[simp] theorem State.modPort_fresh (p : Nat) (f : HostPort → HostPort) : (s.modPort p f).fresh = s.fresh := rfl
@[simp] theorem State.modPort_stamp (p : Nat) (f : HostPort → HostPort) : (s.modPort p f).stamp = s.stamp := rfl
@[simp] theorem State.modPort_out (p : Nat) (f : HostPort → HostPort) : (s.modPort p f).out = s.out := rfl

@[simp] theorem State.modQp_pending (port qpn : Nat) (f : Qp → Qp) : (s.modQp port qpn f).pending = s.pending := rfl
@[simp] theorem State.modQp_fit (port qpn : Nat) (f : Qp → Qp) : (s.modQp port qpn f).fit = s.fit := rfl
@[simp] theorem State.modQp_pins (port qpn : Nat) (f : Qp → Qp) : (s.modQp port qpn f).pins = s.pins := rfl
@[simp] theorem State.modQp_phase (port qpn : Nat) (f : Qp → Qp) : (s.modQp port qpn f).phase = s.phase := rfl
@[simp] theorem State.modQp_clk (port qpn : Nat) (f : Qp → Qp) : (s.modQp port qpn f).clk = s.clk := rfl
@[simp] theorem State.modQp_pwr (port qpn : Nat) (f : Qp → Qp) : (s.modQp port qpn f).pwr = s.pwr := rfl
@[simp] theorem State.modQp_flt (port qpn : Nat) (f : Qp → Qp) : (s.modQp port qpn f).flt = s.flt := rfl
@[simp] theorem State.modQp_net (port qpn : Nat) (f : Qp → Qp) : (s.modQp port qpn f).net = { s.net with qps := modWhere (fun q => q.port == port && q.num == qpn) f s.net.qps } := rfl
@[simp] theorem State.modQp_mgt (port qpn : Nat) (f : Qp → Qp) : (s.modQp port qpn f).mgt = s.mgt := rfl
@[simp] theorem State.modQp_maint (port qpn : Nat) (f : Qp → Qp) : (s.modQp port qpn f).maint = s.maint := rfl
@[simp] theorem State.modQp_parts (port qpn : Nat) (f : Qp → Qp) : (s.modQp port qpn f).parts = s.parts := rfl
@[simp] theorem State.modQp_ifaces (port qpn : Nat) (f : Qp → Qp) : (s.modQp port qpn f).ifaces = s.ifaces := rfl
@[simp] theorem State.modQp_ctxs (port qpn : Nat) (f : Qp → Qp) : (s.modQp port qpn f).ctxs = s.ctxs := rfl
@[simp] theorem State.modQp_allocs (port qpn : Nat) (f : Qp → Qp) : (s.modQp port qpn f).allocs = s.allocs := rfl
@[simp] theorem State.modQp_cmds (port qpn : Nat) (f : Qp → Qp) : (s.modQp port qpn f).cmds = s.cmds := rfl
@[simp] theorem State.modQp_boards (port qpn : Nat) (f : Qp → Qp) : (s.modQp port qpn f).boards = s.boards := rfl
@[simp] theorem State.modQp_shared (port qpn : Nat) (f : Qp → Qp) : (s.modQp port qpn f).shared = s.shared := rfl
@[simp] theorem State.modQp_keys (port qpn : Nat) (f : Qp → Qp) : (s.modQp port qpn f).keys = s.keys := rfl
@[simp] theorem State.modQp_issued (port qpn : Nat) (f : Qp → Qp) : (s.modQp port qpn f).issued = s.issued := rfl
@[simp] theorem State.modQp_fresh (port qpn : Nat) (f : Qp → Qp) : (s.modQp port qpn f).fresh = s.fresh := rfl
@[simp] theorem State.modQp_stamp (port qpn : Nat) (f : Qp → Qp) : (s.modQp port qpn f).stamp = s.stamp := rfl
@[simp] theorem State.modQp_out (port qpn : Nat) (f : Qp → Qp) : (s.modQp port qpn f).out = s.out := rfl

@[simp] theorem State.modPwr_pending (f : Pwr → Pwr) : (s.modPwr f).pending = s.pending := rfl
@[simp] theorem State.modPwr_fit (f : Pwr → Pwr) : (s.modPwr f).fit = s.fit := rfl
@[simp] theorem State.modPwr_pins (f : Pwr → Pwr) : (s.modPwr f).pins = s.pins := rfl
@[simp] theorem State.modPwr_phase (f : Pwr → Pwr) : (s.modPwr f).phase = s.phase := rfl
@[simp] theorem State.modPwr_clk (f : Pwr → Pwr) : (s.modPwr f).clk = s.clk := rfl
@[simp] theorem State.modPwr_pwr (f : Pwr → Pwr) : (s.modPwr f).pwr = f s.pwr := rfl
@[simp] theorem State.modPwr_flt (f : Pwr → Pwr) : (s.modPwr f).flt = s.flt := rfl
@[simp] theorem State.modPwr_net (f : Pwr → Pwr) : (s.modPwr f).net = s.net := rfl
@[simp] theorem State.modPwr_mgt (f : Pwr → Pwr) : (s.modPwr f).mgt = s.mgt := rfl
@[simp] theorem State.modPwr_maint (f : Pwr → Pwr) : (s.modPwr f).maint = s.maint := rfl
@[simp] theorem State.modPwr_parts (f : Pwr → Pwr) : (s.modPwr f).parts = s.parts := rfl
@[simp] theorem State.modPwr_ifaces (f : Pwr → Pwr) : (s.modPwr f).ifaces = s.ifaces := rfl
@[simp] theorem State.modPwr_ctxs (f : Pwr → Pwr) : (s.modPwr f).ctxs = s.ctxs := rfl
@[simp] theorem State.modPwr_allocs (f : Pwr → Pwr) : (s.modPwr f).allocs = s.allocs := rfl
@[simp] theorem State.modPwr_cmds (f : Pwr → Pwr) : (s.modPwr f).cmds = s.cmds := rfl
@[simp] theorem State.modPwr_boards (f : Pwr → Pwr) : (s.modPwr f).boards = s.boards := rfl
@[simp] theorem State.modPwr_shared (f : Pwr → Pwr) : (s.modPwr f).shared = s.shared := rfl
@[simp] theorem State.modPwr_keys (f : Pwr → Pwr) : (s.modPwr f).keys = s.keys := rfl
@[simp] theorem State.modPwr_issued (f : Pwr → Pwr) : (s.modPwr f).issued = s.issued := rfl
@[simp] theorem State.modPwr_fresh (f : Pwr → Pwr) : (s.modPwr f).fresh = s.fresh := rfl
@[simp] theorem State.modPwr_stamp (f : Pwr → Pwr) : (s.modPwr f).stamp = s.stamp := rfl
@[simp] theorem State.modPwr_out (f : Pwr → Pwr) : (s.modPwr f).out = s.out := rfl

@[simp] theorem State.modNet_pending (f : Net → Net) : (s.modNet f).pending = s.pending := rfl
@[simp] theorem State.modNet_fit (f : Net → Net) : (s.modNet f).fit = s.fit := rfl
@[simp] theorem State.modNet_pins (f : Net → Net) : (s.modNet f).pins = s.pins := rfl
@[simp] theorem State.modNet_phase (f : Net → Net) : (s.modNet f).phase = s.phase := rfl
@[simp] theorem State.modNet_clk (f : Net → Net) : (s.modNet f).clk = s.clk := rfl
@[simp] theorem State.modNet_pwr (f : Net → Net) : (s.modNet f).pwr = s.pwr := rfl
@[simp] theorem State.modNet_flt (f : Net → Net) : (s.modNet f).flt = s.flt := rfl
@[simp] theorem State.modNet_net (f : Net → Net) : (s.modNet f).net = f s.net := rfl
@[simp] theorem State.modNet_mgt (f : Net → Net) : (s.modNet f).mgt = s.mgt := rfl
@[simp] theorem State.modNet_maint (f : Net → Net) : (s.modNet f).maint = s.maint := rfl
@[simp] theorem State.modNet_parts (f : Net → Net) : (s.modNet f).parts = s.parts := rfl
@[simp] theorem State.modNet_ifaces (f : Net → Net) : (s.modNet f).ifaces = s.ifaces := rfl
@[simp] theorem State.modNet_ctxs (f : Net → Net) : (s.modNet f).ctxs = s.ctxs := rfl
@[simp] theorem State.modNet_allocs (f : Net → Net) : (s.modNet f).allocs = s.allocs := rfl
@[simp] theorem State.modNet_cmds (f : Net → Net) : (s.modNet f).cmds = s.cmds := rfl
@[simp] theorem State.modNet_boards (f : Net → Net) : (s.modNet f).boards = s.boards := rfl
@[simp] theorem State.modNet_shared (f : Net → Net) : (s.modNet f).shared = s.shared := rfl
@[simp] theorem State.modNet_keys (f : Net → Net) : (s.modNet f).keys = s.keys := rfl
@[simp] theorem State.modNet_issued (f : Net → Net) : (s.modNet f).issued = s.issued := rfl
@[simp] theorem State.modNet_fresh (f : Net → Net) : (s.modNet f).fresh = s.fresh := rfl
@[simp] theorem State.modNet_stamp (f : Net → Net) : (s.modNet f).stamp = s.stamp := rfl
@[simp] theorem State.modNet_out (f : Net → Net) : (s.modNet f).out = s.out := rfl

@[simp] theorem State.modMgt_pending (f : Mgt → Mgt) : (s.modMgt f).pending = s.pending := rfl
@[simp] theorem State.modMgt_fit (f : Mgt → Mgt) : (s.modMgt f).fit = s.fit := rfl
@[simp] theorem State.modMgt_pins (f : Mgt → Mgt) : (s.modMgt f).pins = s.pins := rfl
@[simp] theorem State.modMgt_phase (f : Mgt → Mgt) : (s.modMgt f).phase = s.phase := rfl
@[simp] theorem State.modMgt_clk (f : Mgt → Mgt) : (s.modMgt f).clk = s.clk := rfl
@[simp] theorem State.modMgt_pwr (f : Mgt → Mgt) : (s.modMgt f).pwr = s.pwr := rfl
@[simp] theorem State.modMgt_flt (f : Mgt → Mgt) : (s.modMgt f).flt = s.flt := rfl
@[simp] theorem State.modMgt_net (f : Mgt → Mgt) : (s.modMgt f).net = s.net := rfl
@[simp] theorem State.modMgt_mgt (f : Mgt → Mgt) : (s.modMgt f).mgt = f s.mgt := rfl
@[simp] theorem State.modMgt_maint (f : Mgt → Mgt) : (s.modMgt f).maint = s.maint := rfl
@[simp] theorem State.modMgt_parts (f : Mgt → Mgt) : (s.modMgt f).parts = s.parts := rfl
@[simp] theorem State.modMgt_ifaces (f : Mgt → Mgt) : (s.modMgt f).ifaces = s.ifaces := rfl
@[simp] theorem State.modMgt_ctxs (f : Mgt → Mgt) : (s.modMgt f).ctxs = s.ctxs := rfl
@[simp] theorem State.modMgt_allocs (f : Mgt → Mgt) : (s.modMgt f).allocs = s.allocs := rfl
@[simp] theorem State.modMgt_cmds (f : Mgt → Mgt) : (s.modMgt f).cmds = s.cmds := rfl
@[simp] theorem State.modMgt_boards (f : Mgt → Mgt) : (s.modMgt f).boards = s.boards := rfl
@[simp] theorem State.modMgt_shared (f : Mgt → Mgt) : (s.modMgt f).shared = s.shared := rfl
@[simp] theorem State.modMgt_keys (f : Mgt → Mgt) : (s.modMgt f).keys = s.keys := rfl
@[simp] theorem State.modMgt_issued (f : Mgt → Mgt) : (s.modMgt f).issued = s.issued := rfl
@[simp] theorem State.modMgt_fresh (f : Mgt → Mgt) : (s.modMgt f).fresh = s.fresh := rfl
@[simp] theorem State.modMgt_stamp (f : Mgt → Mgt) : (s.modMgt f).stamp = s.stamp := rfl
@[simp] theorem State.modMgt_out (f : Mgt → Mgt) : (s.modMgt f).out = s.out := rfl

@[simp] theorem State.modMaint_pending (f : Maint → Maint) : (s.modMaint f).pending = s.pending := rfl
@[simp] theorem State.modMaint_fit (f : Maint → Maint) : (s.modMaint f).fit = s.fit := rfl
@[simp] theorem State.modMaint_pins (f : Maint → Maint) : (s.modMaint f).pins = s.pins := rfl
@[simp] theorem State.modMaint_phase (f : Maint → Maint) : (s.modMaint f).phase = s.phase := rfl
@[simp] theorem State.modMaint_clk (f : Maint → Maint) : (s.modMaint f).clk = s.clk := rfl
@[simp] theorem State.modMaint_pwr (f : Maint → Maint) : (s.modMaint f).pwr = s.pwr := rfl
@[simp] theorem State.modMaint_flt (f : Maint → Maint) : (s.modMaint f).flt = s.flt := rfl
@[simp] theorem State.modMaint_net (f : Maint → Maint) : (s.modMaint f).net = s.net := rfl
@[simp] theorem State.modMaint_mgt (f : Maint → Maint) : (s.modMaint f).mgt = s.mgt := rfl
@[simp] theorem State.modMaint_maint (f : Maint → Maint) : (s.modMaint f).maint = f s.maint := rfl
@[simp] theorem State.modMaint_parts (f : Maint → Maint) : (s.modMaint f).parts = s.parts := rfl
@[simp] theorem State.modMaint_ifaces (f : Maint → Maint) : (s.modMaint f).ifaces = s.ifaces := rfl
@[simp] theorem State.modMaint_ctxs (f : Maint → Maint) : (s.modMaint f).ctxs = s.ctxs := rfl
@[simp] theorem State.modMaint_allocs (f : Maint → Maint) : (s.modMaint f).allocs = s.allocs := rfl
@[simp] theorem State.modMaint_cmds (f : Maint → Maint) : (s.modMaint f).cmds = s.cmds := rfl
@[simp] theorem State.modMaint_boards (f : Maint → Maint) : (s.modMaint f).boards = s.boards := rfl
@[simp] theorem State.modMaint_shared (f : Maint → Maint) : (s.modMaint f).shared = s.shared := rfl
@[simp] theorem State.modMaint_keys (f : Maint → Maint) : (s.modMaint f).keys = s.keys := rfl
@[simp] theorem State.modMaint_issued (f : Maint → Maint) : (s.modMaint f).issued = s.issued := rfl
@[simp] theorem State.modMaint_fresh (f : Maint → Maint) : (s.modMaint f).fresh = s.fresh := rfl
@[simp] theorem State.modMaint_stamp (f : Maint → Maint) : (s.modMaint f).stamp = s.stamp := rfl
@[simp] theorem State.modMaint_out (f : Maint → Maint) : (s.modMaint f).out = s.out := rfl

@[simp] theorem State.modFlt_pending (f : Flt → Flt) : (s.modFlt f).pending = s.pending := rfl
@[simp] theorem State.modFlt_fit (f : Flt → Flt) : (s.modFlt f).fit = s.fit := rfl
@[simp] theorem State.modFlt_pins (f : Flt → Flt) : (s.modFlt f).pins = s.pins := rfl
@[simp] theorem State.modFlt_phase (f : Flt → Flt) : (s.modFlt f).phase = s.phase := rfl
@[simp] theorem State.modFlt_clk (f : Flt → Flt) : (s.modFlt f).clk = s.clk := rfl
@[simp] theorem State.modFlt_pwr (f : Flt → Flt) : (s.modFlt f).pwr = s.pwr := rfl
@[simp] theorem State.modFlt_flt (f : Flt → Flt) : (s.modFlt f).flt = f s.flt := rfl
@[simp] theorem State.modFlt_net (f : Flt → Flt) : (s.modFlt f).net = s.net := rfl
@[simp] theorem State.modFlt_mgt (f : Flt → Flt) : (s.modFlt f).mgt = s.mgt := rfl
@[simp] theorem State.modFlt_maint (f : Flt → Flt) : (s.modFlt f).maint = s.maint := rfl
@[simp] theorem State.modFlt_parts (f : Flt → Flt) : (s.modFlt f).parts = s.parts := rfl
@[simp] theorem State.modFlt_ifaces (f : Flt → Flt) : (s.modFlt f).ifaces = s.ifaces := rfl
@[simp] theorem State.modFlt_ctxs (f : Flt → Flt) : (s.modFlt f).ctxs = s.ctxs := rfl
@[simp] theorem State.modFlt_allocs (f : Flt → Flt) : (s.modFlt f).allocs = s.allocs := rfl
@[simp] theorem State.modFlt_cmds (f : Flt → Flt) : (s.modFlt f).cmds = s.cmds := rfl
@[simp] theorem State.modFlt_boards (f : Flt → Flt) : (s.modFlt f).boards = s.boards := rfl
@[simp] theorem State.modFlt_shared (f : Flt → Flt) : (s.modFlt f).shared = s.shared := rfl
@[simp] theorem State.modFlt_keys (f : Flt → Flt) : (s.modFlt f).keys = s.keys := rfl
@[simp] theorem State.modFlt_issued (f : Flt → Flt) : (s.modFlt f).issued = s.issued := rfl
@[simp] theorem State.modFlt_fresh (f : Flt → Flt) : (s.modFlt f).fresh = s.fresh := rfl
@[simp] theorem State.modFlt_stamp (f : Flt → Flt) : (s.modFlt f).stamp = s.stamp := rfl
@[simp] theorem State.modFlt_out (f : Flt → Flt) : (s.modFlt f).out = s.out := rfl

@[simp] theorem State.emit_pending (o : Out) : (s.emit o).pending = s.pending := rfl
@[simp] theorem State.emit_fit (o : Out) : (s.emit o).fit = s.fit := rfl
@[simp] theorem State.emit_pins (o : Out) : (s.emit o).pins = s.pins := rfl
@[simp] theorem State.emit_phase (o : Out) : (s.emit o).phase = s.phase := rfl
@[simp] theorem State.emit_clk (o : Out) : (s.emit o).clk = s.clk := rfl
@[simp] theorem State.emit_pwr (o : Out) : (s.emit o).pwr = s.pwr := rfl
@[simp] theorem State.emit_flt (o : Out) : (s.emit o).flt = s.flt := rfl
@[simp] theorem State.emit_net (o : Out) : (s.emit o).net = s.net := rfl
@[simp] theorem State.emit_mgt (o : Out) : (s.emit o).mgt = s.mgt := rfl
@[simp] theorem State.emit_maint (o : Out) : (s.emit o).maint = s.maint := rfl
@[simp] theorem State.emit_parts (o : Out) : (s.emit o).parts = s.parts := rfl
@[simp] theorem State.emit_ifaces (o : Out) : (s.emit o).ifaces = s.ifaces := rfl
@[simp] theorem State.emit_ctxs (o : Out) : (s.emit o).ctxs = s.ctxs := rfl
@[simp] theorem State.emit_allocs (o : Out) : (s.emit o).allocs = s.allocs := rfl
@[simp] theorem State.emit_cmds (o : Out) : (s.emit o).cmds = s.cmds := rfl
@[simp] theorem State.emit_boards (o : Out) : (s.emit o).boards = s.boards := rfl
@[simp] theorem State.emit_shared (o : Out) : (s.emit o).shared = s.shared := rfl
@[simp] theorem State.emit_keys (o : Out) : (s.emit o).keys = s.keys := rfl
@[simp] theorem State.emit_issued (o : Out) : (s.emit o).issued = s.issued := rfl
@[simp] theorem State.emit_fresh (o : Out) : (s.emit o).fresh = s.fresh := rfl
@[simp] theorem State.emit_stamp (o : Out) : (s.emit o).stamp = s.stamp := rfl
@[simp] theorem State.emit_out (o : Out) : (s.emit o).out = s.out ++ [o] := rfl

@[simp] theorem State.tickStamp_pending : (s.tickStamp).pending = s.pending := rfl
@[simp] theorem State.tickStamp_fit : (s.tickStamp).fit = s.fit := rfl
@[simp] theorem State.tickStamp_pins : (s.tickStamp).pins = s.pins := rfl
@[simp] theorem State.tickStamp_phase : (s.tickStamp).phase = s.phase := rfl
@[simp] theorem State.tickStamp_clk : (s.tickStamp).clk = s.clk := rfl
@[simp] theorem State.tickStamp_pwr : (s.tickStamp).pwr = s.pwr := rfl
@[simp] theorem State.tickStamp_flt : (s.tickStamp).flt = s.flt := rfl
@[simp] theorem State.tickStamp_net : (s.tickStamp).net = s.net := rfl
@[simp] theorem State.tickStamp_mgt : (s.tickStamp).mgt = s.mgt := rfl
@[simp] theorem State.tickStamp_maint : (s.tickStamp).maint = s.maint := rfl
@[simp] theorem State.tickStamp_parts : (s.tickStamp).parts = s.parts := rfl
@[simp] theorem State.tickStamp_ifaces : (s.tickStamp).ifaces = s.ifaces := rfl
@[simp] theorem State.tickStamp_ctxs : (s.tickStamp).ctxs = s.ctxs := rfl
@[simp] theorem State.tickStamp_allocs : (s.tickStamp).allocs = s.allocs := rfl
@[simp] theorem State.tickStamp_cmds : (s.tickStamp).cmds = s.cmds := rfl
@[simp] theorem State.tickStamp_boards : (s.tickStamp).boards = s.boards := rfl
@[simp] theorem State.tickStamp_shared : (s.tickStamp).shared = s.shared := rfl
@[simp] theorem State.tickStamp_keys : (s.tickStamp).keys = s.keys := rfl
@[simp] theorem State.tickStamp_issued : (s.tickStamp).issued = s.issued := rfl
@[simp] theorem State.tickStamp_fresh : (s.tickStamp).fresh = s.fresh := rfl
@[simp] theorem State.tickStamp_stamp : (s.tickStamp).stamp = s.stamp + 1 := rfl
@[simp] theorem State.tickStamp_out : (s.tickStamp).out = s.out := rfl

@[simp] theorem State.useFresh_pending : (s.useFresh).pending = s.pending := rfl
@[simp] theorem State.useFresh_fit : (s.useFresh).fit = s.fit := rfl
@[simp] theorem State.useFresh_pins : (s.useFresh).pins = s.pins := rfl
@[simp] theorem State.useFresh_phase : (s.useFresh).phase = s.phase := rfl
@[simp] theorem State.useFresh_clk : (s.useFresh).clk = s.clk := rfl
@[simp] theorem State.useFresh_pwr : (s.useFresh).pwr = s.pwr := rfl
@[simp] theorem State.useFresh_flt : (s.useFresh).flt = s.flt := rfl
@[simp] theorem State.useFresh_net : (s.useFresh).net = s.net := rfl
@[simp] theorem State.useFresh_mgt : (s.useFresh).mgt = s.mgt := rfl
@[simp] theorem State.useFresh_maint : (s.useFresh).maint = s.maint := rfl
@[simp] theorem State.useFresh_parts : (s.useFresh).parts = s.parts := rfl
@[simp] theorem State.useFresh_ifaces : (s.useFresh).ifaces = s.ifaces := rfl
@[simp] theorem State.useFresh_ctxs : (s.useFresh).ctxs = s.ctxs := rfl
@[simp] theorem State.useFresh_allocs : (s.useFresh).allocs = s.allocs := rfl
@[simp] theorem State.useFresh_cmds : (s.useFresh).cmds = s.cmds := rfl
@[simp] theorem State.useFresh_boards : (s.useFresh).boards = s.boards := rfl
@[simp] theorem State.useFresh_shared : (s.useFresh).shared = s.shared := rfl
@[simp] theorem State.useFresh_keys : (s.useFresh).keys = s.keys := rfl
@[simp] theorem State.useFresh_issued : (s.useFresh).issued = s.issued := rfl
@[simp] theorem State.useFresh_fresh : (s.useFresh).fresh = s.fresh + 1 := rfl
@[simp] theorem State.useFresh_stamp : (s.useFresh).stamp = s.stamp := rfl
@[simp] theorem State.useFresh_out : (s.useFresh).out = s.out := rfl

@[simp] theorem State.modQueue_pending (i q : Nat) (f : Queue → Queue) : (s.modQueue i q f).pending = s.pending := rfl
@[simp] theorem State.modQueue_fit (i q : Nat) (f : Queue → Queue) : (s.modQueue i q f).fit = s.fit := rfl
@[simp] theorem State.modQueue_pins (i q : Nat) (f : Queue → Queue) : (s.modQueue i q f).pins = s.pins := rfl
@[simp] theorem State.modQueue_phase (i q : Nat) (f : Queue → Queue) : (s.modQueue i q f).phase = s.phase := rfl
@[simp] theorem State.modQueue_clk (i q : Nat) (f : Queue → Queue) : (s.modQueue i q f).clk = s.clk := rfl
@[simp] theorem State.modQueue_pwr (i q : Nat) (f : Queue → Queue) : (s.modQueue i q f).pwr = s.pwr := rfl
@[simp] theorem State.modQueue_flt (i q : Nat) (f : Queue → Queue) : (s.modQueue i q f).flt = s.flt := rfl
@[simp] theorem State.modQueue_net (i q : Nat) (f : Queue → Queue) : (s.modQueue i q f).net = s.net := rfl
@[simp] theorem State.modQueue_mgt (i q : Nat) (f : Queue → Queue) : (s.modQueue i q f).mgt = s.mgt := rfl
@[simp] theorem State.modQueue_maint (i q : Nat) (f : Queue → Queue) : (s.modQueue i q f).maint = s.maint := rfl
@[simp] theorem State.modQueue_parts (i q : Nat) (f : Queue → Queue) : (s.modQueue i q f).parts = s.parts := rfl
@[simp] theorem State.modQueue_ifaces (i q : Nat) (f : Queue → Queue) : (s.modQueue i q f).ifaces = modWhere (·.num == i) (·.modQueue q f) s.ifaces := rfl
@[simp] theorem State.modQueue_ctxs (i q : Nat) (f : Queue → Queue) : (s.modQueue i q f).ctxs = s.ctxs := rfl
@[simp] theorem State.modQueue_allocs (i q : Nat) (f : Queue → Queue) : (s.modQueue i q f).allocs = s.allocs := rfl
@[simp] theorem State.modQueue_cmds (i q : Nat) (f : Queue → Queue) : (s.modQueue i q f).cmds = s.cmds := rfl
@[simp] theorem State.modQueue_boards (i q : Nat) (f : Queue → Queue) : (s.modQueue i q f).boards = s.boards := rfl
@[simp] theorem State.modQueue_shared (i q : Nat) (f : Queue → Queue) : (s.modQueue i q f).shared = s.shared := rfl
@[simp] theorem State.modQueue_keys (i q : Nat) (f : Queue → Queue) : (s.modQueue i q f).keys = s.keys := rfl
@[simp] theorem State.modQueue_issued (i q : Nat) (f : Queue → Queue) : (s.modQueue i q f).issued = s.issued := rfl
@[simp] theorem State.modQueue_fresh (i q : Nat) (f : Queue → Queue) : (s.modQueue i q f).fresh = s.fresh := rfl
@[simp] theorem State.modQueue_stamp (i q : Nat) (f : Queue → Queue) : (s.modQueue i q f).stamp = s.stamp := rfl
@[simp] theorem State.modQueue_out (i q : Nat) (f : Queue → Queue) : (s.modQueue i q f).out = s.out := rfl

@[simp] theorem State.dropItems_pending (c : CmdId) : (s.dropItems c).pending = s.pending := rfl
@[simp] theorem State.dropItems_fit (c : CmdId) : (s.dropItems c).fit = s.fit := rfl
@[simp] theorem State.dropItems_pins (c : CmdId) : (s.dropItems c).pins = s.pins := rfl
@[simp] theorem State.dropItems_phase (c : CmdId) : (s.dropItems c).phase = s.phase := rfl
@[simp] theorem State.dropItems_clk (c : CmdId) : (s.dropItems c).clk = s.clk := rfl
@[simp] theorem State.dropItems_pwr (c : CmdId) : (s.dropItems c).pwr = s.pwr := rfl
@[simp] theorem State.dropItems_flt (c : CmdId) : (s.dropItems c).flt = s.flt := rfl
@[simp] theorem State.dropItems_net (c : CmdId) : (s.dropItems c).net = s.net := rfl
@[simp] theorem State.dropItems_mgt (c : CmdId) : (s.dropItems c).mgt = s.mgt := rfl
@[simp] theorem State.dropItems_maint (c : CmdId) : (s.dropItems c).maint = s.maint := rfl
@[simp] theorem State.dropItems_parts (c : CmdId) : (s.dropItems c).parts = s.parts := rfl
@[simp] theorem State.dropItems_ifaces (c : CmdId) : (s.dropItems c).ifaces = s.ifaces := rfl
@[simp] theorem State.dropItems_ctxs (c : CmdId) : (s.dropItems c).ctxs = s.ctxs := rfl
@[simp] theorem State.dropItems_allocs (c : CmdId) : (s.dropItems c).allocs = s.allocs := rfl
@[simp] theorem State.dropItems_cmds (c : CmdId) : (s.dropItems c).cmds = s.cmds := rfl
@[simp] theorem State.dropItems_boards (c : CmdId) : (s.dropItems c).boards = (s.boards.map fun (t, b) => (t, b.forget c)).filter fun b => !(b.2.entries.isEmpty && b.2.held.isEmpty) := rfl
@[simp] theorem State.dropItems_shared (c : CmdId) : (s.dropItems c).shared = s.shared := rfl
@[simp] theorem State.dropItems_keys (c : CmdId) : (s.dropItems c).keys = s.keys := rfl
@[simp] theorem State.dropItems_issued (c : CmdId) : (s.dropItems c).issued = s.issued := rfl
@[simp] theorem State.dropItems_fresh (c : CmdId) : (s.dropItems c).fresh = s.fresh := rfl
@[simp] theorem State.dropItems_stamp (c : CmdId) : (s.dropItems c).stamp = s.stamp := rfl
@[simp] theorem State.dropItems_out (c : CmdId) : (s.dropItems c).out = s.out := rfl

@[simp] theorem State.leaveQueues_pending (c : CmdId) : (s.leaveQueues c).pending = s.pending := rfl
@[simp] theorem State.leaveQueues_fit (c : CmdId) : (s.leaveQueues c).fit = s.fit := rfl
@[simp] theorem State.leaveQueues_pins (c : CmdId) : (s.leaveQueues c).pins = s.pins := rfl
@[simp] theorem State.leaveQueues_phase (c : CmdId) : (s.leaveQueues c).phase = s.phase := rfl
@[simp] theorem State.leaveQueues_clk (c : CmdId) : (s.leaveQueues c).clk = s.clk := rfl
@[simp] theorem State.leaveQueues_pwr (c : CmdId) : (s.leaveQueues c).pwr = s.pwr := rfl
@[simp] theorem State.leaveQueues_flt (c : CmdId) : (s.leaveQueues c).flt = s.flt := rfl
@[simp] theorem State.leaveQueues_net (c : CmdId) : (s.leaveQueues c).net = s.net := rfl
@[simp] theorem State.leaveQueues_mgt (c : CmdId) : (s.leaveQueues c).mgt = s.mgt := rfl
@[simp] theorem State.leaveQueues_maint (c : CmdId) : (s.leaveQueues c).maint = s.maint := rfl
@[simp] theorem State.leaveQueues_parts (c : CmdId) : (s.leaveQueues c).parts = s.parts := rfl
@[simp] theorem State.leaveQueues_ifaces (c : CmdId) : (s.leaveQueues c).ifaces = s.ifaces := rfl
@[simp] theorem State.leaveQueues_ctxs (c : CmdId) : (s.leaveQueues c).ctxs = s.ctxs := rfl
@[simp] theorem State.leaveQueues_allocs (c : CmdId) : (s.leaveQueues c).allocs = s.allocs := rfl
@[simp] theorem State.leaveQueues_cmds (c : CmdId) : (s.leaveQueues c).cmds = s.cmds := rfl
@[simp] theorem State.leaveQueues_boards (c : CmdId) : (s.leaveQueues c).boards = s.boards := rfl
@[simp] theorem State.leaveQueues_shared (c : CmdId) : (s.leaveQueues c).shared = { s.shared with scan := s.shared.scan.filter (· != c), loads := s.shared.loads.filter (· != c) } := rfl
@[simp] theorem State.leaveQueues_keys (c : CmdId) : (s.leaveQueues c).keys = s.keys := rfl
@[simp] theorem State.leaveQueues_issued (c : CmdId) : (s.leaveQueues c).issued = s.issued := rfl
@[simp] theorem State.leaveQueues_fresh (c : CmdId) : (s.leaveQueues c).fresh = s.fresh := rfl
@[simp] theorem State.leaveQueues_stamp (c : CmdId) : (s.leaveQueues c).stamp = s.stamp := rfl
@[simp] theorem State.leaveQueues_out (c : CmdId) : (s.leaveQueues c).out = s.out := rfl

@[simp] theorem State.markReady_pending (c : CmdId) (r : Result) : (s.markReady c r).pending = s.pending := rfl
@[simp] theorem State.markReady_fit (c : CmdId) (r : Result) : (s.markReady c r).fit = s.fit := rfl
@[simp] theorem State.markReady_pins (c : CmdId) (r : Result) : (s.markReady c r).pins = s.pins := rfl
@[simp] theorem State.markReady_phase (c : CmdId) (r : Result) : (s.markReady c r).phase = s.phase := rfl
@[simp] theorem State.markReady_clk (c : CmdId) (r : Result) : (s.markReady c r).clk = s.clk := rfl
@[simp] theorem State.markReady_pwr (c : CmdId) (r : Result) : (s.markReady c r).pwr = s.pwr := rfl
@[simp] theorem State.markReady_flt (c : CmdId) (r : Result) : (s.markReady c r).flt = s.flt := rfl
@[simp] theorem State.markReady_net (c : CmdId) (r : Result) : (s.markReady c r).net = s.net := rfl
@[simp] theorem State.markReady_mgt (c : CmdId) (r : Result) : (s.markReady c r).mgt = s.mgt := rfl
@[simp] theorem State.markReady_maint (c : CmdId) (r : Result) : (s.markReady c r).maint = s.maint := rfl
@[simp] theorem State.markReady_parts (c : CmdId) (r : Result) : (s.markReady c r).parts = s.parts := rfl
@[simp] theorem State.markReady_ifaces (c : CmdId) (r : Result) : (s.markReady c r).ifaces = s.ifaces := rfl
@[simp] theorem State.markReady_ctxs (c : CmdId) (r : Result) : (s.markReady c r).ctxs = s.ctxs := rfl
@[simp] theorem State.markReady_allocs (c : CmdId) (r : Result) : (s.markReady c r).allocs = s.allocs := rfl
@[simp] theorem State.markReady_cmds (c : CmdId) (r : Result) : (s.markReady c r).cmds = modWhere (·.id == c) (fun k => { k with phase := .ready r, order := s.stamp }) s.cmds := rfl
@[simp] theorem State.markReady_boards (c : CmdId) (r : Result) : (s.markReady c r).boards = s.boards := rfl
@[simp] theorem State.markReady_shared (c : CmdId) (r : Result) : (s.markReady c r).shared = s.shared := rfl
@[simp] theorem State.markReady_keys (c : CmdId) (r : Result) : (s.markReady c r).keys = s.keys := rfl
@[simp] theorem State.markReady_issued (c : CmdId) (r : Result) : (s.markReady c r).issued = s.issued := rfl
@[simp] theorem State.markReady_fresh (c : CmdId) (r : Result) : (s.markReady c r).fresh = s.fresh := rfl
@[simp] theorem State.markReady_stamp (c : CmdId) (r : Result) : (s.markReady c r).stamp = s.stamp + 1 := rfl
@[simp] theorem State.markReady_out (c : CmdId) (r : Result) : (s.markReady c r).out = s.out := rfl

end Sys2Proof.Machine
end

