-- ==== Sys2Proof/Laws/Board.lean ====
section
/-!
SUPPORT. What the scoreboards do: work items change the boards and the mark of their command and nothing else, and a single
item that is ready runs at once.
-/
namespace Sys2Proof.Machine

/-- The arrays change the boards only. -/
theorem State.drainBoards_eq (n : Nat) (s : State) : ∃ b, State.drainBoards n s = { s with boards := b } := by
  induction n generalizing s with
  | zero => exact ⟨s.boards, rfl⟩
  | succ n ih =>
    unfold State.drainBoards
    split
    · exact ⟨s.boards, rfl⟩
    · exact (ih _).imp fun _ h => h

/-- A command that has inserted its items only lets the arrays go on. -/
theorem State.runItems_again {s : State} {c : Cmd} (e : Env) (ps : List Product)
    (h : (s.cmd? c.id).map (·.inserted) = some true) : ∃ b, s.runItems c e ps = { s with boards := b } := by
  unfold State.runItems
  simp only [h, Option.getD_some, if_true]
  obtain ⟨b, hb⟩ := State.drainBoards_eq (sumBy (fun b => b.2.entries.length + b.2.held.length) s.boards) s
  exact ⟨Board.tidy b, by rw [hb]⟩

/-- A command that inserts its items is marked, and the boards change. -/
theorem State.runItems_first {s : State} {c : Cmd} (e : Env) (ps : List Product)
    (h : (s.cmd? c.id).map (·.inserted) = some false) :
    ∃ b, s.runItems c e ps = { s.modCmd c.id (fun k => { k with inserted := true }) with boards := b } := by
  unfold State.runItems
  simp only [h, Option.getD_some, Bool.false_eq_true, if_false]
  obtain ⟨b, hb⟩ := State.drainBoards_eq (sumBy (fun b => b.2.entries.length + b.2.held.length)
    ((s.insertItems c e (itemsOf c.id ps)).modCmd c.id fun k => { k with inserted := true }).boards)
    ((s.insertItems c e (itemsOf c.id ps)).modCmd c.id fun k => { k with inserted := true })
  exact ⟨Board.tidy b, by rw [hb]; rfl⟩

/-- A product of no rows, or of no passes, has no item. -/
theorem Product.items_none {p : Product} (h : p.m = 0 ∨ p.k = 0) (hk : 0 < p.kPass) (c : CmdId) (n : Nat) : p.items c n = [] := by
  have hp : (p.kPass - 1) / p.kPass = 0 := Nat.div_eq_of_lt (by omega)
  rcases h with h | h <;> simp [Product.items, h, hp]

/-- A command without items has nothing to wait for. -/
theorem State.runItems_none {s : State} {c : Cmd} {e : Env} {ps : List Product} (hb : s.boards = [])
    (hc : (s.cmd? c.id).map (·.inserted) = some false) (hi : itemsOf c.id ps = []) :
    s.runItems c e ps = { s.modCmd c.id (fun k => { k with inserted := true }) with boards := [] } := by
  unfold State.runItems State.insertItems
  simp only [hc, hi, hb, Option.getD_some, Bool.false_eq_true, if_false]
  rfl

theorem Tab.mod_nil {α : Type} (k : Nat) (d : α) (f : α → α) : Tab.mod ([] : Tab α) k d f = [(k, f d)] := rfl

theorem Tab.mod_single {α : Type} (k : Nat) (v d : α) (f : α → α) : Tab.mod [(k, v)] k d f = [(k, f v)] := by
  simp [Tab.mod, Tab.get, Tab.set]

/-- The only item of a command runs at once where it is ready. -/
theorem State.runItems_one {s : State} {c : Cmd} {e : Env} {ps : List Product} {i : WorkItem} (hb : s.boards = [])
    (hc : (s.cmd? c.id).map (·.inserted) = some false) (hi : itemsOf c.id ps = [i])
    (hr : ∀ t, ({ s.modCmd c.id (fun k => { k with inserted := true }) with
      boards := [(t, { entries := [i], held := [] })] }).itemReady i = true) :
    s.runItems c e ps = { s.modCmd c.id (fun k => { k with inserted := true }) with boards := [] } := by
  unfold State.runItems State.insertItems
  simp only [hc, hi, hb, Option.getD_some, Bool.false_eq_true, if_false]
  generalize ht : e.part.firstTile + (assignTo e.fw c.opcode c.args e.part.tiles (2 ^ 50 + 0) (2 ^ 50 + 0)).tile = t
  have h1 : ((List.range [i].length).zip [i]).foldl (fun bs (x : Nat × WorkItem) =>
      Tab.mod bs (e.part.firstTile + (assignTo e.fw c.opcode c.args e.part.tiles (2 ^ 50 + x.1) (2 ^ 50 + x.1)).tile) Board.empty
        (·.insert x.2)) ([] : Tab Board) = [(t, { entries := [i], held := [] })] := by
    rw [← ht]; rfl
  rw [h1]
  have h2 : ({ s with boards := [(t, ({ entries := [i], held := [] } : Board))] } : State).modCmd c.id
      (fun k => { k with inserted := true }) = { s.modCmd c.id (fun k => { k with inserted := true }) with
        boards := [(t, { entries := [i], held := [] })] } := rfl
  rw [h2]
  have h3 : State.nextItem { s.modCmd c.id (fun k => { k with inserted := true }) with
      boards := [(t, { entries := [i], held := [] })] } = some (t, i) := by
    unfold State.nextItem Board.oldestReady
    simp only [List.findSome?_cons, List.find?_cons]
    rw [hr t]
    rfl
  simp only [sumBy, List.foldl_cons, List.foldl_nil, List.length_cons, List.length_nil]
  simp only [State.drainBoards, h3, Tab.mod_single]
  simp [Board.issue, Board.topUp, dropFirst, Board.tidy]

end Sys2Proof.Machine
end

