-- ==== Sys2Proof/Laws/Rows.lean ====
section
/-!
SUPPORT. What the shared operations of the opcode rows do, once each: finding a command, checking it, reading for it, and
making it ready.
-/
namespace Sys2Proof.Machine

/-! ## Lists -/

theorem modWhere_id {α : Type} {p : α → Bool} {f : α → α} {l : List α} (h : ∀ x ∈ l, p x = true → f x = x) :
    modWhere p f l = l := by
  induction l with
  | nil => rfl
  | cons x r ih =>
    have hr : modWhere p f r = r := ih fun y hy => h y (List.mem_cons_of_mem _ hy)
    simp only [modWhere, List.map_cons] at hr ⊢
    rw [hr]
    by_cases hp : p x = true
    · rw [if_pos hp, h x List.mem_cons_self hp]
    · rw [if_neg hp]

theorem find_modWhere {α : Type} {p : α → Bool} {f : α → α} {l : List α} (h : ∀ x, p x = true → p (f x) = true) :
    (modWhere p f l).find? p = (l.find? p).map f := by
  induction l with
  | nil => rfl
  | cons x r ih =>
    simp only [modWhere, List.map_cons] at ih ⊢
    by_cases hp : p x = true
    · rw [if_pos hp, List.find?_cons_of_pos (h x hp), List.find?_cons_of_pos hp]; rfl
    · rw [if_neg hp, List.find?_cons_of_neg hp, List.find?_cons_of_neg hp, ih]

theorem find_modWhere_other {α : Type} {p q : α → Bool} {f : α → α} {l : List α}
    (h : ∀ x, p x = true → q x = false ∧ q (f x) = false) : (modWhere p f l).find? q = l.find? q := by
  induction l with
  | nil => rfl
  | cons x r ih =>
    simp only [modWhere, List.map_cons] at ih ⊢
    by_cases hp : p x = true
    · rw [if_pos hp, List.find?_cons_of_neg (by simp [(h x hp).2]), List.find?_cons_of_neg (by simp [(h x hp).1]), ih]
    · rw [if_neg hp]
      by_cases hq : q x = true
      · rw [List.find?_cons_of_pos hq, List.find?_cons_of_pos hq]
      · rw [List.find?_cons_of_neg hq, List.find?_cons_of_neg hq, ih]

/-- A table holds at a key what was stored there. -/
theorem Tab.get_set {α : Type} (t : Tab α) (k : Nat) (v d : α) : Tab.get (Tab.set t k v) k d = v := by
  induction t with
  | nil => simp [Tab.set, Tab.get]
  | cons e r ih =>
    unfold Tab.set
    split
    · simp [Tab.get]
    · split
      · simp [Tab.get]
      · next h => rw [Tab.get, if_neg h, ih]

/-! ## A command that runs -/

theorem State.cmd?_id {s : State} {id : CmdId} {k : Cmd} (h : s.cmd? id = some k) : k.id = id := by
  have := List.find?_some h
  simpa using this

theorem State.env?_cmd {s : State} {op : Nat} {id : CmdId} {k : Cmd} {e : Env} (h : s.env? op id = some (k, e)) :
    s.cmd? id = some k := by
  unfold State.env? at h
  split at h
  · cases h
  · next c hc =>
    split at h
    · split at h
      · split at h
        · simp only [Option.some.injEq, Prod.mk.injEq] at h; rw [hc, h.1]
        · cases h
      · cases h
    · cases h

theorem Runs.id_eq {s : State} {op : Nat} {id : CmdId} {k : Cmd} {e : Env} (h : Runs s op id k e) : k.id = id :=
  State.cmd?_id (State.env?_cmd h.env)

/-- A command that runs does what its opcode's function says: it goes on, or becomes ready with a result. -/
theorem runOp_runs {s : State} {op : Nat} {id : CmdId} {k : Cmd} {e : Env} (h : Runs s op id k e)
    (f : State → Cmd → Env → State × Option Result) :
    runOp op id s f = match f s k e with
      | (t, none) => .next t
      | (t, some r) => .next (finishRow t k r) := by
  unfold runOp
  simp only [h.awake, if_true, h.env, h.role, h.seeded, h.sound, Bool.not_true, Bool.false_eq_true, if_false]
  all_goals rcases f s k e with ⟨t, _ | r⟩ <;> rfl

/-- While the engines are stopped, or when the command is not dispatched, an opcode row leaves the state as it is. -/
theorem runOp_asleep {s : State} (op : Nat) (id : CmdId) (f : State → Cmd → Env → State × Option Result)
    (h : s.awake = false) : runOp op id s f = .next s := by
  unfold runOp
  simp [h]

/-- A result with no writes becomes ready at once. -/
theorem finishRow_bare {t : State} {k : Cmd} {r : Result} (h : r.writes = []) :
    finishRow t k r = t.markReady k.id r := by
  have hn : t.reserveNeed (t.cmdPart k.id) r.writes = [] := by
    rw [h]; unfold State.reserveNeed; split <;> rfl
  unfold finishRow
  simp [hn]

/-- Where no checkpoint drains, every result becomes ready at once. -/
theorem finishRow_undrained {t : State} {k : Cmd} {r : Result} (h : t.undrained k.id) :
    finishRow t k r = t.markReady k.id r := by
  have hn : t.reserveNeed (t.cmdPart k.id) r.writes = [] := by
    unfold State.reserveNeed; rw [show (t.part? (t.cmdPart k.id)).bind (·.ckp.drain) = none from h]
  unfold finishRow
  simp [hn]

/-! ## Reads without errors -/

theorem unitsHit_nil (a : Alloc) (lo hi : Nat) : unitsHit a [] lo hi = [] := by
  simp [unitsHit]

/-- Copies of weights without read errors. -/
def Epo.Sound (e : Epo) : Prop := ∀ r ∈ e.areas, (∀ us ∈ r.corrs, us = []) ∧ ∀ us ∈ r.uncorrs, us = []

theorem mem_modWhere {α : Type} {p : α → Bool} {f : α → α} {l : List α} {x : α} (h : x ∈ modWhere p f l) :
    x ∈ l ∨ ∃ y ∈ l, x = f y := by
  unfold modWhere at h
  obtain ⟨y, hy, rfl⟩ := List.mem_map.mp h
  by_cases hp : p y = true
  · exact .inr ⟨y, hy, by simp [hp]⟩
  · exact .inl (by simpa [hp] using hy)

/-- Facing another copy changes roles only. -/
theorem Epo.face_sound {e : Epo} (h : e.Sound) (i : Nat) : (e.face i).Sound := by
  unfold Epo.face
  split
  · next v hv =>
    intro r hr
    rcases List.mem_or_eq_of_mem_set hr with hr | rfl
    · rcases mem_modWhere hr with hr | ⟨y, hy, rfl⟩
      · exact h r hr
      · exact h y hy
    · exact h v (List.mem_of_getElem? hv)
  · exact h

theorem getD_nil {l : List (List Nat)} (h : ∀ us ∈ l, us = []) (k : Nat) : l.getD k [] = [] := by
  rw [List.getD_eq_getElem?_getD]
  cases hk : l[k]? with
  | none => rfl
  | some us => exact h us (List.mem_of_getElem? hk)

/-- What a handle names in sound copies reads without error. -/
theorem Epo.resolve_sound {e : Epo} (h : e.Sound) {a : Alloc} (ha : a.corr = [] ∧ a.uncorr = []) (r : AreaRole) :
    (e.resolve r a).corr = [] ∧ (e.resolve r a).uncorr = [] := by
  unfold Epo.resolve
  split
  · next k v hk hv =>
    have := h v (List.mem_of_find?_eq_some hv)
    exact ⟨getD_nil this.1 k, getD_nil this.2 k⟩
  · exact ha

theorem State.clean.part {s : State} (h : s.clean) {p : Nat} {q : Part} (hq : s.part? p = some q) : q.epo.Sound :=
  fun r hr => ⟨(h.2 q (List.mem_of_find?_eq_some hq) r hr).1, (h.2 q (List.mem_of_find?_eq_some hq) r hr).2.1⟩

theorem State.clean.alloc {s : State} (h : s.clean) {p : Nat} {w : W32} {a : Alloc} (ha : s.alloc? p w = some a) :
    a.corr = [] ∧ a.uncorr = [] :=
  ⟨(h.1 a (List.mem_of_find?_eq_some ha)).1, (h.1 a (List.mem_of_find?_eq_some ha)).2.1⟩

/-- Every copy that a command may face reads without error. -/
theorem State.facedTo_contents {s : State} (h : s.clean) {p : Nat} {i : Option Nat} {w : W32} {a : Alloc}
    (ha : (s.facedTo p i).contents p w = some a) : a.corr = [] ∧ a.uncorr = [] := by
  cases i with
  | none =>
    simp only [State.facedTo, State.contents] at ha
    split at ha
    · next q hq =>
      obtain ⟨b, hb, rfl⟩ := Option.map_eq_some_iff.mp ha
      exact Epo.resolve_sound (h.part hq) (h.alloc hb) .bloom
    · cases ha
  | some i =>
    simp only [State.facedTo, State.contents] at ha
    split at ha
    · next q hq =>
      have hp : (s.modPart p fun q => { q with epo := q.epo.face i }).part? p =
          (s.part? p).map fun q => { q with epo := q.epo.face i } := find_modWhere fun q hq => by simpa using hq
      rw [hp] at hq
      obtain ⟨q', hq', rfl⟩ := Option.map_eq_some_iff.mp hq
      obtain ⟨b, hb, rfl⟩ := Option.map_eq_some_iff.mp ha
      exact Epo.resolve_sound (Epo.face_sound (h.part hq') i) (h.alloc hb) .bloom
    · cases ha

theorem State.readBytesAt_clean {s : State} (h : s.clean) (c : Cmd) (p : Nat) (w : W32) (lo hi : Nat) :
    s.readBytesAt c p w lo hi = (s, false) := by
  have key : ∀ i, (((s.facedTo p i).contents p w).map (·.readsWell lo hi)).getD true = true := fun i => by
    cases ha : (s.facedTo p i).contents p w with
    | none => rfl
    | some a => simp [Alloc.readsWell, State.facedTo_contents h ha, unitsHit_nil]
  unfold State.readBytesAt
  dsimp only
  rw [if_pos (key _)]

theorem State.readBuffers_clean {s : State} (h : s.clean) (c : Cmd) (l : List (W32 × Nat × Nat)) :
    s.readBuffers c l = (s, false) := by
  induction l with
  | nil => rfl
  | cons x r ih =>
    obtain ⟨w, lo, n⟩ := x
    simp only [State.readBuffers, State.readBytes, State.readBytesAt_clean h, ih, Bool.or_self]

theorem State.readRanges_clean {s : State} (h : s.clean) (c : Cmd) (w : W32) (l : List (Nat × Nat)) :
    s.readRanges c w l = (s, false) := by
  induction l with
  | nil => rfl
  | cons x r ih =>
    obtain ⟨lo, hi⟩ := x
    simp only [State.readRanges, State.readBytes, State.readBytesAt_clean h, ih, Bool.or_self]

theorem State.readRefs_clean {s : State} (h : s.clean) (c : Cmd) (e : Env) (l : List TRef) :
    s.readRefs c e l = (s, false) := by
  induction l with
  | nil => rfl
  | cons x r ih =>
    simp only [State.readRefs]
    split
    · next a _ => simp only [State.readRanges_clean h, ih, Bool.or_self]
    · simp only [ih, Bool.or_self]

/-! ## Checks -/

theorem foldl_bad (cs : List Check) (o : Nat) :
    cs.foldl (fun m c => if c.2 then m else match m with
      | none => some c.1
      | some o => if c.1 < o then some c.1 else m) (some o) ≠ none := by
  induction cs generalizing o with
  | nil => simp
  | cons c r ih =>
    simp only [List.foldl_cons]
    by_cases h : c.2 = true
    · rw [if_pos h]; exact ih o
    · rw [if_neg h]
      by_cases h2 : c.1 < o
      · rw [if_pos h2]; exact ih c.1
      · rw [if_neg h2]; exact ih o

theorem firstBad_none {cs : List Check} : firstBad cs = none ↔ ∀ c ∈ cs, c.2 = true := by
  induction cs with
  | nil => simp [firstBad]
  | cons c r ih =>
    unfold firstBad at ih ⊢
    simp only [List.foldl_cons, List.mem_cons, forall_eq_or_imp]
    by_cases h : c.2 = true
    · rw [if_pos h, ih]; simp [h]
    · rw [if_neg h]
      exact ⟨fun hn => absurd hn (foldl_bad r c.1), fun hn => absurd hn.1 h⟩

/-- A command whose fields and data obey their rules, in memory without read errors, goes on to its work. -/
theorem checked_pass {s : State} {c : Cmd} {fields : List Check} {st : Bool} {reads : List (W32 × Nat × Nat)}
    {refs : List TRef} {e : Env} {k : State → State × Option Result} (hf : fieldsOk fields) (hs : st = true)
    (hc : s.clean) : checked s c fields st reads refs e k = k s := by
  unfold checked
  rw [show firstBad fields = none from hf]
  simp [hs, State.readBuffers_clean hc, State.readRefs_clean hc]

/-- The same without reads. -/
theorem checked_bare {s : State} {c : Cmd} {fields : List Check} {st : Bool} {e : Env} {k : State → State × Option Result}
    (hf : fieldsOk fields) (hs : st = true) : checked s c fields st [] [] e k = k s := by
  unfold checked
  rw [show firstBad fields = none from hf]
  simp [hs, State.readBuffers, State.readRefs]

/-- A field that breaks its rule ends the command with BAD_PACKET at the parameter of the first such field (spec 11 R287). -/
theorem checked_bad {s : State} {c : Cmd} {fields : List Check} {st : Bool} {reads : List (W32 × Nat × Nat)}
    {refs : List TRef} {e : Env} {k : State → State × Option Result} {o : Nat} (h : firstBad fields = some o) :
    checked s c fields st reads refs e k = (s, some (Result.bad (paramStart c.opcode o))) := by
  unfold checked
  rw [h]

/-- A change of an interface is seen by its number. -/
theorem State.part?_modPart (s : State) (n : Nat) {f : Part → Part} (h : ∀ q, (f q).num = q.num) :
    (s.modPart n f).part? n = (s.part? n).map f :=
  find_modWhere fun q hq => by simpa [h] using hq

theorem State.iface?_modIface (s : State) (n : Nat) (g : Iface → Iface) (h : ∀ f, (g f).num = f.num) :
    (s.modIface n g).iface? n = (s.iface? n).map g :=
  find_modWhere fun x hx => by rw [h]; exact hx

/-- A change of a host port is seen by its number. -/
theorem State.port?_modPort (s : State) (k : Nat) (g : HostPort → HostPort) : (s.modPort k g).port? k = (s.port? k).map g := by
  unfold State.port? State.modPort
  dsimp only
  induction s.net.ports with
  | nil => rfl
  | cons x r ih =>
    rw [List.map_cons, List.find?_cons, List.find?_cons]
    by_cases hx : (x.1 == k) = true
    · simp [hx]
    · simpa [hx] using ih

end Sys2Proof.Machine
end

