-- ==== Sys2Proof/Laws/Completion.lean ====
section
/-!
SUPPORT. What completing commands leaves as it was: replies, signals, dropped transfers and the completions passed down a
chain of dependents touch neither the allocations nor the epochs, rules, semaphores and STEP of a partition.
-/
namespace Sys2Proof.Machine

/-- What the committed store of a partition is, beside its allocations. -/
def Part.core (p : Part) : Nat × Epo × Tab Banks × Tab Nat × W64 := (p.num, p.epo, p.rules, p.sems, p.step)

/-- Nothing of the committed store has changed, and no command has joined those in flight. -/
structure SameStore (s t : State) : Prop where
  pending : t.pending = s.pending
  fit : t.fit = s.fit
  pins : t.pins = s.pins
  phase : t.phase = s.phase
  clk : t.clk = s.clk
  flt : t.flt = s.flt
  mgt : t.mgt = s.mgt
  maint : t.maint = s.maint
  allocs : t.allocs = s.allocs
  keys : t.keys = s.keys
  parts : t.parts.map Part.core = s.parts.map Part.core
  gone : ∀ id, s.cmd? id = none → t.cmd? id = none

theorem SameStore.refl (s : State) : SameStore s s := ⟨rfl, rfl, rfl, rfl, rfl, rfl, rfl, rfl, rfl, rfl, rfl, fun _ h => h⟩

theorem SameStore.trans {s t u : State} (h : SameStore s t) (k : SameStore t u) : SameStore s u :=
  ⟨k.pending.trans h.pending, k.fit.trans h.fit, k.pins.trans h.pins, k.phase.trans h.phase, k.clk.trans h.clk,
   k.flt.trans h.flt, k.mgt.trans h.mgt, k.maint.trans h.maint, k.allocs.trans h.allocs, k.keys.trans h.keys,
   k.parts.trans h.parts, fun id e => k.gone id (h.gone id e)⟩

theorem map_core_modWhere {p : Part → Bool} {f : Part → Part} (h : ∀ q, (f q).core = q.core) (l : List Part) :
    (modWhere p f l).map Part.core = l.map Part.core := by
  induction l with
  | nil => rfl
  | cons x r ih =>
    simp only [modWhere, List.map_cons, List.map_map] at ih ⊢
    rw [ih]
    by_cases hx : p x <;> simp [hx, h]

theorem SameStore.modPart (s : State) (n : Nat) {f : Part → Part} (h : ∀ q, (f q).core = q.core) :
    SameStore s (s.modPart n f) :=
  ⟨rfl, rfl, rfl, rfl, rfl, rfl, rfl, rfl, rfl, rfl, map_core_modWhere h _, fun _ e => e⟩

theorem SameStore.modNet (s : State) (f : Net → Net) : SameStore s (s.modNet f) :=
  ⟨rfl, rfl, rfl, rfl, rfl, rfl, rfl, rfl, rfl, rfl, rfl, fun _ e => e⟩

theorem SameStore.modQp (s : State) (p q : Nat) (f : Qp → Qp) : SameStore s (s.modQp p q f) :=
  ⟨rfl, rfl, rfl, rfl, rfl, rfl, rfl, rfl, rfl, rfl, rfl, fun _ e => e⟩

theorem SameStore.modQueue (s : State) (i q : Nat) (f : Queue → Queue) : SameStore s (s.modQueue i q f) :=
  ⟨rfl, rfl, rfl, rfl, rfl, rfl, rfl, rfl, rfl, rfl, rfl, fun _ e => e⟩

theorem SameStore.modPwr (s : State) (f : Pwr → Pwr) : SameStore s (s.modPwr f) :=
  ⟨rfl, rfl, rfl, rfl, rfl, rfl, rfl, rfl, rfl, rfl, rfl, fun _ e => e⟩

theorem SameStore.modIface (s : State) (n : Nat) (f : Iface → Iface) : SameStore s (s.modIface n f) :=
  ⟨rfl, rfl, rfl, rfl, rfl, rfl, rfl, rfl, rfl, rfl, rfl, fun _ e => e⟩

theorem SameStore.modCtx (s : State) (n : Nat) (f : Ctx → Ctx) : SameStore s (s.modCtx n f) :=
  ⟨rfl, rfl, rfl, rfl, rfl, rfl, rfl, rfl, rfl, rfl, rfl, fun _ e => e⟩

theorem SameStore.emit (s : State) (o : Out) : SameStore s (s.emit o) :=
  ⟨rfl, rfl, rfl, rfl, rfl, rfl, rfl, rfl, rfl, rfl, rfl, fun _ e => e⟩

theorem SameStore.useFresh (s : State) : SameStore s s.useFresh :=
  ⟨rfl, rfl, rfl, rfl, rfl, rfl, rfl, rfl, rfl, rfl, rfl, fun _ e => e⟩

theorem SameStore.dropCmds (s : State) (p : Cmd → Bool) : SameStore s { s with cmds := s.cmds.filter p } :=
  ⟨rfl, rfl, rfl, rfl, rfl, rfl, rfl, rfl, rfl, rfl, rfl, fun id e => by
    unfold State.cmd? at e ⊢
    rw [List.find?_eq_none] at e ⊢
    intro x hx
    exact e x (List.mem_filter.mp hx).1⟩

theorem SameStore.noteSched (s : State) : SameStore s s.noteSched :=
  ⟨rfl, rfl, rfl, rfl, rfl, rfl, rfl, rfl, rfl, rfl, map_core_modWhere (f := fun p => { p with callers := s.callers p }) (fun _ => rfl) _, fun _ e => e⟩

/-- A fold of changes that keep the store keeps it. -/
theorem SameStore.foldl {α : Type} {f : State → α → State} (h : ∀ s x, SameStore s (f s x)) (s : State) (l : List α) : SameStore s (l.foldl f s) := by
  induction l generalizing s with
  | nil => exact .refl s
  | cons x l ih => exact .trans (h s x) (ih _)

theorem SameStore.emitControl (s : State) (f : SendFlow) (ty psn : Nat) (arg : W32) : SameStore s (s.emitControl f ty psn arg) :=
  ⟨rfl, rfl, rfl, rfl, rfl, rfl, rfl, rfl, rfl, rfl, rfl, fun _ e => e⟩

theorem SameStore.abortData (s : State) (p : Nat) (c : CmdId) : SameStore s (s.abortData p c) := by
  unfold State.abortData
  refine .foldl (fun s f => ?_) s _
  split
  · exact .trans (.modNet s _) (.foldl (fun s _ => .emitControl s _ _ _ _) _ _)
  · exact .refl s

theorem SameStore.forgetSent (s : State) (c : CmdId) : SameStore s (s.forgetSent c) := .modNet s _

theorem SameStore.abandonScan (s : State) (c : CmdId) : SameStore s (s.abandonScan c) := by
  unfold State.abandonScan
  refine .trans ?_ (.useFresh _)
  exact .modPart s _ fun _ => rfl

theorem SameStore.dropReads (s : State) (c : CmdId) : SameStore s (s.dropReads c) := by
  unfold State.dropReads
  exact .modNet s _

theorem SameStore.dropTransfers (s : State) (c : CmdId) : SameStore s (s.dropTransfers c) := by
  unfold State.dropTransfers
  exact .trans (.abortData s _ c) (.dropReads _ c)

theorem SameStore.dropColls (s : State) (c : CmdId) : SameStore s (s.dropColls c) := by
  unfold State.dropColls
  exact .modPart s _ fun _ => rfl

theorem SameStore.letGo (s : State) (c : CmdId) (ok : Bool) : SameStore s (s.letGo c ok) := by
  unfold State.letGo
  exact .modPart s _ fun _ => rfl

theorem SameStore.unholdAll (s : State) (c : CmdId) :
    SameStore s { s with parts := s.parts.map fun q => { q with rings := q.rings.map (·.unhold c) } } :=
  ⟨rfl, rfl, rfl, rfl, rfl, rfl, rfl, rfl, rfl, rfl, by rw [List.map_map]; rfl, fun _ e => e⟩

theorem SameStore.dropWork (s : State) (c : CmdId) (ok : Bool) :
    SameStore s (if ok then (s.forgetSent c).dropReads c else s.dropTransfers c) := by
  split
  · exact .trans (.forgetSent s c) (.dropReads _ c)
  · exact .dropTransfers s c

theorem SameStore.modSchedule (s : State) (c : Cmd) (f : LayerPlan → LayerPlan) : SameStore s (s.modSchedule c f) := by
  unfold State.modSchedule
  split
  · exact .refl s
  · exact .modCtx s _ _

theorem SameStore.endWait (s : State) (c : Cmd) : SameStore s (s.endWait c) := by
  unfold State.endWait
  split
  · exact .refl s
  · exact .modIface s _ _

theorem SameStore.endTraversal (s : State) (c : Cmd) : SameStore s (s.endTraversal c) := by
  unfold State.endTraversal
  split
  · exact .refl s
  · exact .trans (.endWait s c) (.modSchedule _ c _)

theorem SameStore.dropPlan (s : State) (c : Cmd) : SameStore s (s.dropPlan c) := by
  unfold State.dropPlan
  split
  · exact .refl s
  · split
    · exact .refl s
    · exact .modCtx s _ _

theorem SameStore.dropItems (s : State) (c : CmdId) : SameStore s (s.dropItems c) :=
  ⟨rfl, rfl, rfl, rfl, rfl, rfl, rfl, rfl, rfl, rfl, rfl, fun _ e => e⟩

theorem SameStore.leaveQueues (s : State) (c : CmdId) : SameStore s (s.leaveQueues c) :=
  ⟨rfl, rfl, rfl, rfl, rfl, rfl, rfl, rfl, rfl, rfl, rfl, fun _ e => e⟩

theorem SameStore.endPlan (s : State) (c : CmdId) :
    SameStore s (match s.cmd? c with | some k => (s.endTraversal k).dropPlan k | none => s) := by
  split
  · exact .trans (.endTraversal s _) (.dropPlan _ _)
  · exact .refl s

theorem SameStore.release (s : State) (c : CmdId) (ok : Bool) : SameStore s (s.release c ok) := by
  unfold State.release
  dsimp only
  refine .trans ?_ (.unholdAll _ c)
  refine .trans ?_ (.letGo _ c ok)
  refine .trans ?_ (.dropColls _ c)
  refine .trans ?_ (.dropWork _ c ok)
  refine .trans ?_ (.leaveQueues _ c)
  refine .trans ?_ (.dropItems _ c)
  refine .trans ?_ (.endPlan _ c)
  repeat' split
  all_goals first | exact .abandonScan s c | exact .refl s

theorem SameStore.sendRoce (s : State) (q : Qp) (b : RoceBody) : SameStore s (s.sendRoce q b) := by
  unfold State.sendRoce
  split
  · exact .refl s
  · split
    · exact .refl s
    · split
      · exact ⟨rfl, rfl, rfl, rfl, rfl, rfl, rfl, rfl, rfl, rfl, rfl, fun _ e => e⟩
      · exact .emit s _

theorem State.sendRoce_cmds (s : State) (q : Qp) (b : RoceBody) : (s.sendRoce q b).cmds = s.cmds := by
  unfold State.sendRoce
  split
  · rfl
  · split
    · rfl
    · split <;> rfl

theorem SameStore.postWork (s : State) (port qpn : Nat) (w : QpReq) : SameStore s (s.postWork port qpn w) := by
  unfold State.postWork
  split
  · exact .refl s
  · refine .trans ?_ (.sendRoce _ _ _)
    unfold State.noteSend
    refine .trans ?_ (.modNet _ _)
    exact .modQp s _ _ _

theorem State.postWork_cmds (s : State) (port qpn : Nat) (w : QpReq) : (s.postWork port qpn w).cmds = s.cmds := by
  unfold State.postWork
  split
  · rfl
  · exact State.sendRoce_cmds _ _ _

theorem SameStore.postReply (s : State) (c : Cmd) (ws : List W32) : SameStore s (s.postReply c ws) := by
  unfold State.postReply
  split
  · exact .refl s
  · dsimp only
    split
    · refine .trans ?_ (.emit _ _)
      refine .trans ?_ (.postWork _ _ _ _)
      exact .modQueue s _ _ _
    · exact .modQueue s _ _ _

theorem SameStore.charge (s : State) (c : Cmd) : SameStore s (s.charge c) := by
  unfold State.charge
  split
  · exact .refl s
  · refine .trans ?_ (.useFresh _)
    refine .trans ?_ (.modIface _ _ _)
    exact .modCtx s _ _

theorem SameStore.settle (s : State) : SameStore s s.settle := by
  unfold State.settle
  split
  · exact .modPwr s _
  · exact .refl s

theorem SameStore.signal (s : State) (c : Cmd) (st : Nat) : SameStore s (s.signal c st) := by
  unfold State.signal
  split
  · exact .modIface s _ _
  · exact .refl s

theorem SameStore.rangeCount (s : State) (c : Cmd) (st : Nat) : SameStore s (if st = stSCALE_RANGE then
    s.modIface c.id.iface fun f => { f with scaleFails := satNat32 (f.scaleFails + 1) } else s) := by
  split
  · exact .modIface s _ _
  · exact .refl s

theorem SameStore.finish (s : State) (c : Cmd) (r : Result) (dep : Bool) : SameStore s (s.finish c r dep) := by
  unfold State.finish
  dsimp only
  refine .trans ?_ (.signal _ c _)
  refine .trans ?_ (.postReply _ c _)
  refine .trans ?_ (.rangeCount _ c _)
  unfold State.touch State.modQueue
  refine .trans ?_ (.modPwr _ _)
  refine .trans ?_ (.settle _)
  refine .trans ?_ (.charge _ c)
  refine .trans ?_ (.modIface _ _ _)
  refine .trans ?_ (.dropCmds _ _)
  exact .release s c.id _

theorem State.settle_cmds (s : State) : s.settle.cmds = s.cmds := by
  unfold State.settle; split <;> rfl

theorem State.charge_cmds (s : State) (c : Cmd) : (s.charge c).cmds = s.cmds := by
  unfold State.charge; split <;> rfl

theorem State.postReply_cmds (s : State) (c : Cmd) (ws : List W32) : (s.postReply c ws).cmds = s.cmds := by
  unfold State.postReply
  split
  · rfl
  · dsimp only
    split
    · exact State.postWork_cmds _ _ _ _
    · rfl

theorem State.signal_cmds (s : State) (c : Cmd) (st : Nat) : (s.signal c st).cmds = s.cmds := by
  unfold State.signal; split <;> rfl

/-- A completed command is in flight no longer. -/
theorem State.finish_gone (s : State) (c : Cmd) (r : Result) (dep : Bool) : (s.finish c r dep).cmd? c.id = none := by
  unfold State.finish State.cmd?
  simp only [State.signal_cmds, State.postReply_cmds]
  split <;>
  · simp only [State.modIface_cmds, State.touch, State.modPwr_cmds, State.settle_cmds, State.charge_cmds, State.modQueue,
      List.find?_eq_none]
    intro x hx
    have := (List.mem_filter.mp hx).2
    simpa using this

theorem SameStore.cascade (n : Nat) (s : State) : SameStore s (s.cascade n) := by
  induction n generalizing s with
  | zero => exact .refl s
  | succ n ih =>
    unfold State.cascade
    split
    · exact .refl s
    · split
      · exact .refl s
      · exact .trans (.finish s _ _ true) (ih _)

theorem SameStore.complete (s : State) (c : Cmd) (r : Result) : SameStore s (s.complete c r) :=
  .trans (.finish s c r false) (.cascade _ _)

/-- A completed command is in flight no longer, whatever its completion passes on. -/
theorem State.complete_gone (s : State) (c : Cmd) (r : Result) : (s.complete c r).cmd? c.id = none :=
  (SameStore.cascade _ _).gone c.id (s.finish_gone c r false)

end Sys2Proof.Machine
end

