-- ==== Sys2Proof/Laws/Detect.lean ====
section
/-!
SUPPORT. What a detection leaves as it was, whatever its severity: the units of the module. Fences, kills, failed commands and
drains reach the partitions' work, never the pins, the clock, the sensors, the fuses or the severities.
-/
namespace Sys2Proof.Machine

/-- Nothing has changed but the work of partitions and its traces: the power block keeps all but its state and its idle time,
tokens may be gone but none is new, links keep their lanes, partitions stay and fenced ones stay fenced. -/
structure Calm (s t : State) : Prop where
  pending : t.pending = s.pending
  fit : t.fit = s.fit
  pins : t.pins = s.pins
  phase : t.phase = s.phase
  clk : t.clk = s.clk
  pwr : ∃ st us, t.pwr = { s.pwr with state := st, idleSince := us }
  sev : t.flt.sev = s.flt.sev
  safe : s.flt.safe = true → t.flt.safe = true
  fuses : t.mgt.fuses = s.mgt.fuses
  held : ∀ x ∈ t.maint.held, x ∈ s.maint.held
  lanes : ∀ k, (t.link? k).map (fun l => (l.seed, l.failed)) = (s.link? k).map (fun l => (l.seed, l.failed))
  nums : t.parts.map (·.num) = s.parts.map (·.num)
  fenced : ∀ n, s.partFenced n = true → t.partFenced n = true

theorem Calm.refl (s : State) : Calm s s :=
  ⟨rfl, rfl, rfl, rfl, rfl, ⟨_, _, rfl⟩, rfl, id, rfl, fun _ h => h, fun _ => rfl, rfl, fun _ h => h⟩

theorem Calm.trans {s t u : State} (h : Calm s t) (k : Calm t u) : Calm s u where
  pending := k.pending.trans h.pending
  fit := k.fit.trans h.fit
  pins := k.pins.trans h.pins
  phase := k.phase.trans h.phase
  clk := k.clk.trans h.clk
  pwr := by
    obtain ⟨a, b, e⟩ := h.pwr
    obtain ⟨c, d, f⟩ := k.pwr
    exact ⟨c, d, by rw [f, e]⟩
  sev := k.sev.trans h.sev
  safe := fun e => k.safe (h.safe e)
  fuses := k.fuses.trans h.fuses
  held := fun x e => h.held x (k.held x e)
  lanes := fun n => (k.lanes n).trans (h.lanes n)
  nums := k.nums.trans h.nums
  fenced := fun n e => k.fenced n (h.fenced n e)

theorem Calm.modParts (s : State) (w : Part → Bool) {f : Part → Part} (hn : ∀ q, (f q).num = q.num)
    (hf : ∀ q, q.fenced = true → (f q).fenced = true) : Calm s { s with parts := modWhere w f s.parts } where
  pending := rfl
  fit := rfl
  pins := rfl
  phase := rfl
  clk := rfl
  pwr := ⟨_, _, rfl⟩
  sev := rfl
  safe := id
  fuses := rfl
  held := fun _ h => h
  lanes := fun _ => rfl
  nums := by
    show (modWhere _ f s.parts).map _ = _
    unfold modWhere
    rw [List.map_map]
    apply List.map_congr_left
    intro q _
    simp only [Function.comp]
    split
    · exact hn q
    · rfl
  fenced := by
    intro m h
    unfold State.partFenced State.part? at h ⊢
    show (Option.map _ (List.find? _ (modWhere _ f s.parts))).getD false = true
    revert h
    induction s.parts with
    | nil => exact id
    | cons q r ih =>
      intro h
      simp only [modWhere, List.map_cons] at ih ⊢
      by_cases hq : q.num = m
      · rw [List.find?_cons_of_pos (by simp [hq])] at h
        rw [List.find?_cons_of_pos (by split <;> simp [hq, hn])]
        simp only [Option.map_some, Option.getD_some] at h ⊢
        split
        · exact hf q h
        · exact h
      · rw [List.find?_cons_of_neg (by simp [hq])] at h
        rw [List.find?_cons_of_neg (by split <;> simp [hq, hn])]
        exact ih h

theorem Calm.modPart (s : State) (n : Nat) {f : Part → Part} (hn : ∀ q, (f q).num = q.num)
    (hf : ∀ q, q.fenced = true → (f q).fenced = true) : Calm s (s.modPart n f) := .modParts s _ hn hf

theorem Calm.modNet (s : State) {f : Net → Net} (h : ∀ n, (f n).links = n.links) : Calm s (s.modNet f) :=
  ⟨rfl, rfl, rfl, rfl, rfl, ⟨_, _, rfl⟩, rfl, id, rfl, fun _ h => h, fun k => by
    unfold State.link?; show (Option.map _ (List.find? _ (f s.net).links)).map _ = _; rw [h], rfl, fun _ h => h⟩

theorem Calm.modLinks (s : State) {g : Nat × Link → Nat × Link} (hk : ∀ e, (g e).1 = e.1)
    (hl : ∀ e, (g e).2.seed = e.2.seed ∧ (g e).2.failed = e.2.failed) :
    Calm s { s with net := { s.net with links := s.net.links.map g } } :=
  ⟨rfl, rfl, rfl, rfl, rfl, ⟨_, _, rfl⟩, rfl, id, rfl, fun _ h => h, fun k => by
    unfold State.link?
    dsimp only
    induction s.net.links with
    | nil => rfl
    | cons e r ih =>
      rw [List.map_cons, List.find?_cons, List.find?_cons, hk]
      by_cases he : (e.1 == k) = true
      · simp [he, hl]
      · simpa [he] using ih, rfl, fun _ h => h⟩

theorem Calm.modLink (s : State) (k : Nat) {f : Link → Link} (h : ∀ l, (f l).seed = l.seed ∧ (f l).failed = l.failed) :
    Calm s (s.modLink k f) :=
  Calm.modLinks s (g := fun e => if e.1 == k then (e.1, f e.2) else e) (fun e => by split <;> rfl)
    (fun e => by split; exact h e.2; exact ⟨rfl, rfl⟩)

theorem Calm.modPwr (s : State) (st : BitVec 3) (us : Nat) : Calm s (s.modPwr fun p => { p with state := st, idleSince := us }) :=
  ⟨rfl, rfl, rfl, rfl, rfl, ⟨st, us, rfl⟩, rfl, id, rfl, fun _ h => h, fun _ => rfl, rfl, fun _ h => h⟩

theorem Calm.modIface (s : State) (n : Nat) (f : Iface → Iface) : Calm s (s.modIface n f) :=
  ⟨rfl, rfl, rfl, rfl, rfl, ⟨_, _, rfl⟩, rfl, id, rfl, fun _ h => h, fun _ => rfl, rfl, fun _ h => h⟩

theorem Calm.modAlloc (s : State) (n : Nat) (h : W32) (f : Alloc → Alloc) : Calm s (s.modAlloc n h f) :=
  ⟨rfl, rfl, rfl, rfl, rfl, ⟨_, _, rfl⟩, rfl, id, rfl, fun _ h => h, fun _ => rfl, rfl, fun _ h => h⟩

theorem Calm.modCtx (s : State) (n : Nat) (f : Ctx → Ctx) : Calm s (s.modCtx n f) :=
  ⟨rfl, rfl, rfl, rfl, rfl, ⟨_, _, rfl⟩, rfl, id, rfl, fun _ h => h, fun _ => rfl, rfl, fun _ h => h⟩

theorem Calm.emit (s : State) (o : Out) : Calm s (s.emit o) :=
  ⟨rfl, rfl, rfl, rfl, rfl, ⟨_, _, rfl⟩, rfl, id, rfl, fun _ h => h, fun _ => rfl, rfl, fun _ h => h⟩

theorem Calm.useFresh (s : State) : Calm s s.useFresh :=
  ⟨rfl, rfl, rfl, rfl, rfl, ⟨_, _, rfl⟩, rfl, id, rfl, fun _ h => h, fun _ => rfl, rfl, fun _ h => h⟩

theorem Calm.setCmds (s : State) (l : List Cmd) : Calm s { s with cmds := l } :=
  ⟨rfl, rfl, rfl, rfl, rfl, ⟨_, _, rfl⟩, rfl, id, rfl, fun _ h => h, fun _ => rfl, rfl, fun _ h => h⟩

theorem Calm.setIfaces (s : State) (l : List Iface) : Calm s { s with ifaces := l } :=
  ⟨rfl, rfl, rfl, rfl, rfl, ⟨_, _, rfl⟩, rfl, id, rfl, fun _ h => h, fun _ => rfl, rfl, fun _ h => h⟩

theorem Calm.modFlt (s : State) {f : Flt → Flt} (h : ∀ x, (f x).sev = x.sev ∧ (x.safe = true → (f x).safe = true)) :
    Calm s (s.modFlt f) :=
  ⟨rfl, rfl, rfl, rfl, rfl, ⟨_, _, rfl⟩, (h _).1, (h _).2, rfl, fun _ h => h, fun _ => rfl, rfl, fun _ h => h⟩

theorem Calm.modMaint (s : State) {f : Maint → Maint} (h : ∀ m, ∀ x ∈ (f m).held, x ∈ m.held) : Calm s (s.modMaint f) :=
  ⟨rfl, rfl, rfl, rfl, rfl, ⟨_, _, rfl⟩, rfl, id, rfl, h _, fun _ => rfl, rfl, fun _ h => h⟩

/-! ## Ending commands -/

theorem Calm.frameOut (s : State) (k : Nat) : Calm s (s.frameOut k) := .modLink s k fun _ => ⟨rfl, rfl⟩

theorem Calm.emitPacket (s : State) (k : Nat) (hdr : List W32) (bs : List Byte) (flip : W32) : Calm s (s.emitPacket k hdr bs flip) :=
  .trans (.frameOut s k) (.emit _ _)

theorem Calm.emitControl (s : State) (f : SendFlow) (ty psn : Nat) (arg : W32) : Calm s (s.emitControl f ty psn arg) :=
  .emitPacket s _ _ _ _

/-- A fold of calm changes is calm. -/
theorem Calm.foldl {α : Type} {f : State → α → State} (h : ∀ s x, Calm s (f s x)) (s : State) (l : List α) : Calm s (l.foldl f s) := by
  induction l generalizing s with
  | nil => exact .refl s
  | cons x l ih => exact .trans (h s x) (ih _)

theorem Calm.abortData (s : State) (p : Nat) (c : CmdId) : Calm s (s.abortData p c) := by
  unfold State.abortData
  refine .foldl (fun s f => ?_) s _
  split
  · refine .trans ?_ (.foldl (fun s _ => .emitControl s _ _ _ _) _ _)
    exact .modNet s fun _ => rfl
  · exact .refl s

theorem Calm.forgetSent (s : State) (c : CmdId) : Calm s (s.forgetSent c) := .modNet s fun _ => rfl

theorem Calm.dropReads (s : State) (c : CmdId) : Calm s (s.dropReads c) := .modNet s fun _ => rfl

theorem Calm.dropTransfers (s : State) (c : CmdId) : Calm s (s.dropTransfers c) := .trans (.abortData s _ c) (.dropReads _ c)

theorem Calm.abandonScan (s : State) (c : CmdId) : Calm s (s.abandonScan c) := by
  unfold State.abandonScan
  refine .trans ?_ (.useFresh _)
  exact .modPart s _ (fun _ => rfl) fun _ h => h

theorem Calm.dropColls (s : State) (c : CmdId) : Calm s (s.dropColls c) := .modPart s _ (fun _ => rfl) fun _ h => h

theorem Calm.letGo (s : State) (c : CmdId) (ok : Bool) : Calm s (s.letGo c ok) := .modPart s _ (fun _ => rfl) fun _ h => h

theorem Calm.mapParts (s : State) {f : Part → Part} (hn : ∀ q, (f q).num = q.num) (hf : ∀ q, (f q).fenced = q.fenced) :
    Calm s { s with parts := s.parts.map f } :=
  ⟨rfl, rfl, rfl, rfl, rfl, ⟨_, _, rfl⟩, rfl, id, rfl, fun _ h => h, fun _ => rfl, by
    dsimp only; rw [List.map_map]; exact List.map_congr_left fun q _ => hn q, by
    intro m h
    unfold State.partFenced State.part? at h ⊢
    dsimp only
    revert h
    induction s.parts with
    | nil => exact id
    | cons q r ih =>
      intro h
      rw [List.map_cons]
      by_cases hq : q.num = m
      · rw [List.find?_cons_of_pos (by simp [hq])] at h
        rw [List.find?_cons_of_pos (by simp [hq, hn])]
        simpa [hf] using h
      · rw [List.find?_cons_of_neg (by simp [hq])] at h
        rw [List.find?_cons_of_neg (by simp [hq, hn])]
        exact ih h⟩

theorem Calm.dropWork (s : State) (c : CmdId) (ok : Bool) : Calm s (if ok then (s.forgetSent c).dropReads c else s.dropTransfers c) := by
  split
  · exact .trans (.forgetSent s c) (.dropReads _ c)
  · exact .dropTransfers s c

theorem Calm.unholdAll (s : State) (c : CmdId) :
    Calm s { s with parts := s.parts.map fun q => { q with rings := q.rings.map (·.unhold c) } } :=
  .mapParts s (fun _ => rfl) fun _ => rfl

theorem Calm.modSchedule (s : State) (c : Cmd) (f : LayerPlan → LayerPlan) : Calm s (s.modSchedule c f) := by
  unfold State.modSchedule
  split
  · exact .refl s
  · exact .modCtx s _ _

theorem Calm.endWait (s : State) (c : Cmd) : Calm s (s.endWait c) := by
  unfold State.endWait
  split
  · exact .refl s
  · exact .modIface s _ _

theorem Calm.endTraversal (s : State) (c : Cmd) : Calm s (s.endTraversal c) := by
  unfold State.endTraversal
  split
  · exact .refl s
  · exact .trans (.endWait s c) (.modSchedule _ c _)

theorem Calm.dropPlan (s : State) (c : Cmd) : Calm s (s.dropPlan c) := by
  unfold State.dropPlan
  split
  · exact .refl s
  · split
    · exact .refl s
    · exact .modCtx s _ _

theorem Calm.dropItems (s : State) (c : CmdId) : Calm s (s.dropItems c) :=
  ⟨rfl, rfl, rfl, rfl, rfl, ⟨_, _, rfl⟩, rfl, id, rfl, fun _ h => h, fun _ => rfl, rfl, fun _ h => h⟩

theorem Calm.leaveQueues (s : State) (c : CmdId) : Calm s (s.leaveQueues c) :=
  ⟨rfl, rfl, rfl, rfl, rfl, ⟨_, _, rfl⟩, rfl, id, rfl, fun _ h => h, fun _ => rfl, rfl, fun _ h => h⟩

theorem Calm.endPlan (s : State) (c : CmdId) :
    Calm s (match s.cmd? c with | some k => (s.endTraversal k).dropPlan k | none => s) := by
  split
  · exact .trans (.endTraversal s _) (.dropPlan _ _)
  · exact .refl s

theorem Calm.release (s : State) (c : CmdId) (ok : Bool) : Calm s (s.release c ok) := by
  unfold State.release
  dsimp only
  refine .trans ?_ (.unholdAll _ c)
  refine .trans ?_ (.letGo _ c ok)
  refine .trans ?_ (.dropColls _ c)
  refine .trans ?_ (.dropWork _ c ok)
  refine .trans ?_ (.leaveQueues _ c)
  refine .trans ?_ (.dropItems _ c)
  refine .trans ?_ (.endPlan _ c)
  repeat' split
  all_goals first | exact .abandonScan s c | exact .refl s

theorem Calm.modQp (s : State) (p q : Nat) (f : Qp → Qp) : Calm s (s.modQp p q f) :=
  ⟨rfl, rfl, rfl, rfl, rfl, ⟨_, _, rfl⟩, rfl, id, rfl, fun _ h => h, fun _ => rfl, rfl, fun _ h => h⟩

theorem Calm.noteSend (s : State) (k : RateKey) : Calm s (s.noteSend k) := by
  unfold State.noteSend
  refine .modNet s fun n => ?_
  split <;> rfl

theorem Calm.sendRoce (s : State) (q : Qp) (b : RoceBody) : Calm s (s.sendRoce q b) := by
  unfold State.sendRoce
  split
  · exact .refl s
  · split
    · exact .refl s
    · split
      · exact ⟨rfl, rfl, rfl, rfl, rfl, ⟨_, _, rfl⟩, rfl, id, rfl, fun _ h => h, fun _ => rfl, rfl, fun _ h => h⟩
      · exact .emit s _

theorem Calm.postWork (s : State) (port qpn : Nat) (w : QpReq) : Calm s (s.postWork port qpn w) := by
  unfold State.postWork
  split
  · exact .refl s
  · refine .trans ?_ (.sendRoce _ _ _)
    refine .trans ?_ (.noteSend _ _)
    exact .modQp s _ _ _

theorem Calm.modQueue (s : State) (i q : Nat) (f : Queue → Queue) : Calm s (s.modQueue i q f) := .modIface s _ _

theorem Calm.postReply (s : State) (c : Cmd) (ws : List W32) : Calm s (s.postReply c ws) := by
  unfold State.postReply
  split
  · exact .refl s
  · dsimp only
    split
    · refine .trans ?_ (.emit _ _)
      refine .trans ?_ (.postWork _ _ _ _)
      exact .modQueue s _ _ _
    · exact .modQueue s _ _ _

theorem Calm.chargeTo (s : State) (x i : Nat) : Calm s (s.chargeTo x i) :=
  .trans (.trans (.modCtx s _ _) (.modIface _ _ _)) (.useFresh _)

theorem Calm.chargeDrain (s : State) (p : Nat) : Calm s (s.chargeDrain p) := by
  unfold State.chargeDrain
  split
  · exact .refl s
  · exact .chargeTo s _ _

theorem Calm.charge (s : State) (c : Cmd) : Calm s (s.charge c) := by
  unfold State.charge
  split
  · exact .refl s
  · exact .chargeTo s _ _

theorem Calm.settle (s : State) : Calm s s.settle := by
  unfold State.settle
  split
  · exact ⟨rfl, rfl, rfl, rfl, rfl, ⟨_, _, rfl⟩, rfl, id, rfl, fun _ h => h, fun _ => rfl, rfl, fun _ h => h⟩
  · exact .refl s

theorem Calm.touch (s : State) : Calm s s.touch :=
  ⟨rfl, rfl, rfl, rfl, rfl, ⟨_, _, rfl⟩, rfl, id, rfl, fun _ h => h, fun _ => rfl, rfl, fun _ h => h⟩

theorem Calm.signal (s : State) (c : Cmd) (st : Nat) : Calm s (s.signal c st) := by
  unfold State.signal
  split
  · exact .modIface s _ _
  · exact .refl s

theorem Calm.rangeCount (s : State) (c : Cmd) (st : Nat) : Calm s (if st = stSCALE_RANGE then
    s.modIface c.id.iface fun f => { f with scaleFails := satNat32 (f.scaleFails + 1) } else s) := by
  split
  · exact .modIface s _ _
  · exact .refl s

theorem Calm.finish (s : State) (c : Cmd) (r : Result) (dep : Bool) : Calm s (s.finish c r dep) := by
  unfold State.finish
  dsimp only
  refine .trans ?_ (.signal _ c _)
  refine .trans ?_ (.postReply _ c _)
  refine .trans ?_ (.rangeCount _ c _)
  refine .trans ?_ (.touch _)
  refine .trans ?_ (.settle _)
  refine .trans ?_ (.charge _ c)
  refine .trans ?_ (.modQueue _ _ _ _)
  refine .trans ?_ (.setCmds _ _)
  exact .release s c.id _

theorem Calm.cascade (n : Nat) (s : State) : Calm s (s.cascade n) := by
  induction n generalizing s with
  | zero => exact .refl s
  | succ n ih =>
    unfold State.cascade
    split
    · exact .refl s
    · split
      · exact .refl s
      · exact .trans (.finish s _ _ true) (ih _)

/-! ## Records -/

theorem Calm.viewCounts (s : State) (d : Detection) : Calm s (s.viewCounts d) := by
  unfold State.viewCounts
  split
  · exact .setIfaces s _
  · exact .refl s

theorem Calm.noteRecord (s : State) (f : Flt) (l : List Iface) (h : f.sev = s.flt.sev ∧ f.safe = s.flt.safe) :
    Calm s { s with flt := f, ifaces := l } :=
  ⟨rfl, rfl, rfl, rfl, rfl, ⟨_, _, rfl⟩, h.1, fun e => h.2.trans e, rfl, fun _ h => h, fun _ => rfl, rfl, fun _ h => h⟩

theorem Calm.record (s : State) (d : Detection) : Calm s (s.record d) := by
  unfold State.record
  dsimp only
  split
  · exact .viewCounts s d
  · split
    · refine .trans ?_ (.emit _ _)
      refine .trans ?_ (.emit _ _)
      refine .trans (.viewCounts s d) ?_
      exact .noteRecord _ _ _ ⟨rfl, rfl⟩
    · refine .trans (.viewCounts s d) ?_
      exact .noteRecord _ _ _ ⟨rfl, rfl⟩

theorem Calm.injected (s : State) : Calm s s.injected := by
  unfold State.injected
  dsimp only
  split
  · exact .modFlt s fun _ => ⟨rfl, id⟩
  · refine .trans ?_ (.record _ _)
    exact .modFlt s fun _ => ⟨rfl, id⟩

/-! ## Loads that stop, kills -/

theorem Calm.modContents (s : State) (p : Nat) (h : W32) (f : Alloc → Alloc) : Calm s (s.modContents p h f) := by
  unfold State.modContents
  split
  · split
    · exact .refl s
    · refine .trans ?_ (.modAlloc _ _ _ _)
      exact .modPart s _ (fun _ => rfl) fun _ h => h
  · exact .modAlloc s _ _ _

theorem Calm.strikeUnit (s : State) (p : Nat) (h : W32) (u : Nat) : Calm s (s.strikeUnit p h u) := by
  unfold State.strikeUnit
  split
  · exact .refl s
  · split
    · refine .trans ?_ (.useFresh _)
      refine .trans ?_ (.modContents _ _ _ _)
      exact .injected s
    · exact .refl s

theorem Calm.strike (s : State) (p : Nat) (h : W32) (us : List Nat) : Calm s (s.strike p h us) := by
  unfold State.strike
  split
  · rename_i hs
    clear hs
    induction us generalizing s with
    | nil => exact .refl s
    | cons u l ih => exact .trans (.strikeUnit s p h u) (ih _)
  · exact .refl s

theorem Calm.unstage (s : State) (p : Nat) (h : W32) : Calm s (s.unstage p h) :=
  ⟨rfl, rfl, rfl, rfl, rfl, ⟨_, _, rfl⟩, rfl, id, rfl, fun _ h => h, fun _ => rfl, rfl, fun _ h => h⟩

theorem Calm.writeBuffer (s : State) (p : Nat) (h : W32) (off : Nat) (bs : List Byte) : Calm s (s.writeBuffer p h off bs) := by
  unfold State.writeBuffer
  exact .trans (.trans (.modContents s _ _ _) (.strike _ _ _ _)) (.unstage _ _ _)

theorem Calm.stopLoad (s : State) (c : Cmd) : Calm s (s.stopLoad c).1 := by
  unfold State.stopLoad
  split
  · exact .refl s
  · rename_i p _
    split
    · dsimp only
      have h : Calm s (if (Option.map (fun x => x.cmd == c.id) p.epo.load).getD false = true then
          s.modPart p.num fun q => { q with epo := { q.epo with load := none, bud := q.epo.bud.stopped } } else s) := by
        split
        · exact .modPart s _ (fun _ => rfl) fun _ h => h
        · exact .refl s
      exact .trans h (.writeBuffer _ _ _ _ _)
    · exact .refl s

theorem Calm.endWith (s : State) (c : Cmd) (r : Result) : Calm s (s.endWith c r) := by
  unfold State.endWith
  dsimp only
  exact .trans (.stopLoad s c) (.finish _ _ _ _)

theorem Calm.kill (s : State) (c : CmdId) : Calm s (s.kill c) := by
  unfold State.kill
  split
  · split
    · exact .refl s
    · exact .endWith s _ _
  · exact .refl s

theorem Calm.killAll (l : List CmdId) (s : State) : Calm s (s.killAll l) := by
  induction l generalizing s with
  | nil => exact .cascade _ s
  | cons c r ih => exact .trans (.kill s c) (ih _)

/-! ## Fences and the safe state -/

theorem Calm.failDrain (s : State) (p code : Nat) : Calm s (s.failDrain p code) := by
  unfold State.failDrain
  split
  · exact .refl s
  · dsimp only
    refine .trans ?_ (.record _ _)
    refine .trans ?_ (.modMaint _ fun m x hx => (List.mem_filter.mp hx).1)
    refine .trans ?_ (.modNet _ fun _ => rfl)
    refine .trans (.chargeDrain s p) ?_
    exact .modPart _ _ (fun _ => rfl) fun _ h => h

theorem Calm.failDrains (code : Nat) (l : List Nat) (s : State) : Calm s (s.failDrains code l) := by
  induction l generalizing s with
  | nil => exact .refl s
  | cons p r ih => exact .trans (.failDrain s p code) (ih _)

theorem Calm.enterSafe (s : State) : Calm s s.enterSafe := by
  unfold State.enterSafe
  refine .trans (.failDrains failReset (s.parts.map (·.num)) s) ?_
  exact .modFlt (f := fun f => { f with safe := true }) _ fun _ => ⟨rfl, fun _ => rfl⟩

theorem Calm.endProxy (s : State) (f : Nat → Bool) : Calm s (s.endProxy f) := by
  unfold State.endProxy
  split
  · split
    · exact ⟨rfl, rfl, rfl, rfl, rfl, ⟨_, _, rfl⟩, rfl, id, rfl, fun _ h => h, fun _ => rfl, rfl, fun _ h => h⟩
    · exact .refl s
  · exact .refl s

theorem Calm.fence (s : State) (p : Nat) : Calm s (s.fence p) := by
  unfold State.fence
  split
  · exact .refl s
  · rename_i q _
    split
    · exact .refl s
    · dsimp only
      refine .trans ?_ (.endProxy _ _)
      refine .trans ?_ (.setIfaces _ _)
      refine .trans ?_ (.useFresh _)
      refine .trans ?_ (.failDrain _ _ _)
      refine .trans ?_ (.modLinks _ (fun e => by split <;> rfl) fun e => by split <;> exact ⟨rfl, rfl⟩)
      refine .trans ?_ (.killAll _ _)
      exact .modPart s _ (fun _ => rfl) fun _ _ => rfl

theorem Calm.fenceAll (l : List Nat) (s : State) : Calm s (s.fenceAll l) := by
  induction l generalizing s with
  | nil => exact .refl s
  | cons p r ih => exact .trans (.fence s p) (ih _)

theorem Calm.noteSched (s : State) : Calm s s.noteSched :=
  have h := Calm.modParts s (·.foot != 0) (f := fun p => { p with callers := s.callers p }) (fun _ => rfl) (fun _ k => k)
  ⟨rfl, rfl, rfl, rfl, rfl, ⟨_, _, rfl⟩, rfl, id, rfl, fun _ h => h, fun _ => rfl, h.nums, h.fenced⟩

/-- A detection leaves the units of the module as they are, whatever its severity. -/
theorem Calm.detect (s : State) (d : Detection) : Calm s (s.detect d) := by
  unfold State.detect
  dsimp only
  split
  · exact .refl s
  · split
    · exact .trans (.record s d) (.enterSafe _)
    · split
      · exact .record s d
      · have h : ∀ u : State, Calm u (if s.severity d.source = sevContain ∧ sourceScope d.source ≠ some .c then
            u.fenceAll (s.affected d) else u) := by
          intro u
          split
          · exact .fenceAll _ u
          · exact .refl u
        have k : ∀ u : State, Calm u (match d.cmd with
            | some c => match u.cmd? c with
              | some k => if k.pastWrite then u
                else let t := u.endWith k (Result.bare stUNCORRECTABLE); t.cascade t.cmds.length
              | none => u
            | none => u) := by
          intro u
          repeat' split
          all_goals first | exact .refl u | exact .trans (.endWith u _ _) (.cascade _ _)
        refine .trans (.trans (.record s d) (h _)) ?_
        generalize (if s.severity d.source = sevContain ∧ sourceScope d.source ≠ some .c then
            (s.record d).fenceAll (s.affected d) else s.record d) = u
        split
        · exact k u
        · exact .refl u

end Sys2Proof.Machine
end

