-- ==== Sys2Proof/Laws/Memory.lean ====
section
/-!
SUPPORT. Memory keeps its canonical form, a read after a write gives what was written, and a write leaves every other
byte alone.
-/
namespace Sys2Proof.Machine

variable {d : Nat → Byte} {m : Mem}

theorem Mem.wfFrom_mono {lo lo' : Nat} (h : lo' ≤ lo) (w : Mem.wfFrom d lo m = true) : Mem.wfFrom d lo' m = true := by
  cases m with
  | nil => rfl
  | cons e r =>
    simp only [Mem.wfFrom, Bool.and_eq_true, decide_eq_true_eq] at w ⊢
    exact ⟨⟨by omega, w.1.2⟩, w.2⟩

theorem Mem.put_wfFrom {lo a : Nat} {b : Byte} (h : lo ≤ a) (w : Mem.wfFrom d lo m = true) :
    Mem.wfFrom d lo (Mem.put m d a b) = true := by
  induction m generalizing lo with
  | nil =>
    unfold Mem.put
    split
    · rfl
    · simp_all [Mem.wfFrom]
  | cons e r ih =>
    obtain ⟨k, v⟩ := e
    simp only [Mem.wfFrom, Bool.and_eq_true, decide_eq_true_eq] at w
    unfold Mem.put
    split
    · next hk =>
      simp only [Mem.wfFrom, Bool.and_eq_true, decide_eq_true_eq]
      exact ⟨w.1, ih (by omega) w.2⟩
    · split
      · next hk =>
        subst hk
        split
        · exact Mem.wfFrom_mono (by omega) w.2
        · next hb =>
          simp only [Mem.wfFrom, Bool.and_eq_true, decide_eq_true_eq]
          exact ⟨⟨h, by simpa using hb⟩, w.2⟩
      · next hk hne =>
        split
        · simp only [Mem.wfFrom, Bool.and_eq_true, decide_eq_true_eq]
          exact w
        · next hb =>
          simp only [Mem.wfFrom, Bool.and_eq_true, decide_eq_true_eq]
          exact ⟨⟨h, by simpa using hb⟩, ⟨⟨by omega, w.1.2⟩, w.2⟩⟩

/-- A write keeps the canonical form. -/
theorem Mem.put_wf (a : Nat) (b : Byte) (w : Mem.wf d m = true) : Mem.wf d (Mem.put m d a b) = true :=
  Mem.put_wfFrom (Nat.zero_le a) w

theorem Mem.putBytes_wf (a : Nat) (bs : List Byte) (w : Mem.wf d m = true) : Mem.wf d (Mem.putBytes m d a bs) = true := by
  induction bs generalizing m a with
  | nil => exact w
  | cons b r ih => exact ih (a + 1) (Mem.put_wf a b w)

theorem Mem.putBits_wf (p n v : Nat) (w : Mem.wf d m = true) : Mem.wf d (Mem.putBits m d p n v) = true :=
  Mem.putBytes_wf _ _ w

/-- Empty memory has the canonical form. -/
@[simp] theorem Mem.wf_nil : Mem.wf d [] = true := rfl

theorem Mem.get_below {lo a : Nat} (h : a < lo) (w : Mem.wfFrom d lo m = true) : Mem.get m d a = d a := by
  cases m with
  | nil => rfl
  | cons e r =>
    simp only [Mem.wfFrom, Bool.and_eq_true, decide_eq_true_eq] at w
    unfold Mem.get
    rw [if_neg (by omega), if_pos (by omega)]

theorem Mem.get_cons (k : Nat) (v : Byte) (r : Mem) (x : Nat) :
    Mem.get ((k, v) :: r) d x = if k = x then v else if x < k then d x else Mem.get r d x := by
  rw [Mem.get]

theorem Mem.get_put_from {lo a : Nat} {b : Byte} (x : Nat) (w : Mem.wfFrom d lo m = true) :
    Mem.get (Mem.put m d a b) d x = if x = a then b else Mem.get m d x := by
  induction m generalizing lo with
  | nil =>
    unfold Mem.put
    by_cases hb : b = d a
    · by_cases hx : x = a
      · subst hx; simp [hb, Mem.get]
      · simp [hb, hx, Mem.get]
    · by_cases hx : x = a
      · subst hx; simp [hb, Mem.get]
      · simp [hb, hx, Mem.get, Ne.symm hx]
  | cons e r ih =>
    obtain ⟨k, v⟩ := e
    simp only [Mem.wfFrom, Bool.and_eq_true, decide_eq_true_eq] at w
    have tail : ∀ y, y ≤ k → Mem.get r d y = d y := fun y hy => Mem.get_below (by omega) w.2
    unfold Mem.put
    by_cases h1 : k < a
    · rw [if_pos h1]
      by_cases hx : x = a
      · subst hx
        rw [if_pos rfl]
        unfold Mem.get
        rw [if_neg (by omega), if_neg (by omega), ih w.2, if_pos rfl]
      · rw [if_neg hx]
        unfold Mem.get
        rw [ih w.2, if_neg hx]
    · rw [if_neg h1]
      by_cases h2 : k = a
      · subst h2
        rw [if_pos rfl]
        by_cases hb : b = d k
        · rw [if_pos hb]
          by_cases hx : x = k
          · subst hx; rw [if_pos rfl, tail x (Nat.le_refl x), hb]
          · rw [if_neg hx]
            rw [Mem.get_cons, if_neg (Ne.symm hx)]
            by_cases hlt : x < k
            · rw [if_pos hlt, tail x (by omega)]
            · rw [if_neg hlt]
        · rw [if_neg hb]
          by_cases hx : x = k
          · subst hx; simp [Mem.get]
          · rw [if_neg hx]; simp [Mem.get, Ne.symm hx]
      · rw [if_neg h2]
        by_cases hb : b = d a
        · rw [if_pos hb]
          by_cases hx : x = a
          · subst hx; rw [if_pos rfl, Mem.get_cons, if_neg h2, if_pos (by omega), hb]
          · rw [if_neg hx]
        · rw [if_neg hb]
          by_cases hx : x = a
          · subst hx; rw [if_pos rfl]; simp [Mem.get]
          · rw [if_neg hx]
            rw [Mem.get_cons a, if_neg (Ne.symm hx)]
            by_cases hlt : x < a
            · rw [if_pos hlt, Mem.get_cons, if_neg (by omega), if_pos (by omega)]
            · rw [if_neg hlt]

/-- A read after a write: the byte written, or what was there. -/
theorem Mem.get_put (a x : Nat) (b : Byte) (w : Mem.wf d m = true) :
    Mem.get (Mem.put m d a b) d x = if x = a then b else Mem.get m d x := Mem.get_put_from x w

/-- A read after a write of bytes in a row. -/
theorem Mem.get_putBytes (a x : Nat) (bs : List Byte) (w : Mem.wf d m = true) :
    Mem.get (Mem.putBytes m d a bs) d x =
      if a ≤ x ∧ x < a + bs.length then bs.getD (x - a) 0#8 else Mem.get m d x := by
  induction bs generalizing m a with
  | nil =>
    have : ¬ (a ≤ x ∧ x < a + ([] : List Byte).length) := by simp
    rw [if_neg this]; rfl
  | cons b r ih =>
    rw [Mem.putBytes, ih (a + 1) (Mem.put_wf a b w), Mem.get_put a x b w]
    simp only [List.length_cons]
    by_cases h1 : a + 1 ≤ x ∧ x < a + 1 + r.length
    · rw [if_pos h1, if_pos (by omega)]
      obtain ⟨n, hn⟩ : ∃ n, x - a = n + 1 := ⟨x - a - 1, by omega⟩
      have : x - (a + 1) = n := by omega
      rw [hn, this]; rfl
    · rw [if_neg h1]
      by_cases hx : x = a
      · subst hx; rw [if_pos rfl, if_pos (by omega)]; simp
      · rw [if_neg hx, if_neg (by omega)]

end Sys2Proof.Machine
end

