-- ==== Sys2Proof/WellFormed.lean ====
section
/-!
DEFINITION. Which commands name units that exist (spec 00 R9, Table 0-7; 11 R277; 15 Table 15-7, R392).
-/
namespace Sys2Proof

def CmdId.wf (c : CmdId) : Bool := decide (c.iface < 256) && decide (c.queue < 16)

def Port.wf : Port → Bool
  | .host p => decide (p < 4)
  | .link k => decide (k < 32)
  | .mgmt => true

def RegSpace.wf : RegSpace → Bool
  | .window i => decide (i < 256)
  | .mgmt => true

def RateKey.wf : RateKey → Bool
  | .qp port qpn => decide (port < 4) && decide (qpn < 2 ^ 24)
  | .path link m => decide (link < 32) && decide (m < 2 ^ 14)

def FlowId.wf (f : FlowId) : Bool :=
  decide (f.part < 32) && decide (f.dstModule < 2 ^ 14) && decide (f.dstPart < 32) && decide (f.flow < 2 ^ 16)

def RecvId.wf (f : RecvId) : Bool :=
  decide (f.srcModule < 2 ^ 14) && decide (f.srcPart < 32) && decide (f.flow < 2 ^ 16)

/-- A Benzel packet has the eight header words of Table 14-3. -/
def BzPacket.wf (p : BzPacket) : Bool := p.hdr.length == 8

/-- A detection names a source and a partition that exist. -/
def Detection.wf (d : Detection) : Bool := decide (d.source < 0x60) && d.part.all fun p => decide (p < 32)

/-- A command names only units, classes, offsets and windows that exist. -/
def Instr.wf : Instr → Bool
  | .ctlNop c | .queCreate c | .queDestroy c | .ctlKill c | .memAlloc c | .memFree c | .memPlace c | .layerPlan c
  | .memStats c | .memExpose c | .memUnexpose c | .matmul c | .vecEwise c | .sfuEval c | .rowSoftmax c | .rowNorm c
  | .lossGather c | .lossClip c | .lossReduce c | .scaleLoad c | .tableLoad c | .genConfig c | .genAdmit c | .genStep c
  | .genCancel c | .genPrefill c | .genComplRing c | .learnPlan c | .learnStep c | .gradReduce c | .ruleLoad c
  | .ruleApply c | .paramGather c | .maskSet c | .epoMap c | .epoGrant c | .budLoad c | .budPublish c | .budDiscard c
  | .expRingCreate c | .expClassSet c | .expScore c | .expGather c | .expRingDestroy c | .evtSet c | .evtWait c
  | .semInit c | .semAcquire c | .semRelease c | .ckpConfig c | .ckpStep c | .ckpRestore c | .ckpStatus c | .rngSet c
  | .rngFill c | .rngStateGet c | .rngStatePut c | .ctxCreate c | .ctxDestroy c | .ctxPriority c | .ctxState c
  | .commandDispatch c | .commandTimeout c => c.wf
  | .weightDeadline c i => c.wf && decide (i < 4096)
  | .kvBlockReceive p _ | .prefillFinalMessage p _ | .pinDrop p | .budAreaAcquire p | .budDeadlineExpiry p
  | .prefillSwitch p | .pieceRequestReceive p _ | .pieceArrival p _ | .pieceRetry p | .pieceRequestTimeout p
  | .ckpTimerExpiry p | .drainWriteAck p | .commandCompletion p | .contextSwitch p | .switchComplete p | .rotation p
  | .donationBegin p | .donationEnd p | .donationQuantumExpiry p | .collPacketReceive p _
  | .transposeBlock p _ _ => decide (p < 32)
  | .kvDeadlineExpiry p s => decide (p < 32) && decide (s < 16384)
  | .stagingFetchComplete c => decide (c < 4096)
  | .tableRefill c t => decide (c < 4096) && decide (t < 128)
  | .doorbellWrite i q _ | .packetFetch i q | .replyHeadWrite i q _ | .replyRingConfig i q _ =>
    decide (i < 256) && decide (q < 16)
  | .completionEntryWrite i | .cringRdWrite i _ | .ctxSelWrite i _ | .viewPendClear i _ => decide (i < 256)
  | .rcCounterRead sp _ w | .registerWrite sp _ w _ => sp.wf && (w == 4 || w == 8)
  | .benzelDataReceive k p | .benzelAckReceive k p | .benzelNakReceive k p | .benzelCreditReceive k p
  | .benzelCnpReceive k p | .benzelAbortReceive k p => decide (k < 32) && p.wf
  | .ackTimerExpiry f => f.wf
  | .rtoExpiry f | .pathRetry f | .creditReturnTimer f => f.wf
  | .ratePeriod k => k.wf
  | .roceRdmaWrite p _ | .roceRdmaRead p _ | .pfcWatchdog p | .pfcIgnoredEnd p => decide (p < 4)
  | .roceCnpReceive p q | .roceResponseReceive p q _ | .qpError p q | .acknowledgementTimeout p q =>
    decide (p < 4) && decide (q < 2 ^ 24)
  | .pfcFrameReceive p n _ => p.wf && decide (n < 8)
  | .arpRequest p _ | .neighbourSolicitation p _ | .echoRequest p _ _ _ | .frameDiscard p _ | .linkUp p | .linkDown p
  | .trainingRestart p | .serdesRetune p => p.wf
  | .nextHopRefresh k | .nextHopResolved k _ | .lpiEntry k => decide (k < 32)
  | .seedLaneSwap l k => decide (l < 2) && decide (k < 32)
  | .faultDetect d => d.wf
  | .recordClear n _ | .severityWrite n _ => decide (n < 0x60)
  | .tokenGrant c | .scrubYield c => decide (c < 9)
  | .hbmRowRepair k => decide (k < 8)
  | .seedTileSwap t | .seedRowSwap t _ | .tileMemoryScrub t => decide (t < 128)
  | .vectorLaneReplace t l => decide (t < 128) && decide (l < 64)
  | .randomTableRekey d => decide (d < 8)
  | .rdimmTempRead c _ => decide (c < 8)
  | .thermalLoop r => decide (r.fraction ≤ 16) && decide (r.sensor < 256)
  | .budgetRefill | .collectorSelfFault | .injectionArm _ | .hbmScrub _ _ | .ddr5PatrolScrub _ _ | .sensorRecalibration
  | .dozeEntry | .powerWindow _ | .pwrbrkAssert | .pwrbrkDeassert | .thermalGuard _ | .thermtrip | .coolantRead _ _
  | .wearSample _ | .wearUpdate | .energyRecalibration _ _ | .calUserWrite _ | .inputApplied _ | .inputLoss
  | .pwrEnAssert | .pwrEnDeassert | .resetAssert _ | .resetRelease | .proxyDoorbell _ | .statusGet _ | .bulkRead _
  | .identGet _ | .evidenceGet _ | .logRead _ | .telemGet _ | .regRead _ | .regWrite _ | .partCreate _ | .partDestroy _
  | .ifCreate _ | .ifDestroy _ | .ifBudget _ | .qpCreate _ | .qpConnect _ | .qpDestroy _ | .proxyGrant _ | .powerState _
  | .reset _ | .calSave _ | .seedSwap _ | .fwStageBegin _ | .fwStageData _ | .fwStageEnd _ | .fwActivate _ | .fwCommit _
  | .mkeySet _ | .provSet _ | .thermalGuardRelease _ | .referenceInTolerance | .refDevUpdate _ | .entdaa _ => true

end Sys2Proof
end

