-- ==== Sys2Proof/Tests/Slice0.lean ====
section
/-!
SUPPORT. Tests of one step each, ill-formed commands that the check refuses, and for every statement with hypotheses a
concrete state and operands that meet them together. Numbers come from the spec's tables; a witness uses a module in Ready
with one partition, one interface, one context and the allocations it names.
-/
set_option Elab.async false

namespace Sys2Proof.Machine

/-! ## A small module -/

def demoDescr (role : Nat) : Descr :=
  { num := 0, role := role, c0 := 0, n := 1, hbm := 1, ddr := 0, fabric := 1#32, host := 1, slots := 4, foot := 0, quantum := 0,
    slice := 0, pin := 0, firstIf := 0 }

def demoPart (role : Nat) : Part := Part.new (demoDescr role)
def demoIface : Iface := Iface.new 0 0 1 0 4 1#32 2#32
def demoCtx : Ctx := Ctx.new 0 0 (demoPart roleLearn) 0 0 0

/-- An allocation of rank 0 in the context: `n` bytes of a format, with these bytes first. -/
def buf (h : W32) (fmt : Byte) (n : Nat) (bs : List Byte) : Alloc :=
  { handle := h, part := 0, ctx := some 0, size := n, flags := 0#16, fmt := fmt, rank := 0, dims := [], affinity := 0, home := .hbm,
    tile := 0, dscale := 0x3F800000#32, stats := Stats.zero, mem := Mem.putBytes [] zeroByte 0 bs, key := none, keyIface := 0,
    role := .plain, shadow := none, uncorr := [], corr := [], presence := none, frozen := [], blockEpochs := [], epoch := 0#32,
    tcopy := none, version := 0 }

def demoId : CmdId := { iface := 0, queue := 0, ord := 0 }

/-- A dispatched command with these parameter words after an empty header. -/
def call (op : Nat) (ws : List W32) : Cmd :=
  { id := demoId, opcode := op, flags := 0#32, ctx := 0, seq := 0, timeout := 0, event := 0, deps := [],
    words := List.replicate 16 0#32 ++ ws, bell := 0, fetchUs := 0, attempts := 1, phase := .dispatched, disp := 0, order := 0,
    first := none, view := none, atomic := false, stage := 0, begun := false, reads := [], failedReads := [],
    late := [], guardLog2 := 0, waitSince := none, batch := none, stallSince := none, needs := [], startUs := 0, target := none,
    inserted := false }

/-- The words of a tensor reference over a whole tensor, of an array, and of an absent reference. -/
def tref (h fmt : W32) : List W32 := [h, fmt] ++ List.replicate 6 0#32
def aref (h n : W32) : List W32 := [h, n, 0#32, 0#32]
def noTref : List W32 := tref 0#32 0#32

def demoView (p : Part) (x : Ctx) (as : List Alloc) : View :=
  { allocs := as, ctx := some x, epo := p.epo, rules := p.rules, classes := [], classL := 0x12C#32 }

def Cmd.seen (c : Cmd) (p : Part) (x : Ctx) (as : List Alloc) : Cmd :=
  { c with first := some (demoView p x as), view := some (demoView p x as) }

/-- A module in Ready that runs one command. -/
def demo (p : Part) (f : Iface) (x : Ctx) (as : List Alloc) (c : Cmd) : State :=
  { State.reset with phase := .running, parts := [p], ifaces := [f], ctxs := [x], allocs := as, cmds := [c.seen p x as] }

def demoEnv (p : Part) (f : Iface) (x : Ctx) (as : List Alloc) : Env :=
  { part := p, iface := f, ctx := x, view := demoView p x as, first := demoView p x as, coef := State.reset.mgt.coefVer, fw := State.reset.mgt.fwVer }

theorem demo_runs {p : Part} {f : Iface} {x : Ctx} {as : List Alloc} {c : Cmd} {op : Nat} (hp : p.num = 0) (hf : f.num = 0)
    (hfp : f.part = 0) (hc : c.id = demoId) (ho : c.opcode = op) (hd : c.phase = .dispatched) (hr : roleAccepts p.role op = true) :
    Runs (demo p f x as c) op demoId (c.seen p x as) (demoEnv p f x as) where
  awake := rfl
  env := by
    simp [State.env?, State.cmd?, State.iface?, State.part?, demo, Cmd.seen, demoId, hc, ho, hd, hf, hfp, hp, demoEnv, demoView]
  role := hr
  seeded := rfl
  sound := rfl

/-- An allocation whose locations, and those of its shadow, all read well. -/
def wellRead (a : Alloc) : Bool := a.corr.isEmpty && a.uncorr.isEmpty && a.shadow.all (·.uncorr.isEmpty)

/-- A copy of weights whose locations, and those of its shadows, all read well. -/
def wellArea (r : Area) : Bool :=
  r.corrs.all (·.isEmpty) && r.uncorrs.all (·.isEmpty) && r.shadows.all fun d => d.all (·.uncorr.isEmpty)

theorem clean_of {s : State} (ha : s.allocs.all wellRead = true) (hp : (s.parts.all fun p => p.epo.areas.all wellArea) = true) :
    s.clean := by
  refine ⟨fun a h => ?_, fun p h r hr => ?_⟩
  · have := List.all_eq_true.mp ha a h
    simp only [wellRead, Bool.and_eq_true, List.isEmpty_iff] at this
    refine ⟨this.1.1, this.1.2, fun d hd => ?_⟩
    simpa [hd] using this.2
  · have := List.all_eq_true.mp (List.all_eq_true.mp hp p h) r hr
    simp only [wellArea, Bool.and_eq_true, List.all_eq_true, List.isEmpty_iff] at this
    exact ⟨this.1.1, this.1.2, fun d hd => by simpa using this.2 _ hd⟩

theorem demo_clean {p : Part} {f : Iface} {x : Ctx} {as : List Alloc} {c : Cmd} (h : as.all wellRead = true)
    (hp : p.epo.areas.all wellArea = true := by rfl) : (demo p f x as c).clean := clean_of h (by simp [demo, hp])


/-! ## Witnesses: opcode rows -/

def one (role op : Nat) (ws : List W32) (as : List Alloc) : State := demo (demoPart role) demoIface demoCtx as (call op ws)
def oneCmd (role op : Nat) (ws : List W32) (as : List Alloc) : Cmd := (call op ws).seen (demoPart role) demoCtx as
def oneEnv (role : Nat) (as : List Alloc) : Env := demoEnv (demoPart role) demoIface demoCtx as

theorem one_runs {role op : Nat} {ws : List W32} {as : List Alloc} (hr : roleAccepts role op = true) :
    Runs (one role op ws as) op demoId (oneCmd role op ws as) (oneEnv role as) :=
  demo_runs rfl rfl rfl rfl rfl rfl hr

theorem witness_ctlNop : ∃ s k e, Runs s 0x0101 demoId k e := ⟨_, _, _, one_runs (role := 0) (ws := []) (as := []) rfl⟩

theorem witness_queCreate : ∃ s k e, Runs s 0x0102 demoId k e ∧ 1 ≤ k.n 0 ∧ k.n 0 ≤ 15 ∧ 6 ≤ k.n 1 ∧ k.n 1 ≤ 13 ∧
    e.iface.queuePresent (k.n 0) = false :=
  ⟨_, _, _, one_runs (role := 0) (ws := [15#32, 6#32]) (as := []) rfl, by decide⟩

theorem witness_queDestroy : ∃ s k e, Runs s 0x0103 demoId k e ∧ 1 ≤ k.n 0 ∧ k.n 0 ≤ 15 ∧ e.iface.queuePresent (k.n 0) = true ∧
    s.destroying k (k.n 0) = false ∧
    (let u := (s.modQueue 0 (k.n 0) fun q => { q with dying := true }).modCmd demoId fun c => { c with stage := 1 }
     (u.killAll (u.queueCmds 0 (k.n 0) demoId)).queueCmds 0 (k.n 0) demoId = []) :=
  ⟨_, _, _, demo_runs (p := demoPart 0) (f := { demoIface with queues := [(1, Queue.new 0 8 0)] }) (x := demoCtx) (as := [])
    (c := call 0x0103 [1#32]) rfl rfl rfl rfl rfl rfl rfl, by decide +kernel⟩

/-- Another command of the interface, fetched on queue 1. -/
def otherCmd (op ord seq : Nat) : Cmd := { call op [] with id := { iface := 0, queue := 1, ord := ord }, phase := .fetched, seq := seq }

def pair (role op : Nat) (ws : List W32) (as : List Alloc) (c : Cmd) : State :=
  { one role op ws as with cmds := [oneCmd role op ws as, c] }

theorem pair_runs {role op : Nat} {ws : List W32} {as : List Alloc} {c : Cmd} (hr : roleAccepts role op = true) :
    Runs (pair role op ws as c) op demoId (oneCmd role op ws as) (oneEnv role as) :=
  ⟨rfl, (one_runs hr).env, hr, rfl, rfl⟩

theorem witness_ctlKill : ∃ s k e x, Runs s 0x0104 demoId k e ∧ k.n 0 < 16 ∧ k.n 1 < 2 ^ 24 ∧ k.target = none ∧
    s.killTarget k (k.n 0) (k.n 1) = some x ∧ x.pastWrite = false :=
  ⟨_, _, _, otherCmd 0x0101 0 0xFFFFFF, pair_runs (role := 0) (ws := [1#32, 0xFFFFFF#32]) (as := []) (c := otherCmd 0x0101 0 0xFFFFFF)
    rfl, by decide +kernel⟩

/-- An ATOMIC command past its first write, as a target. -/
def writingCmd : Cmd := { otherCmd 0x0302 0 0xFFFFFF with atomic := true, phase := .ready (Result.bare stOK) }

theorem witness_ctlKill_waits : ∃ s k e x, Runs s 0x0104 demoId k e ∧ k.n 0 < 16 ∧ k.n 1 < 2 ^ 24 ∧ k.target = none ∧
    s.killTarget k (k.n 0) (k.n 1) = some x ∧ x.pastWrite = true :=
  ⟨_, _, _, writingCmd, pair_runs (role := 0) (ws := [1#32, 0xFFFFFF#32]) (as := []) (c := writingCmd) rfl, by decide +kernel⟩

theorem witness_ctlKill_gone : ∃ s k e x, Runs s 0x0104 demoId k e ∧ k.n 0 < 16 ∧ k.n 1 < 2 ^ 24 ∧ k.target = some x ∧
    s.cmd? x = none :=
  ⟨_, _, _, { iface := 0, queue := 1, ord := 0 }, demo_runs (p := demoPart 0) (f := demoIface) (x := demoCtx) (as := [])
    (c := { call 0x0104 [1#32, 0xFFFFFF#32] with target := some { iface := 0, queue := 1, ord := 0 } }) rfl rfl rfl rfl rfl rfl rfl,
    by decide +kernel⟩

theorem witness_evtSet : ∃ s k e, Runs s 0x0801 demoId k e ∧ k.n 0 < 256 ∧ k.n 1 < 2 :=
  ⟨_, _, _, one_runs (role := 0) (ws := [255#32, 1#32, 7#32]) (as := []) rfl, by decide⟩

theorem witness_evtWait : ∃ s k e, Runs s 0x0802 demoId k e ∧ k.n 0 < 256 :=
  ⟨_, _, _, one_runs (role := 0) (ws := [255#32, 1#32]) (as := []) rfl, by decide⟩

theorem witness_semInit : ∃ s k e, Runs s 0x0803 demoId k e ∧ k.n 0 < 4096 ∧ k.n 1 ≤ 65535 ∧
    s.semInUse e.part.num (k.n 0) = false :=
  ⟨_, _, _, one_runs (role := 0) (ws := [4095#32, 65535#32]) (as := []) rfl, by decide +kernel⟩

theorem witness_semAcquire : ∃ s k e x, Runs s 0x0804 demoId k e ∧ k.n 0 < 4096 ∧ 1 ≤ k.n 1 ∧ k.n 1 ≤ 65535 ∧
    s.ctx? k.ctx = some x ∧ x.semsFull (k.n 0) = false ∧ (∀ w ∈ s.semWaiters e.part.num (k.n 0), k.disp ≤ w.disp) :=
  ⟨_, _, _, demoCtx, one_runs (role := 0) (ws := [0#32, 65535#32]) (as := []) rfl, by decide +kernel⟩

theorem witness_semRelease : ∃ s k e x, Runs s 0x0805 demoId k e ∧ k.n 0 < 4096 ∧ 1 ≤ k.n 1 ∧ k.n 1 ≤ 65535 ∧
    s.ctx? k.ctx = some x ∧ k.n 1 ≤ x.held (k.n 0) :=
  ⟨_, _, _, { demoCtx with sems := [(3, 2)] }, demo_runs (p := demoPart 0) (f := demoIface) (x := { demoCtx with sems := [(3, 2)] })
    (as := []) (c := call 0x0805 [3#32, 2#32]) rfl rfl rfl rfl rfl rfl rfl, by decide +kernel⟩

/-! Memory -/

theorem witness_memAlloc : ∃ s k e, Runs s 0x0201 demoId k e ∧ fieldsOk (allocFields k e.part) :=
  ⟨_, _, _, one_runs (role := 0) (ws := [64#32, 0#32, 2#32] ++ List.replicate 7 0#32) (as := []) rfl,
    show firstBad _ = none by decide +kernel⟩

theorem witness_memFree : ∃ s k e a, Runs s 0x0202 demoId k e ∧ e.alloc? (k.w 0) = some a ∧ a.role = .plain ∧
    s.checkpointed e.part.num (k.w 0) = false ∧ s.namedBefore k (k.w 0) = false :=
  ⟨_, _, _, buf 9#32 0#8 64 [], one_runs (role := 0) (ws := [9#32]) (as := [buf 9#32 0#8 64 []]) rfl, by decide +kernel⟩

theorem witness_memPlace : ∃ s k e a, Runs s 0x0203 demoId k e ∧ e.alloc? (k.w 0) = some a :=
  ⟨_, _, _, buf 9#32 0#8 64 [], one_runs (role := 0) (ws := [9#32]) (as := [buf 9#32 0#8 64 []]) rfl, by decide +kernel⟩

/-- A streamed tensor, and the array that names it. -/
def streamed : Alloc := { buf 9#32 0#8 64 [] with flags := 8#16 }

theorem witness_layerPlan : ∃ s k e, Runs s 0x0204 demoId k e ∧ s.clean ∧ 1 ≤ (k.a 0).count ∧ (k.a 0).count ≤ 4096 ∧
    e.arrayOk (k.a 0) 4 = true ∧ k.n 1 < 16 ∧ k.n 2 < 16 ∧
    (∀ h ∈ (e.entries (k.a 0) 4).map (fun w => w.getD 0 0#32), ∃ b, e.firstAlloc? h = some b ∧ b.stream = true) := by
  refine ⟨_, _, _, one_runs (role := 0) (ws := aref 8#32 1#32 ++ [15#32, 15#32]) (as := [buf 8#32 8#8 4 [9#8, 0#8, 0#8, 0#8], streamed]) rfl,
    demo_clean rfl, by decide +kernel, by decide +kernel, by decide +kernel, by decide +kernel, by decide +kernel, ?_⟩
  intro h hh
  have hs : ((oneEnv 0 [buf 8#32 8#8 4 [9#8, 0#8, 0#8, 0#8], streamed]).entries ((oneCmd 0 0x0204 (aref 8#32 1#32 ++ [15#32, 15#32])
      [buf 8#32 8#8 4 [9#8, 0#8, 0#8, 0#8], streamed]).a 0) 4).map (fun w => w.getD 0 0#32) = [9#32] := by decide +kernel
  rw [hs] at hh
  obtain rfl := List.mem_singleton.mp hh
  exact ⟨streamed, by decide +kernel, by decide⟩

theorem witness_memStats : ∃ s k e, Runs s 0x0205 demoId k e ∧ (e.alloc? (k.w 0)).isSome = true ∧
    fieldsOk (bufferChecks e (k.off 1) (k.t 1) 40) :=
  ⟨_, _, _, one_runs (role := 0) (ws := 9#32 :: 0#32 :: tref 8#32 8#32) (as := [buf 8#32 8#8 40 [], buf 9#32 0#8 64 []]) rfl,
    by decide +kernel, show firstBad _ = none by decide +kernel⟩

theorem witness_memExpose : ∃ s k e a, (Runs s 0x0206 demoId k e) ∧ (e.alloc? (k.w 0)).isSome = true ∧
    s.alloc? e.part.num (k.w 0) = some a :=
  ⟨_, _, _, buf 9#32 0#8 64 [], one_runs (role := 0) (ws := [9#32]) (as := [buf 9#32 0#8 64 []]) rfl, by decide +kernel⟩

theorem witness_memUnexpose : ∃ s k e a, Runs s 0x0207 demoId k e ∧ (e.alloc? (k.w 0)).isSome = true ∧
    s.alloc? e.part.num (k.w 0) = some a :=
  ⟨_, _, _, buf 9#32 0#8 64 [], one_runs (role := 0) (ws := [9#32]) (as := [buf 9#32 0#8 64 []]) rfl, by decide +kernel⟩

/-! Compute -/

/-- A command runs in clean memory with no drain. -/
theorem one_calm {role op : Nat} {ws : List W32} {as : List Alloc} (h : as.all wellRead = true) :
    (one role op ws as).clean ∧ (one role op ws as).undrained demoId :=
  ⟨demo_clean h, rfl⟩

/-- BF16 activations of one row, a BF16 weight of 2 × 2, an FP32 output. -/
def matAllocs : List Alloc := [buf 7#32 1#8 4 [], { buf 8#32 1#8 8 [] with rank := 2, dims := [2, 2] }, buf 9#32 0#8 8 []]
def matWords : List W32 :=
  tref 7#32 1#32 ++ tref 8#32 1#32 ++ noTref ++ noTref ++ noTref ++ noTref ++ tref 9#32 0#32 ++ noTref ++ noTref

/-- The one work item of a product of one block. -/
def soleItem (w : ItemWeight) : WorkItem :=
  { cmd := demoId, cls := .forward, product := 0, src := none, weight := w, col := 0, row := 0, k := 0 }

/-- The state in which the sole item of the command has run. -/
def ranSole (s : State) : State := { s.modCmd demoId (fun k => { k with inserted := true }) with boards := [] }

theorem matSole : (one 0 0x0301 matWords matAllocs).runItems (oneCmd 0 0x0301 matWords matAllocs) (oneEnv 0 matAllocs)
    [matProduct (oneCmd 0 0x0301 matWords matAllocs) (matAllocs.getD 0 default) (matAllocs.getD 1 default)] =
    ranSole (one 0 0x0301 matWords matAllocs) :=
  State.runItems_one (i := soleItem .home) rfl rfl (by decide +kernel) fun _ => by rfl

theorem witness_matmul : ∃ s k e x w o t, s.clean ∧ s.undrained demoId ∧ Runs s 0x0301 demoId k e ∧ fieldsOk (matFields k e) ∧
    e.alloc? (k.t 0).handle = some x ∧ e.alloc? (k.t 1).handle = some w ∧ e.alloc? (k.t 6).handle = some o ∧ k.n 13 ≠ 1 ∧
    t = s.runItems k e [matProduct k x w] ∧ t.itemsDone demoId = true ∧
    (requantises x w o = true ∨ mustWait t k e [k.t 6, k.t 7, k.t 8] = false) :=
  ⟨one 0 0x0301 matWords matAllocs, _, _, _, _, _, ranSole (one 0 0x0301 matWords matAllocs), demo_clean rfl, rfl, one_runs rfl,
    show firstBad _ = none by decide +kernel, by rfl, by rfl, by rfl, by decide +kernel,
    matSole.symm, rfl, by decide +kernel⟩

/-- The weight of a learner with its transposed copy, current. -/
def transposedWeight : Alloc :=
  { buf 8#32 1#8 8 [] with rank := 2, dims := [2, 2]
                           tcopy := some { mem := [], tags := [], queued := [], jobs := [], inProgress := none } }
def transAllocs : List Alloc := [buf 7#32 1#8 4 [], transposedWeight, buf 9#32 0#8 8 []]
def transWords : List W32 := matWords ++ [0#32, 0#32, 0#32, 0#32, 1#32]

theorem transSole : (one roleLearn 0x0301 transWords transAllocs).runItems (oneCmd roleLearn 0x0301 transWords transAllocs)
    (oneEnv roleLearn transAllocs) [matProduct (oneCmd roleLearn 0x0301 transWords transAllocs) (transAllocs.getD 0 default)
      (transAllocs.getD 1 default)] = ranSole (one roleLearn 0x0301 transWords transAllocs) :=
  State.runItems_one (i := soleItem (.transposed 8#32 [0])) rfl rfl (by decide +kernel) fun _ => by rfl

theorem witness_matmul_transposed : ∃ s k e x w o t v v', s.clean ∧ s.undrained demoId ∧ Runs s 0x0301 demoId k e ∧
    fieldsOk (matFields k e) ∧ e.alloc? (k.t 0).handle = some x ∧ e.alloc? (k.t 1).handle = some w ∧
    e.alloc? (k.t 6).handle = some o ∧ k.n 13 = 1 ∧ t = s.runItems k e [matProduct k x w] ∧ t.itemsDone demoId = true ∧
    (t.alloc? e.part.num w.handle).map tagsCurrent = some true ∧ w.transposed = some v ∧
    (t.alloc? e.part.num w.handle).bind (·.transposed) = some v' ∧
    (requantises x { v with mem := v'.mem } o = true ∨ mustWait t k e [k.t 6, k.t 7, k.t 8] = false) :=
  ⟨one roleLearn 0x0301 transWords transAllocs, _, _, _, _, _, ranSole (one roleLearn 0x0301 transWords transAllocs), _, _, demo_clean rfl,
    rfl, one_runs rfl, show firstBad _ = none by decide +kernel, by rfl, by rfl, by rfl, by decide +kernel,
    transSole.symm, rfl, by rfl, by rfl,
    by rfl, by decide +kernel⟩

theorem witness_matmul_field : ∃ s k e o, s.clean ∧ s.undrained demoId ∧ Runs s 0x0301 demoId k e ∧
    firstBad (matFields k e) = some o :=
  ⟨_, _, _, 64, (one_calm (role := 0) (op := 0x0301) (ws := []) (as := []) rfl).1, rfl, one_runs rfl, by decide +kernel⟩

/-- A full scoreboard with one item held for it; its oldest ready entry is the first. -/
def fullBoard : Board := { entries := List.replicate 64 (soleItem .home), held := [soleItem .home] }
theorem witness_scoreboard : ∃ (b : Board) (i : WorkItem) (ready : WorkItem → Bool), b.entries.length ≤ 64 ∧
    b.oldestReady ready = some i := ⟨fullBoard, soleItem .home, fun _ => true, by decide +kernel, by rfl⟩

/-- Two FP32 tensors of two elements. -/
def twoAllocs : List Alloc := [buf 7#32 0#8 8 [], buf 8#32 0#8 8 []]
def vecWords (h : W32) : List W32 := [0#32, 0#32] ++ tref h 0#32 ++ noTref ++ noTref ++ tref 8#32 0#32

theorem witness_vecEwise : ∃ s k e, s.clean ∧ s.undrained demoId ∧ Runs s 0x0302 demoId k e ∧ fieldsOk (vecFields k e) ∧
    bitAt k.flags 0 = false ∧ mustWait s k e [k.t 4] = false :=
  ⟨_, _, _, (one_calm (role := 0) (op := 0x0302) (ws := vecWords 7#32) (as := twoAllocs) rfl).1, rfl, one_runs rfl,
    show firstBad _ = none by decide +kernel, by decide +kernel, by decide +kernel⟩

theorem witness_vecEwise_field : ∃ s k e o, s.clean ∧ s.undrained demoId ∧ Runs s 0x0302 demoId k e ∧
    firstBad (vecFields k e) = some o :=
  ⟨_, _, _, 72, (one_calm (role := 0) (op := 0x0302) (ws := vecWords 6#32) (as := twoAllocs) rfl).1, rfl, one_runs rfl,
    by decide +kernel⟩

theorem witness_vecEwise_atomic : ∃ s k e a t, s.clean ∧ s.undrained demoId ∧ bitAt k.flags 0 = true ∧ Runs s 0x0302 demoId k e ∧
    fieldsOk (vecFields k e) ∧ mustWait s k e [k.t 4] = false ∧ e.alloc? (k.t 4).handle = some a ∧
    (s.modCmd demoId fun c => { c with atomic := true }).takeReserve k (some demoId) [] = some t :=
  ⟨_, _, _, _, _, (demo_clean (p := demoPart 0) (f := demoIface) (x := demoCtx) (as := twoAllocs)
      (c := { call 0x0302 (vecWords 7#32) with flags := 1#32 }) rfl), rfl, by decide +kernel, demo_runs rfl rfl rfl rfl rfl rfl rfl,
    show firstBad _ = none by decide +kernel, by decide +kernel, by rfl, by rfl⟩

theorem witness_sfuEval : ∃ s k e, s.clean ∧ s.undrained demoId ∧ Runs s 0x0303 demoId k e ∧ fieldsOk (sfuFields k e) ∧
    (k.n 0 < 0x10 ∨ (boundCustom e (k.n 0)).isSome = true) ∧ mustWait s k e [k.t 2] = false :=
  ⟨_, _, _, (one_calm (role := 0) (op := 0x0303) (ws := [0#32, 0#32] ++ tref 7#32 0#32 ++ tref 8#32 0#32) (as := twoAllocs) rfl).1, rfl,
    one_runs rfl, show firstBad _ = none by decide +kernel, by decide +kernel, by decide +kernel⟩

theorem witness_sfuEval_field : ∃ s k e o, s.clean ∧ s.undrained demoId ∧ Runs s 0x0303 demoId k e ∧
    firstBad (sfuFields k e) = some o :=
  ⟨_, _, _, 64, (one_calm (role := 0) (op := 0x0303) (ws := [0x50#32, 0#32] ++ tref 7#32 0#32 ++ tref 8#32 0#32) (as := twoAllocs) rfl).1,
    rfl, one_runs rfl, by decide +kernel⟩

theorem witness_rowSoftmax : ∃ s k e, s.clean ∧ s.undrained demoId ∧ Runs s 0x0304 demoId k e ∧ fieldsOk (softmaxFields k e) ∧
    s.rowFits e (k.t 0).fmt (k.n 2) 4 = true ∧ mustWait s k e [k.t 1] = false :=
  ⟨_, _, _, (one_calm (role := 0) (op := 0x0304) (ws := tref 7#32 0#32 ++ tref 8#32 0#32 ++ [2#32, 0x3F800000#32, 1#32])
    (as := twoAllocs) rfl).1, rfl, one_runs rfl, show firstBad _ = none by decide +kernel, by decide +kernel, by decide +kernel⟩

theorem witness_rowNorm : ∃ s k e, s.clean ∧ s.undrained demoId ∧ Runs s 0x0305 demoId k e ∧ fieldsOk (normFields k e) ∧
    s.rowFits e (k.t 0).fmt (k.n 6) 0 = true ∧ mustWait s k e [k.t 1, k.t 2, k.t 3] = false :=
  ⟨_, _, _, (one_calm (role := 0) (op := 0x0305)
      (ws := tref 7#32 0#32 ++ noTref ++ tref 9#32 0#32 ++ noTref ++ noTref ++ noTref ++ [2#32, 0x3727C5AC#32, 1#32])
    (as := twoAllocs ++ [buf 9#32 0#8 4 []]) rfl).1, rfl, one_runs rfl, show firstBad _ = none by decide +kernel, by decide +kernel,
    by decide +kernel⟩

theorem witness_lossGather : ∃ s k e, s.clean ∧ s.undrained demoId ∧ Runs s 0x0306 demoId k e ∧ fieldsOk (lossGatherFields k e) ∧
    s.rowFits e (k.t 0).fmt (k.n 6) 4 = true ∧ mustWait s k e [k.t 2, k.t 3, k.t 4, k.t 5] = false :=
  ⟨_, _, _, (one_calm (role := 0) (op := 0x0306)
      (ws := tref 7#32 0#32 ++ tref 8#32 8#32 ++ tref 9#32 0#32 ++ noTref ++ noTref ++ noTref ++ [2#32, 0x3F800000#32])
    (as := [buf 7#32 0#8 8 [], buf 8#32 8#8 4 [], buf 9#32 0#8 4 []]) rfl).1, rfl, one_runs rfl,
    show firstBad _ = none by decide +kernel, by decide +kernel, by decide +kernel⟩

/-- Inputs and outputs of two elements for the losses. -/
def lossAllocs : List Alloc := [buf 7#32 0#8 8 [], buf 8#32 0#8 8 [], buf 9#32 0#8 8 [], buf 10#32 0#8 8 [], buf 11#32 0#8 8 [],
  buf 12#32 0#8 8 [], buf 13#32 0#8 4 []]

theorem witness_lossClip : ∃ s k e, s.clean ∧ s.undrained demoId ∧ Runs s 0x0307 demoId k e ∧ fieldsOk (lossClipFields k e) ∧
    mustWait s k e [k.t 3, k.t 4, k.t 5] = false :=
  ⟨_, _, _, (one_calm (role := 0) (op := 0x0307)
      (ws := tref 7#32 0#32 ++ tref 8#32 0#32 ++ tref 9#32 0#32 ++ tref 10#32 0#32 ++ tref 11#32 0#32 ++ tref 12#32 0#32 ++
        [0x3E4CCCCD#32, 0#32])
    (as := lossAllocs) rfl).1, rfl, one_runs rfl, show firstBad _ = none by decide +kernel, by decide +kernel⟩

theorem witness_lossReduce : ∃ s k e, s.clean ∧ s.undrained demoId ∧ Runs s 0x0308 demoId k e ∧ fieldsOk (lossReduceFields k e) ∧
    s.rowFits e (k.t 0).fmt (e.len (k.t 0)) 0 = true ∧ mustWait s k e [k.t 3, k.t 4] = false :=
  ⟨_, _, _, (one_calm (role := 0) (op := 0x0308)
      (ws := tref 7#32 0#32 ++ tref 8#32 0#32 ++ tref 9#32 0#32 ++ tref 13#32 0#32 ++ tref 11#32 0#32 ++ [2#32, 0x3F800000#32])
    (as := lossAllocs) rfl).1, rfl, one_runs rfl, show firstBad _ = none by decide +kernel, by decide +kernel⟩

theorem witness_scaleLoad : ∃ s k e, s.clean ∧ Runs s 0x0309 demoId k e ∧ k.n 0 < 8192 ∧ e.arrayOk (k.a 1) 8 = true ∧
    k.n 0 + (k.a 1).count ≤ 8192 ∧ (∀ w ∈ e.entries (k.a 1) 8, (w.getD 1 0#32).toNat < 64) ∧
    scaleBusy s k (k.n 0) (k.n 0 + (k.a 1).count) = false :=
  ⟨_, _, _, (one_calm (role := 0) (op := 0x0309) (ws := [8191#32, 0#32] ++ aref 8#32 1#32)
    (as := [buf 8#32 8#8 8 [1#8, 0#8, 0#8, 0#8, 63#8]]) rfl).1, one_runs rfl, by decide +kernel⟩

theorem witness_tableLoad : ∃ s k e, s.clean ∧ Runs s 0x030A demoId k e ∧ tableSelOk (k.n 0) = true ∧
    fieldsOk (inputChecks e (k.off 1) (k.t 1)) ∧ (k.t 1).fmt = 0#8 ∧ e.len (k.t 1) = (if k.n 0 = 0 then 1024 else 1030) ∧
    (if k.n 0 = 0 then tempOk (e.values (k.t 1)) else customOk (e.values (k.t 1))) = true ∧ shadowBound s k (k.n 0) = false :=
  ⟨_, _, _, (one_calm (role := 0) (op := 0x030A) (ws := [0#32, 0#32] ++ tref 8#32 0#32) (as := [buf 8#32 0#8 4096 []]) rfl).1,
    one_runs rfl, by decide +kernel, show firstBad _ = none by decide +kernel, by decide +kernel, by decide +kernel, by decide +kernel,
    by decide +kernel⟩

theorem witness_rngSet : ∃ s k e, s.clean ∧ s.undrained demoId ∧ Runs s 0x0A01 demoId k e ∧ k.n 1 < 2 ∧ s.seedBound k = false :=
  ⟨_, _, _, (one_calm (role := 0) (op := 0x0A01) (ws := [5#32, 0#32, 1#32]) (as := []) rfl).1, rfl, one_runs rfl, by decide +kernel⟩

theorem witness_rngFill : ∃ s k e a, s.clean ∧ s.undrained demoId ∧ Runs s 0x0A02 demoId k e ∧ fieldsOk (fillFields k e) ∧
    (e.det = true ∨ s.generatorHeld k e.part.tiles = false) ∧ e.alloc? (k.t 1).handle = some a :=
  ⟨_, _, _, _, (one_calm (role := 0) (op := 0x0A02) (ws := [0#32, 0#32] ++ tref 7#32 0#32 ++ [0#32, 0#32, 0#32, 0#32]) (as := twoAllocs)
    rfl).1, rfl, one_runs rfl, show firstBad _ = none by decide +kernel, by decide +kernel, by rfl⟩

theorem witness_rngStateGet : ∃ s k e, s.clean ∧ s.undrained demoId ∧ Runs s 0x0A03 demoId k e ∧
    e.bufferOk (k.w 0) 0 (stateSize e.part.tiles) = true :=
  ⟨_, _, _, (one_calm (role := 0) (op := 0x0A03) (ws := [8#32]) (as := [buf 8#32 8#8 1168 []]) rfl).1, rfl, one_runs rfl,
    by decide +kernel⟩

/-- The state of one tile as RNG_STATE_PUT takes it (spec 05 R136): one tile, everything else zero. -/
theorem witness_rngStatePut : ∃ s k e, s.clean ∧ s.undrained demoId ∧ Runs s 0x0A04 demoId k e ∧ e.bufferOk (k.w 0) 0 0 = true ∧
    genStateOk (e.buffer (k.w 0)) = true ∧ s.seedBound k = false :=
  ⟨_, _, _, (one_calm (role := 0) (op := 0x0A04) (ws := [8#32])
    (as := [buf 8#32 8#8 304 (List.replicate 10 0#8 ++ [1#8])]) rfl).1, rfl, one_runs rfl, by decide +kernel⟩

theorem witness_ctxCreate : ∃ s k e, Runs s 0x0B01 demoId k e ∧ k.n 0 % 4 = 0 ∧ (e.part.foot = 0 ∨ k.n 0 ≤ e.part.foot) ∧
    k.n 1 ≤ 3 ∧ e.iface.prioMin ≤ k.n 1 :=
  ⟨_, _, _, one_runs (role := 0) (ws := [4#32, 3#32]) (as := []) rfl, by decide +kernel⟩

/-- Two contexts of the interface, and another command that works in neither. -/
def twoCtxs (op : Nat) (ws : List W32) : State := { one 0 op ws [] with ctxs := [demoCtx, { demoCtx with id := 1 }] }
theorem twoCtxs_runs {op : Nat} {ws : List W32} (hr : roleAccepts 0 op = true) :
    Runs (twoCtxs op ws) op demoId (oneCmd 0 op ws []) (oneEnv 0 []) := ⟨rfl, (one_runs hr).env, hr, rfl, rfl⟩

theorem witness_ctxDestroy : ∃ s k e, Runs s 0x0B02 demoId k e ∧ k.n 0 < 4096 ∧ k.n 0 ≠ k.ctx ∧ s.ctxDestroyable k e (k.n 0) = true ∧
    (∀ c ∈ (s.killAll ((s.cmds.filter (·.ctx == k.n 0)).map (·.id))).cmds, c.ctx ≠ k.n 0) :=
  ⟨_, _, _, twoCtxs_runs (ws := [1#32]) rfl, by decide +kernel⟩

theorem witness_ctxPriority : ∃ s k e x, Runs s 0x0B03 demoId k e ∧ k.n 0 < 4096 ∧ k.n 1 ≤ 3 ∧ e.iface.prioMin ≤ k.n 1 ∧
    s.ctx? (k.n 0) = some x ∧ x.iface = demoId.iface :=
  ⟨_, _, _, { demoCtx with id := 1 }, twoCtxs_runs (ws := [1#32, 3#32]) rfl, by decide +kernel⟩

theorem witness_ctxState : ∃ s k e x, Runs s 0x0B04 demoId k e ∧ k.n 0 < 4096 ∧ s.ctx? (k.n 0) = some x ∧ x.iface = demoId.iface :=
  ⟨_, _, _, { demoCtx with id := 1 }, twoCtxs_runs (ws := [1#32]) rfl, by decide +kernel⟩

/-! Generation -/

/-- A pool of one KV block of one layer, one head, 32 elements of BF16; its configuration; a layer plan. -/
def kvPool : Alloc := buf 20#32 8#8 8192 []
def demoGen : GenCfg :=
  { ctx := 0, draft := [], layers := 1, heads := 1, dh := 32, kvFmt := 1#8, pool := 20#32, maxCtx := 64, eos := 2#32 }
def demoLayers (hs : List W32) : LayerPlan :=
  { serial := 0, handles := hs, w := 0, p := 0, at_ := 0, slots := [], bad := [], halted := [], window := [] }
def planned : Ctx := { demoCtx with plan := some (demoLayers []) }

theorem witness_genConfig : ∃ s k e g, s.clean ∧ Runs s 0x0401 demoId k e ∧ e.arrayOk (k.a 0) 4 = true ∧ k.n 1 ≠ 0 ∧ k.n 2 ≠ 0 ∧
    k.n 3 ≠ 0 ∧ kvFmtOk (k.n 4) (k.n 3) = true ∧ g = genCfgOf k ((e.entries (k.a 0) 4).map fun w => w.getD 0 0#32) ∧
    poolOk e k g = true ∧ 64 ≤ k.n 6 ∧ k.n 6 ≤ 1048576 ∧ e.serving = true ∧ e.part.gen.reqs = [] ∧
    (e.first.ctx.bind (·.plan)).isSome = true ∧
    (∀ h ∈ g.draft, ∃ a, e.firstAlloc? h = some a ∧ a.stream = false ∧ a.home ≠ .ddr) := by
  refine ⟨_, _, _, _, demo_clean (as := [kvPool]) rfl, demo_runs (p := demoPart 0) (f := demoIface) (x := planned) (as := [kvPool])
      (c := call 0x0401 (aref 0#32 0#32 ++ [1#32, 1#32, 32#32, 1#32, 20#32, 64#32, 2#32])) rfl rfl rfl rfl rfl rfl rfl,
    ?_, ?_, ?_, ?_, ?_, rfl, ?_, ?_, ?_, ?_, rfl, rfl, fun h hh => absurd hh (by rintro ⟨⟩)⟩ <;> decide +kernel

def genPart : Part := { demoPart 0 with gen := { (demoPart 0).gen with cfg := some demoGen } }
def ringIface : Iface := { demoIface with cring := some (21#32, 64) }

theorem witness_genAdmit : ∃ s k e, Runs s 0x0402 demoId k e ∧ 1 ≤ (k.a 0).count ∧ (k.a 0).count ≤ 256 ∧
    e.arrayOk (k.a 0) 64 = true ∧ (k.a 1).absent = false ∧ e.arrayOk (k.a 1) 4 = true ∧ (k.a 0).count ≤ (k.a 1).count ∧
    e.part.gen.cfg.isSome = true ∧ e.iface.cring.isSome = true :=
  ⟨_, _, _, demo_runs (p := genPart) (f := ringIface) (x := demoCtx) (as := [buf 7#32 8#8 64 [], buf 8#32 8#8 4 []])
    (c := call 0x0402 (aref 7#32 1#32 ++ aref 8#32 1#32)) rfl rfl rfl rfl rfl rfl rfl, by decide +kernel⟩

/-- A partition with a configuration and a bloom; a context whose plan streams one weight from DDR. -/
def demoArea : Area :=
  { role := .bloom, epoch := 1#32, mems := [], counts := [], shadows := [], uncorrs := [], corrs := [] }
def bloomPart : Part := { genPart with epo := { genPart.epo with areas := [demoArea] } }
def streamCtx : Ctx := { demoCtx with plan := some (demoLayers [9#32]) }
def ddrWeight : Alloc := { buf 9#32 0#8 64 [] with home := .ddr, flags := 0xC#16 }
def stepCmd : Cmd := call 0x0403 [1#32, 1#32, 1#32]

theorem witness_genStep_begins : ∃ s k e g t p i, s.clean ∧ Runs s 0x0403 demoId k e ∧ 1 ≤ k.n 0 ∧ k.n 0 ≤ 65536 ∧ 1 ≤ k.n 1 ∧
    k.n 1 ≤ 16384 ∧ 1 ≤ k.n 2 ∧ k.n 2 ≤ 8192 ∧ e.serving = true ∧ e.part.gen.cfg = some g ∧ tempEmptied e = false ∧ e.planOk = true ∧
    e.hadBloom = true ∧ k.begun = false ∧ s.stepBefore e.part.num k = false ∧ s.cancelWaits e.part.num = false ∧
    t = s.stepStart k e.part.num ∧ t.part? e.part.num = some p ∧ k.nextEntry = some i := by
  refine ⟨_, _, _, demoGen, _, bloomPart, 0, demo_clean (as := [ddrWeight]) rfl, demo_runs (p := bloomPart) (f := demoIface)
    (x := streamCtx) (as := [ddrWeight]) (c := stepCmd) rfl rfl rfl rfl rfl rfl rfl, ?_, ?_, ?_, ?_, ?_, ?_, ?_, ?_, ?_, ?_, ?_, rfl, ?_, ?_,
    rfl, ?_, ?_⟩ <;> decide +kernel

def emptyStep : StepOut := { epoch := 1#32, pinned := false, late := false, outs := [], skips := [] }

/-- A step that has begun with nothing to do, in a context whose plan streams nothing. -/
def endState : State := demo bloomPart demoIface planned [kvPool] { stepCmd with batch := some emptyStep, begun := true }

theorem witness_genStep_ends : ∃ s k e g b t p a o, s.clean ∧ Runs s 0x0403 demoId k e ∧ 1 ≤ k.n 0 ∧ k.n 0 ≤ 65536 ∧ 1 ≤ k.n 1 ∧
    k.n 1 ≤ 16384 ∧ 1 ≤ k.n 2 ∧ k.n 2 ≤ 8192 ∧ e.serving = true ∧ e.part.gen.cfg = some g ∧ tempEmptied e = false ∧ e.planOk = true ∧
    e.hadBloom = true ∧ k.begun = true ∧ k.batch = some b ∧ k.nextEntry = none ∧
    t = (s.traverse k).1.runItems k e (planProducts e b.rows (if b.outs.any (·.drafted != 0) then g.draft else [])) ∧
    t.itemsDone demoId = true ∧ t.clean ∧ t.undrained demoId ∧ (e.det = true ∨ t.generatorHeld k e.part.tiles = false) ∧
    t.part? e.part.num = some p ∧ t.contents e.part.num g.pool = some a ∧
    o = stepOuts t e g p { b with late := !k.late.isEmpty } k.late a ∧ t.rowFits e 0#8 o.2.longest 4 = true := by
  refine ⟨endState, _, _, demoGen, emptyStep, _, bloomPart, kvPool, _, demo_clean (as := [kvPool]) rfl,
    demo_runs (p := bloomPart) (f := demoIface) (x := planned) (as := [kvPool])
      (c := { stepCmd with batch := some emptyStep, begun := true }) rfl rfl rfl rfl rfl rfl rfl, ?_, ?_, ?_, ?_, ?_, ?_, ?_, ?_, ?_, ?_, ?_,
    rfl, rfl, ?_, rfl, ?_, clean_of (by decide +kernel) (by decide +kernel), rfl, ?_, ?_, ?_, rfl, ?_⟩ <;> decide +kernel

/-- A live request of class M in slot 0. -/
def demoReq : Req :=
  { slot := 0, ident := 5#32, iface := 0, reqId := 5, classL := false, pin := false, prompt := 7#32, promptOff := 0, promptLen := 2,
    maxNew := 1, sampling := 0#64, stop0 := 0#32, stop1 := 0#32, ring := 0, draftMax := 0, tclass := 0, src := 0#32, kvDeadline := 1,
    admitUs := 0, blocks := [0], draftBlocks := [], len := 0, draftLen := 0, tokens := [], waiting := false, kvGot := [], start := none,
    firstEpoch := 0#32, lastEpoch := 0#32, prefillEpoch := 0#32, charged := 0, accepted := 0, k := 0, z := 0, f := 0, i := 0,
    lastStep := 0, lateSeen := false, pinDropped := false }
def reqPart : Part := { genPart with gen := { genPart.gen with reqs := [demoReq] } }

theorem witness_genCancel : ∃ s k e p r, s.clean ∧ Runs s 0x0404 demoId k e ∧ k.n 0 < 2 ^ 24 ∧ s.part? e.part.num = some p ∧
    p.reqOf demoId.iface (k.n 0) = some r ∧ s.inStep e.part.num r.slot = false :=
  ⟨_, _, _, reqPart, demoReq, demo_clean (as := []) rfl, demo_runs (p := reqPart) (f := demoIface) (x := demoCtx)
    (as := []) (c := call 0x0404 [5#32]) rfl rfl rfl rfl rfl rfl rfl, by decide +kernel⟩

/-- Without a threshold no output trips the guard (spec 03 R82). -/
theorem guardResult_off {c : Cmd} (h : c.guardLog2 = 0) (ws : List (Nat × Bool × TWrite)) : guardResult c ws = none := by
  have hf : (ws.find? fun (x : Nat × Bool × TWrite) => x.2.1 && guardTrips (guardOf c) x.2.2.stats) = none := by
    refine List.find?_eq_none.mpr fun x _ => ?_
    simp [guardOf, guardTrips, h]
  unfold guardResult
  rw [show (ws.find? fun (x : Nat × Bool × TWrite) => match x with | (_, g, w) => g && guardTrips (guardOf c) w.stats) = none from hf]

/-- A prefill of two tokens that has begun, for a module that no link reaches. -/
def fillPart : Part := { bloomPart with role := rolePrefill }
def fillCmd : Cmd := { call 0x0405 [5#32, 0x3FFF#32, 31#32, 7#32, 0#32, 2#32, 1#32] with begun := true }
def fillAllocs : List Alloc := [buf 7#32 8#8 8 []]
def fillRun : Cmd := fillCmd.seen fillPart planned fillAllocs
def fillEnv : Env := demoEnv fillPart demoIface planned fillAllocs
def fillState : State := demo fillPart demoIface planned fillAllocs fillCmd
def fillNext : State :=
  ((fillState.modCmd demoId fun c => { c with begun := true }).traverse fillRun).1.runItems fillRun fillEnv (planProducts fillEnv 1 [])
def fillSent : State :=
  shipBlocks fillNext fillRun ((List.range (kvBlocks (fillRun.n 5))).map (shippedBlock fillNext fillRun fillEnv demoGen demoArea.epoch
    (prefillCache fillRun fillEnv fillPart.epo demoGen demoArea.epoch).1)) fillEnv

theorem witness_genPrefill : ∃ s k e g t u p a m, s.clean ∧ Runs s 0x0405 demoId k e ∧ k.n 1 < 2 ^ 14 ∧ k.n 2 < 32 ∧
    promptOk e (k.w 3) (k.n 4) (k.n 5) = true ∧ 2 ≤ k.n 5 ∧ e.part.gen.cfg = some g ∧ kvFmtOk (k.n 6) g.dh = true ∧ e.planOk = true ∧
    e.first.epo.area? .bloom = some a ∧ (k.begun = true ∨ s.fundsOk demoId.iface = true) ∧ k.nextEntry = none ∧
    t = ((s.modCmd demoId fun c => { c with begun := true }).traverse k).1.runItems k e (planProducts e (k.n 5 - 1) []) ∧
    t.itemsDone demoId = true ∧ t.clean ∧ t.part? e.part.num = some p ∧ m = prefillCache k e p.epo g a.epoch ∧
    u = shipBlocks t k ((List.range (kvBlocks (k.n 5))).map (shippedBlock t k e g a.epoch m.1)) e ∧
    guardResult k (madeWrites m.2) = none ∧ (shipFinal u k e (finalMessage u k e a.epoch)).1.undrained demoId := by
  refine ⟨fillState, fillRun, fillEnv, demoGen, fillNext, fillSent, fillPart, demoArea, _, demo_clean (by rfl),
    demo_runs (p := fillPart) (f := demoIface) (x := planned) (as := fillAllocs) (c := fillCmd) rfl rfl rfl rfl rfl rfl rfl,
    ?_, ?_, ?_, ?_, ?_, ?_, ?_, ?_, .inl rfl, ?_, rfl, ?_, clean_of (by decide +kernel) (by decide +kernel), ?_, rfl, rfl,
    guardResult_off rfl _, by unfold State.undrained; decide +kernel⟩
  all_goals decide +kernel

theorem witness_genComplRing : ∃ s k e, s.clean ∧ Runs s 0x0406 demoId k e ∧ e.bufferOk (k.w 0) 0 (32 * k.n 1) = true ∧
    ringCountOk (k.n 1) = true :=
  ⟨_, _, _, demo_clean (as := [buf 7#32 8#8 2048 []]) rfl, one_runs (role := 0) (ws := [7#32, 64#32]) (as := [buf 7#32 8#8 2048 []]) rfl,
    by decide +kernel⟩

/-! Learning -/

/-- A learner's weight of 2 × 2 in BF16 with its transposed copy, its FP32 gradient; a pool; a plan of that entry. -/
def learnWeight : Alloc := transposedWeight
def learnGrad : Alloc := { buf 9#32 0#8 16 [] with rank := 2, dims := [2, 2], presence := some [0] }
def demoEntry : PlanEntry := { weight := 8#32, master := 0#32, grad := 9#32, states := [0#32, 0#32, 0#32, 0#32], ctrl := 0#32 }
def demoPlan : LearnPlan := { entries := [demoEntry], commands := [], pool := 10#32, mMax := 1, histories := [] }
def learner : Ctx := { demoCtx with learn := some demoPlan }

/-- The words of the plan entry in an array of handle 7. -/
def planArray : Alloc := buf 7#32 8#8 32 [8#8, 0#8, 0#8, 0#8, 0#8, 0#8, 0#8, 0#8, 9#8]

theorem witness_learnPlan : ∃ s k e ps, s.clean ∧ s.undrained demoId ∧ Runs s 0x0501 demoId k e ∧
    ps = (e.entries (k.a 0) 32).map planEntryOf ∧ 1 ≤ (k.a 0).count ∧ (k.a 0).count ≤ 4096 ∧ e.arrayOk (k.a 0) 32 = true ∧
    e.arrayOk (k.a 1) 1 = true ∧ (∃ a, e.alloc? (k.w 2) = some a ∧ a.home ≠ .ddr) ∧ 1 ≤ k.n 3 ∧ k.n 3 ≤ 64 ∧
    ps.all (planEntryOk e) = true ∧ entriesOk ps = true ∧ s.planBound k = false :=
  ⟨_, _, _, _, demo_clean (as := [planArray, learnWeight, learnGrad, buf 10#32 8#8 64 []]) rfl, by rfl,
    one_runs (role := roleLearn) (ws := aref 7#32 1#32 ++ aref 0#32 0#32 ++ [10#32, 64#32]) rfl, by rfl, by decide +kernel,
    by decide +kernel, by decide +kernel, by decide +kernel, ⟨buf 10#32 8#8 64 [], by decide +kernel⟩, by decide +kernel,
    by decide +kernel, by decide +kernel, by decide +kernel, by decide +kernel⟩

/-- What a step works on: its records, the plan's tensors and the pool. -/
def stepAllocs (pool : Nat) : List Alloc := [buf 7#32 8#8 32 [], learnWeight, learnGrad, buf 10#32 8#8 pool []]
def learnWords : List W32 :=
  [7#32, 0#32] ++ aref 0#32 0#32 ++ [1#32, 0x3F800000#32] ++ List.replicate 12 0#32 ++
  [0#32] ++ aref 0#32 0#32

def stepState (pool : Nat) : State := demo (demoPart roleLearn) demoIface learner (stepAllocs pool) (call 0x0502 learnWords)
def stepRun (pool : Nat) : Cmd := (call 0x0502 learnWords).seen (demoPart roleLearn) learner (stepAllocs pool)
def stepEnv (pool : Nat) : Env := demoEnv (demoPart roleLearn) demoIface learner (stepAllocs pool)

/-- Micro-batches without a position keep nothing. -/
theorem keptBytes_zero (ls : List Layer) : keptBytes ls 0 = 0 := by
  have h : ∀ (l : Layer) (f : Bool), l.kept f 0 = 0 := by
    intro l f
    unfold Layer.kept
    cases l.savedFmt <;> simp [shapeBytes]
  unfold keptBytes sumBy
  simp only [h, Nat.add_zero]
  induction withSegments true ls with
  | nil => rfl
  | cons _ _ ih => exact ih

/-- Micro-batches without a position have no work item. -/
theorem stepProducts_empty (c : CmdId) (ls : List Layer) (hs : List W32) : itemsOf c (stepProducts ls hs [0]) = [] := by
  have hk : ∀ a b, 0 < kPerPass a b := fun a b => by unfold kPerPass; split <;> decide
  have h : ∀ p ∈ stepProducts ls hs [0], ∀ n, p.items c n = [] := by
    intro p hp n
    obtain ⟨t, _, rfl⟩ := List.mem_map.mp hp
    have hz : ([0] : List Nat).getD t.batch 0 = 0 := by rcases t.batch with _ | k <;> simp
    refine Product.items_none ?_ ?_ c n <;> rcases t with ⟨_ | _ | _, _, _, _ | _⟩ <;>
      first | exact hk _ _ | exact .inl hz | exact .inr hz
  refine List.flatMap_eq_nil_iff.mpr fun x hx => h _ (List.of_mem_zip hx).2 _

theorem stepBatches : ((microBatches 1 (stepSeqs (stepRun 64) (stepEnv 64))).map fun qs => sumBy Seq.len qs) = [0] := by decide +kernel

theorem stepRan : ((stepState 64).traverse (stepRun 64)).1.runItems (stepRun 64) (stepEnv 64)
    (stepProducts (stepLayers (stepState 64) (stepEnv 64) ((stepEnv 64).plan!)) (((stepRun 64).plan.map (·.handles)).getD [])
      ((microBatches 1 (stepSeqs (stepRun 64) (stepEnv 64))).map fun qs => sumBy Seq.len qs)) = ranSole (stepState 64) :=
  State.runItems_none (s := stepState 64) rfl rfl (by rw [stepBatches]; exact stepProducts_empty _ _ _)

theorem witness_learnStep : ∃ s k e t w mbs, s.clean ∧ s.undrained demoId ∧ Runs s 0x0502 demoId k e ∧ fieldsOk (learnFields k e) ∧
    learnState k e = true ∧ e.planOk = true ∧ mbs = microBatches (k.n 3) (stepSeqs k e) ∧
    (∃ a, e.alloc? (e.plan!).pool = some a ∧ poolNeed (stepLayers s e (e.plan!)) (mbs.map fun qs => sumBy Seq.len qs) ≤ a.size) ∧
    k.nextEntry = none ∧
    t = (s.traverse k).1.runItems k e (stepProducts (stepLayers s e (e.plan!)) ((k.plan.map (·.handles)).getD [])
      (mbs.map fun qs => sumBy Seq.len qs)) ∧
    t.itemsDone demoId = true ∧ t.undrained demoId ∧ t.transposing e.part.num (e.plan!) = false ∧
    (e.det = true ∨ k.layersStoch = false ∨ t.generatorHeld k e.part.tiles = false) ∧
    w = stepWork t k e (e.plan!) mbs ∧ overridesKnown (stepOverrides k e) w.ordinals = true :=
  ⟨stepState 64, stepRun 64, stepEnv 64, ranSole (stepState 64), _, microBatches 1 (stepSeqs (stepRun 64) (stepEnv 64)),
    demo_clean (by rfl), by rfl, demo_runs rfl rfl rfl rfl rfl rfl rfl, show firstBad _ = none by decide +kernel, by decide +kernel,
    by decide +kernel, rfl, ⟨buf 10#32 8#8 64 [], by rfl, by rw [stepBatches]; simp [poolNeed, keptBytes_zero]⟩, by decide +kernel,
    stepRan.symm, by rfl, by rfl, by rfl, .inr (.inr (by rfl)),
    rfl, by decide +kernel⟩

/-- A collective of one voter that is its own owner, with nothing to send. -/
def soloColl (gather : Bool) : Coll :=
  { cmd := demoId, groupId := 1#32, q := 2#32, digest := 0#32, gather := gather, vote := false, v := 1, o := 1, rank := 0,
    group := [1#32, 0#32], entries := [0], blocks := [1], mine := [], raw := [], got := [], sent := [], err := 0#32, epoch := 3#32, buffer := 10#32 }
def collPart (gather : Bool) : Part := { demoPart roleLearn with colls := [soloColl gather] }

theorem witness_gradReduce : ∃ s k e x z y t, s.clean ∧ s.undrained demoId ∧ Runs s 0x0503 demoId k e ∧
    (s.part? e.part.num).bind (·.coll? demoId) = some x ∧ earlyMismatch s e.part.num x = false ∧
    ((collAbsorb s e.part.num x).part? e.part.num).bind (·.coll? demoId) = some z ∧
    t = collAdvance (collAbsorb s e.part.num x) e.part.num z ∧ (t.part? e.part.num).bind (·.coll? demoId) = some y ∧ t.undrained demoId ∧
    collSent t e.part.num y = true ∧ (y.rank < y.o → y.received y.rank = true ∧ y.errOf y.rank = 0#32) :=
  ⟨_, _, _, soloColl false, soloColl false, soloColl false, _, demo_clean (as := []) rfl, by rfl,
    demo_runs (p := collPart false) (f := demoIface) (x := learner) (as := []) (c := call 0x0503 []) rfl rfl rfl rfl rfl rfl rfl,
    by decide +kernel, by decide +kernel, by decide +kernel, rfl, by decide +kernel, by rfl, by decide +kernel⟩

theorem witness_ruleLoad : ∃ s k e, s.clean ∧ s.undrained demoId ∧ Runs s 0x0504 demoId k e ∧ k.n 0 < 8 ∧ 1 ≤ (k.a 1).count ∧
    (k.a 1).count ≤ 32 ∧ e.arrayOk (k.a 1) 4 = true ∧ (∀ w ∈ e.entries (k.a 1) 4, ruleOk (w.getD 0 0#32) = true) ∧
    s.ruleBound e.part.num (k.n 0) = false :=
  -- ADD W ← W + G (Tables 9-6 to 9-8): 1 in bits 31:27, 8 in 26:22, 8 in 21:17, 9 in 16:12.
  ⟨_, _, _, demo_clean (as := [buf 7#32 8#8 4 [0#8, 0x90#8, 0x10#8, 0x0A#8]]) rfl, by rfl,
    one_runs (role := roleLearn) (ws := [7#32, 0#32] ++ aref 7#32 1#32) rfl, by decide +kernel⟩

/-- A partition with that program in slot 0 and a committed reduction in buffer 10. -/
def rulePart : Part :=
  { demoPart roleLearn with
    rules := [(0, { a := .loaded [0x0A109000#32], b := .never, live := false })]
    reduced := [{ buffer := 10#32, q := 2#32, vote := false, rank := 0, o := 1, entries := [0], blocks := [1] }] }
def ruleAllocs : List Alloc := [buf 7#32 8#8 4 [], { buf 8#32 1#8 8 [] with rank := 2, dims := [2, 2] }, learnGrad, buf 10#32 8#8 264 []]
def ruleWords : List W32 := List.replicate 18 0#32 ++ [10#32, 2#32] ++ aref 7#32 1#32 ++ [3#32]

theorem witness_ruleApply : ∃ s k e prog r u, s.clean ∧ s.undrained demoId ∧ Runs s 0x0505 demoId k e ∧ bitAt k.flags 0 = false ∧
    fieldsOk (ruleFields k e) ∧ ruleState k e = true ∧ boundRule e (k.n 0) = some prog ∧ ruleReduced k e = some r ∧
    (e.det = true ∨ k.planStoch = false ∨ s.generatorHeld k e.part.tiles = false) ∧
    u = ruleEntries k e (fun _ _ => true) prog (ruleWork k e) (entryList k e 20).eraseDups (s.drawer e) ∧
    guardResult k (guardedRule e (entryList k e 20) u.1) = none := by
  refine ⟨_, _, _, [0x0A109000#32], _, _, demo_clean (as := ruleAllocs) rfl, by rfl, demo_runs (p := rulePart) (f := demoIface) (x := learner)
    (as := ruleAllocs) (c := call 0x0505 ruleWords) rfl rfl rfl rfl rfl rfl rfl, by decide +kernel, show firstBad _ = none by decide +kernel,
    by decide +kernel, by decide +kernel, by rfl, by decide +kernel, rfl, by rfl⟩

theorem witness_ruleApply_atomic : ∃ s k e prog r t, s.clean ∧ s.undrained demoId ∧ bitAt k.flags 0 = true ∧
    Runs s 0x0505 demoId k e ∧ fieldsOk (ruleFields k e) ∧ ruleState k e = true ∧ boundRule e (k.n 0) = some prog ∧
    ruleReduced k e = some r ∧ (e.det = true ∨ k.planStoch = false ∨ s.generatorHeld k e.part.tiles = false) ∧
    s.stepHolds e.part.num demoId (e.weights (entryList k e 20)) = false ∧ s.takeReserve k (some demoId) [] = some t :=
  ⟨_, _, _, [0x0A109000#32], _, _, demo_clean (as := ruleAllocs) rfl, by rfl, by decide +kernel, demo_runs (p := rulePart) (f := demoIface)
    (x := learner) (as := ruleAllocs) (c := { call 0x0505 ruleWords with flags := 1#32 }) rfl rfl rfl rfl rfl rfl rfl,
    show firstBad _ = none by decide +kernel, by decide +kernel, by decide +kernel, by rfl, by decide +kernel, by decide +kernel, by rfl⟩

theorem witness_paramGather : ∃ s k e x z y t r, s.clean ∧ s.undrained demoId ∧ Runs s 0x0506 demoId k e ∧
    (s.part? e.part.num).bind (·.coll? demoId) = some x ∧ earlyMismatch s e.part.num x = false ∧
    ((collAbsorb s e.part.num x).part? e.part.num).bind (·.coll? demoId) = some z ∧
    t = collAdvance (collAbsorb s e.part.num x) e.part.num z ∧ (t.part? e.part.num).bind (·.coll? demoId) = some y ∧ t.undrained demoId ∧
    collSent t e.part.num y = true ∧ (∀ o < y.o, y.received o = true) ∧ gatherResult? t e.part.num e y = some r :=
  ⟨_, _, _, soloColl true, soloColl true, soloColl true, _, _, demo_clean (as := []) rfl, by rfl,
    demo_runs (p := collPart true) (f := demoIface) (x := learner) (as := []) (c := call 0x0506 []) rfl rfl rfl rfl rfl rfl rfl,
    by decide +kernel, by decide +kernel, by decide +kernel, rfl, by decide +kernel, by rfl, by decide +kernel, by decide +kernel, by rfl⟩

theorem witness_maskSet : ∃ s k e w a, s.clean ∧ s.undrained demoId ∧ Runs s 0x0507 demoId k e ∧ e.plan.isSome = true ∧
    k.n 0 < (e.plan!).entries.length ∧ w = (e.weights [k.n 0]).filterMap e.alloc? ∧ w ≠ [] ∧
    fieldsOk (inputChecks e (k.off 1) (k.t 1)) ∧ (k.t 1).fmt = int8Field ∧
    e.bufferOk (k.t 1).handle (k.t 1).off (((w.map Alloc.paramBlocks).headD 0 + 7) / 8) = true ∧
    ((w.map Alloc.paramBlocks).headD 0 + 7) / 8 ≤ e.len (k.t 1) ∧ e.alloc? (k.t 1).handle = some a :=
  ⟨_, _, _, _, buf 7#32 8#8 1 [1#8], demo_clean (as := [buf 7#32 8#8 1 [1#8], learnWeight]) rfl, by rfl,
    demo_runs (p := demoPart roleLearn) (f := demoIface) (x := learner) (as := [buf 7#32 8#8 1 [1#8], learnWeight])
      (c := call 0x0507 ([0#32, 0#32] ++ tref 7#32 8#32)) rfl rfl rfl rfl rfl rfl rfl,
    by decide +kernel, by decide +kernel, rfl, by decide +kernel, show firstBad _ = none by decide +kernel, by decide +kernel,
    by decide +kernel, by decide +kernel, by decide +kernel⟩

/-! Epochs -/

/-- A byte buffer that holds words. -/
def wordsBuf (h : W32) (ws : List W32) : Alloc := buf h 8#8 (4 * ws.length) (wordsBytes ws)

/-- A map entry of one FP32 element (spec 10 Table 10-2), and a source in partition 0 of module 0 (Table 10-3). -/
def mapWords (h : W32) : List W32 := [1#32, 0#32, 1#32, 0#32, 1#32, 0x00040000#32, h, 0x3F800000#32]

theorem witness_epoMap : ∃ s k e ms, s.clean ∧ s.epochIssuer e = true ∧ Runs s 0x0601 demoId k e ∧
    ms = (e.entries (k.a 0) 32).map mapEntryOf ∧ 1 ≤ (k.a 0).count ∧ (k.a 0).count ≤ 4096 ∧ e.arrayOk (k.a 0) 32 = true ∧
    (∀ w ∈ e.entries (k.a 0) 32, mapEntryOk (e.part.role == roleLearn) w = true) ∧ pairwiseApart ms = true ∧
    s.mapBusy e.part demoId = false ∧ (e.part.role = roleLearn → ∀ m ∈ ms, s.learnEntryOk e.part.num m = true) :=
  ⟨_, _, _, _, demo_clean (as := [wordsBuf 7#32 (mapWords 0#32)]) rfl, by rfl, one_runs (role := 0) (ws := aref 7#32 1#32) rfl, rfl,
    by decide +kernel⟩

/-- A learner maps the weight of its plan: 2 × 2, BF16. -/
theorem witness_epoMap_learn : ∃ s k e ms, s.clean ∧ s.epochIssuer e = true ∧ Runs s 0x0601 demoId k e ∧
    ms = (e.entries (k.a 0) 32).map mapEntryOf ∧ 1 ≤ (k.a 0).count ∧ (k.a 0).count ≤ 4096 ∧ e.arrayOk (k.a 0) 32 = true ∧
    (∀ w ∈ e.entries (k.a 0) 32, mapEntryOk (e.part.role == roleLearn) w = true) ∧ pairwiseApart ms = true ∧
    s.mapBusy e.part demoId = false ∧ (e.part.role = roleLearn → ∀ m ∈ ms, s.learnEntryOk e.part.num m = true) :=
  ⟨_, _, _, _, demo_clean (as := [wordsBuf 7#32 [1#32, 0#32, 2#32, 0#32, 2#32, 0x00040001#32, 8#32, 0x3F800000#32], learnWeight]) rfl,
    by rfl, demo_runs (p := demoPart roleLearn) (f := demoIface) (x := learner) (c := call 0x0601 (aref 7#32 1#32)) rfl rfl rfl rfl rfl rfl
      rfl, rfl, by decide +kernel⟩

theorem witness_epoGrant : ∃ s k e, s.clean ∧ s.epochIssuer e = true ∧ Runs s 0x0602 demoId k e ∧ (k.a 0).count ≤ 64 ∧
    e.arrayOk (k.a 0) 8 = true ∧ (∀ g ∈ e.entries (k.a 0) 8, grantOk g = true) :=
  ⟨_, _, _, demo_clean (as := [wordsBuf 7#32 [0x3FFF0000#32, 0xFF#32]]) rfl, by rfl, one_runs (role := 0) (ws := aref 7#32 1#32) rfl,
    by decide +kernel⟩

def loadAllocs : List Alloc := [wordsBuf 7#32 (List.replicate 16 0#32), buf 8#32 8#8 16 []]

theorem witness_budLoad : ∃ s k e p c t, s.clean ∧ s.epochIssuer e = true ∧ Runs s 0x0603 demoId k e ∧ e.part.role ≠ roleLearn ∧
    k.stage = 0 ∧ fieldsOk (loadFields k e) ∧ (∀ w ∈ e.entries (k.a 3) 64, sourceOk w = true) ∧ s.part? e.part.num = some p ∧
    p.bloomEpoch ≠ some (k.w 0) ∧ (∀ d ∈ loadSources k e, d.storage = true → s.portFitted d.port = true) ∧
    c = { k with stage := 1 } ∧ t = s.modCmd demoId (fun c => { c with stage := 1 }) ∧
    p.epo.load = none ∧ t.loadBefore e.part.num c = false ∧ p.role ≠ roleLearn ∧ p.epo.bud ≠ .pending ∧
    (p.epo.bud = .ready → p.epo.budEpoch ≠ k.w 0) :=
  ⟨_, _, _, demoPart 0, _, _, demo_clean (as := loadAllocs) rfl, by rfl,
    one_runs (role := 0) (ws := [1#32, 65535#32, 1#32, 0#32] ++ aref 7#32 1#32 ++ [8#32]) rfl, by decide, by rfl,
    show firstBad _ = none by decide +kernel, by decide +kernel, by decide +kernel, by decide +kernel, by decide +kernel, rfl, rfl,
    by decide +kernel⟩

def budPart (b : BudSt) : Part := { demoPart 0 with epo := { (demoPart 0).epo with bud := b, budEpoch := 4#32 } }

theorem witness_budPublish : ∃ s k e p, s.clean ∧ s.epochIssuer e = true ∧ Runs s 0x0604 demoId k e ∧ s.part? e.part.num = some p ∧
    p.epo.bud = .ready ∧ p.epo.budEpoch = k.w 0 :=
  ⟨_, _, _, budPart .ready, demo_clean (as := []) rfl, by rfl, demo_runs (p := budPart .ready) (f := demoIface) (x := demoCtx)
    (c := call 0x0604 [4#32]) rfl rfl rfl rfl rfl rfl rfl, by decide +kernel⟩

theorem witness_budDiscard : ∃ s k e p, s.clean ∧ s.epochIssuer e = true ∧ Runs s 0x0605 demoId k e ∧ s.part? e.part.num = some p ∧
    p.epo.bud = .partial_ :=
  ⟨_, _, _, budPart .partial_, demo_clean (as := []) rfl, by rfl, demo_runs (p := budPart .partial_) (f := demoIface) (x := demoCtx)
    (c := call 0x0605 []) rfl rfl rfl rfl rfl rfl rfl, by decide +kernel⟩

/-! Experience -/

/-- The smallest trajectory ring: 16 pages of 4 KiB in HBM (spec 08 R210). -/
def ringAlloc : Alloc := buf 7#32 8#8 65536 []
def demoTraj : Traj :=
  { request := 9#32, iface := 0, tclass := 0, closed := true, truncated := false, scanned := false, holder := none, claim := none,
    pages := [0], recs := [] }
def scannedTraj : Traj := { demoTraj with scanned := true }
def demoRing : Ring :=
  { number := 15, handle := 7#32, pages := 16, grants := [0#32], classes := [], trajs := [demoTraj], queue := [scannedTraj] }
def expPart (role : Nat) : Part := { demoPart role with rings := [demoRing] }

theorem witness_expRingCreate : ∃ s k e a gs, s.clean ∧ s.undrained demoId ∧ Runs s 0x0701 demoId k e ∧ e.alloc? (k.w 0) = some a ∧
    ringAllocOk a = true ∧ (k.a 1).count ≤ 8 ∧ e.arrayOk (k.a 1) 4 = true ∧ e.part.freeRing.isSome = true ∧
    gs = (e.entries (k.a 1) 4).map (fun w => w.getD 0 0#32) ∧ (∀ g ∈ gs, g &&& 0xFFE0C000#32 = 0#32) :=
  ⟨_, _, _, ringAlloc, [0x001F3FFF#32], demo_clean (as := [ringAlloc, wordsBuf 8#32 [0x001F3FFF#32]]) rfl, by rfl,
    one_runs (role := 0) (ws := [7#32, 0#32] ++ aref 8#32 1#32) rfl, by decide +kernel, by decide +kernel, by decide +kernel,
    by decide +kernel, by decide +kernel, by decide +kernel, fun g hg => by obtain rfl := List.mem_singleton.mp hg; decide⟩

theorem witness_expClassSet : ∃ s k e, s.clean ∧ s.undrained demoId ∧ Runs s 0x0702 demoId k e ∧ k.n 0 < 16 ∧ k.n 1 < 256 ∧
    unitOk (k.w 2) = true ∧ unitOk (k.w 3) = true ∧ (e.part.ring? (k.n 0)).isSome = true :=
  ⟨_, _, _, demo_clean (as := []) rfl, by rfl, demo_runs (p := expPart 0) (f := demoIface) (x := demoCtx)
    (c := call 0x0702 [15#32, 255#32, 0x3F800000#32, 0#32]) rfl rfl rfl rfl rfl rfl rfl, by decide +kernel⟩

theorem witness_expScore : ∃ s k e r x t, s.clean ∧ s.undrained demoId ∧ Runs s 0x0703 demoId k e ∧ s.fit.scan = true ∧
    fieldsOk (scoreFields k e) ∧ e.part.ring? (k.n 0) = some r ∧ k.n 1 / 2 ^ 24 = demoId.iface ∧ r.unscanned (k.w 1) = some x ∧
    (x.holder = some demoId ∨ x.holder = none ∧ s.scoredBefore k = false) ∧
    t = (holdTraj s e.part.num (k.n 0) (k.w 1) demoId).joinScans ∧ x.closed = true ∧ t.inLane demoId = true ∧
    tensorsCover k e x.recs.length = true := by
  refine ⟨_, _, _, demoRing, demoTraj, _, demo_clean (as := []) rfl, by rfl, demo_runs (p := expPart 0) (f := demoIface) (x := demoCtx)
    (c := call 0x0703 ([15#32, 9#32, 1#32, 0#32] ++ noTref ++ [0#32, 0#32] ++ noTref ++ [0#32])) rfl rfl rfl rfl rfl rfl rfl,
    ?_, show firstBad _ = none by decide +kernel, ?_, ?_, ?_, ?_, rfl, ?_, ?_, ?_⟩ <;> decide +kernel

def gatherCmd (stage : Nat) : Cmd := { call 0x0704 [0#32, 0#32, 15#32, 1#32, 8#32] with stage := stage }

theorem witness_expGather : ∀ stage ∈ [1, 2, 3], ∃ s k e p r, s.clean ∧ s.undrained demoId ∧ Runs s 0x0704 demoId k e ∧ k.n 0 < 2 ^ 14 ∧
    k.n 1 < 32 ∧ k.n 2 < 16 ∧ 1 ≤ k.n 3 ∧ e.bufferOk (k.w 4) 0 0 = true ∧ k.n 0 = s.net.moduleId ∧ s.part? (k.n 1) = some p ∧
    p.ring? (k.n 2) = some r ∧ r.grantsTo s.net.moduleId e.part.num = true ∧ k.stage = stage := by
  intro stage h
  refine ⟨_, _, _, expPart roleLearn, demoRing, demo_clean (as := [buf 8#32 8#8 32 []]) rfl, by rfl,
    demo_runs (p := expPart roleLearn) (f := demoIface) (x := demoCtx) (c := gatherCmd stage) rfl rfl rfl rfl rfl rfl rfl, ?_⟩
  simp only [List.mem_cons, List.not_mem_nil, or_false] at h
  obtain rfl | rfl | rfl := h <;> decide +kernel

theorem witness_expRingDestroy : ∃ s k e r, s.clean ∧ s.undrained demoId ∧ Runs s 0x0705 demoId k e ∧ k.n 0 < 16 ∧
    e.part.ring? (k.n 0) = some r :=
  ⟨_, _, _, demoRing, demo_clean (as := []) rfl, by rfl, demo_runs (p := expPart 0) (f := demoIface) (x := demoCtx)
    (c := call 0x0705 [15#32]) rfl rfl rfl rfl rfl rfl rfl, by decide +kernel⟩

/-! Checkpoints -/

/-- A storage region of 64 bytes on port 0, and a set of two (spec 10 Table 10-3; 13 R335). -/
def regionWords : List W32 := 1#32 :: List.replicate 9 0#32 ++ 64#32 :: List.replicate 5 0#32
def ckpAllocs : List Alloc := [wordsBuf 7#32 (regionWords ++ regionWords)]
def configWords : List W32 :=
  aref 0#32 0#32 ++ aref 0#32 0#32 ++ [2#32, 0#32] ++ aref 7#32 2#32 ++ aref 7#32 2#32 ++ aref 0#32 0#32 ++ aref 0#32 0#32 ++
    [1#32, 1#32, 0#32, 0#32, 511#32]

theorem witness_ckpConfig_begins : ∃ s k e q, s.clean ∧ s.undrained demoId ∧ Runs s 0x0901 demoId k e ∧ q = ckpParams k e ∧
    k.stage = 0 ∧ fieldsOk (ckpFields k e) ∧ e.serving = true ∧ planOk e (e.entries (k.a 0) 32) = true ∧
    s.ctxsOk e.part.num q.ctxs = true ∧ (∀ x ∈ q.sets, ∀ d ∈ x.2 :: x.1, d.storage = true → s.portFitted d.port = true) ∧
    regionsOk k e q = true ∧ (∀ x ∈ q.sets, setFits x.1 q.shards = true) :=
  ⟨_, _, _, _, demo_clean (as := ckpAllocs) rfl, by rfl, one_runs (role := 0) (ws := configWords) rfl, rfl, by rfl,
    show firstBad _ = none by decide +kernel, by decide +kernel⟩

theorem witness_ckpConfig_ends : ∃ s k e q, s.clean ∧ s.undrained demoId ∧ Runs s 0x0901 demoId k e ∧ q = ckpParams k e ∧
    k.stage ≠ 0 ∧ k.answered (configWants q) = true ∧ (∀ w ∈ configWants q, w.tag ∉ k.failedReads) :=
  ⟨_, _, _, _, demo_clean (as := ckpAllocs) rfl, by rfl, demo_runs (p := demoPart 0) (f := demoIface) (x := demoCtx)
    (c := { call 0x0901 configWords with stage := 1, reads := [(0, List.replicate 64 0#8), (1, List.replicate 64 0#8)] })
      rfl rfl rfl rfl rfl rfl rfl, rfl, by decide +kernel⟩

theorem witness_ckpStep : ∃ s k e, s.clean ∧ s.undrained demoId ∧ Runs s 0x0902 demoId k e ∧ k.n 0 < 2 ∧
    (k.n 0 = 1 ∨ (1 ≤ k.d 1 ∧ k.d 1 < 2 ^ 32)) ∧ e.serving = true :=
  ⟨_, _, _, demo_clean (as := []) rfl, by rfl, one_runs (role := 0) (ws := [0#32, 0#32, 0xFFFFFFFF#32, 0#32]) rfl, by decide +kernel⟩

/-- One location whose manifest lists no shard, and nothing to restore. -/
def manifestHead : List Byte := wordsBytes (manifestMagic :: List.replicate 15 0#32)
def restoreCmd : Cmd :=
  { call 0x0903 (aref 7#32 1#32 ++ [0#32, 0#32, 0#32, 0#32] ++ aref 0#32 0#32 ++ aref 0#32 0#32 ++ [8#32]) with
    stage := 3, reads := [(0, manifestHead), (1024, [])] }

theorem witness_ckpRestore : ∃ s k e us m, s.clean ∧ s.undrained demoId ∧ Runs s 0x0903 demoId k e ∧ k.stage = 3 ∧
    k.answered (headWants (restoreLocs k e)) = true ∧ k.answered (listWants k (restoreLocs k e)) = true ∧
    us = usedManifests (k.n 1 = 1) (BitVec.ofNat 64 (k.d 2)) (manifests k (restoreLocs k e).length) ∧ us.head? = some m ∧
    (∀ x ∈ us, x.step = m.step) ∧
    missingReport us (restoreTargets k e) (restorePairs k e) (fun _ _ => false) s.fresh = [] ∧
    k.answered (shardWants (restoreLocs k e) (neededShards us (restoreTargets k e) (restorePairs k e))) = true ∧
    (∀ x ∈ neededShards us (restoreTargets k e) (restorePairs k e), (shardRead k x.1 x.2.1 x.2.2).isSome = true) :=
  ⟨_, _, _, _, { loc := 0, source := 0#32, step := 0#64, seq := 0#64, shards := [] }, demo_clean (as := [wordsBuf 7#32 regionWords]) rfl,
    by rfl, demo_runs (p := demoPart 0) (f := demoIface) (x := demoCtx) (c := restoreCmd) rfl rfl rfl rfl rfl rfl rfl, by rfl,
    by decide +kernel, by decide +kernel, rfl, by decide +kernel, by decide +kernel, by decide +kernel, by decide +kernel,
    by decide +kernel⟩

theorem witness_ckpStatus : ∃ s k e, s.clean ∧ s.undrained demoId ∧ Runs s 0x0904 demoId k e ∧
    fieldsOk (bufferChecks e (k.off 0) (k.t 0) 80) :=
  ⟨_, _, _, demo_clean (as := [buf 7#32 8#8 80 []]) rfl, by rfl, one_runs (role := 0) (ws := tref 7#32 8#32) rfl,
    show firstBad _ = none by decide +kernel⟩

/-! ## Witnesses: the queue, the clock, packets -/

/-- A module in Ready with one partition, interface and context, and these commands. -/
def readyWith (p : Part) (f : Iface) (xs : List Ctx) (as : List Alloc) (cs : List Cmd) : State :=
  { State.reset with phase := .running, parts := [p], ifaces := [f], ctxs := xs, allocs := as, cmds := cs }
def ready0 : State := readyWith (demoPart 0) demoIface [demoCtx] [] []

theorem witness_idle : ∃ s : State, s.pending = [] ∧ s.clockRuns = true ∧ s.clk.localUs < 2 ^ 64 ∧ (∀ c ∈ s.cmds, c.timeout = 0) :=
  ⟨one 0 0x0101 [] [], rfl, rfl, by decide, by decide +kernel⟩

theorem witness_stepRunsTheFront : ∃ s : State, s.pending = [] := ⟨ready0, rfl⟩

def doorbellUp (i : Nat) (f : Iface) (s : State) : Prop :=
  s.windowUp = true ∧ s.iface? i = some f ∧ s.partFenced f.part = false

/-- A ring of 256 units takes a doorbell 256 ahead of its head, and not one of 257. -/
theorem witness_doorbell : ∃ s f q, doorbellUp 0 f s ∧ f.queue? 0 = some q ∧ q.present = true ∧
    ((256#32 : W32) - q.head).toNat ≤ 2 ^ q.log2 ∧ ((256#32 : W32) - q.tail).toNat ≤ 2 ^ q.log2 :=
  ⟨ready0, demoIface, Queue.new 0 8 0, ⟨rfl, by rfl, by rfl⟩, by decide +kernel⟩
theorem witness_doorbell_far : ∃ s f q, doorbellUp 0 f s ∧ f.queue? 0 = some q ∧
    (q.present = false ∨ 2 ^ q.log2 < ((257#32 : W32) - q.head).toNat ∨ 2 ^ q.log2 < ((257#32 : W32) - q.tail).toNat) :=
  ⟨ready0, demoIface, Queue.new 0 8 0, ⟨rfl, by rfl, by rfl⟩, by decide +kernel⟩
theorem witness_doorbell_none : ∃ s f, doorbellUp 0 f s ∧ f.queue? 1 = none :=
  ⟨ready0, demoIface, ⟨rfl, by rfl, by rfl⟩, by decide +kernel⟩

/-- A queue with a doorbell over one unit and a reply ring of 64 entries on queue pair 0 of port 0. -/
def fetchQueue : Queue := { Queue.new 0 8 0 with tail := 1#32, bells := [(1#32, 0)], rrCfg := 0x30000000#32 }
def fetchIface (bs : List Byte) : Iface :=
  { demoIface with queues := [(0, fetchQueue)], qarea := Mem.putBytes [] zeroByte 0 bs }
def fetchState (bs : List Byte) (qps : List Qp) : State :=
  (readyWith (demoPart 0) (fetchIface bs) [demoCtx] [] []).modNet fun n => { n with qps := qps }

def fetchReady (s : State) (f : Iface) (p : Part) (q : Queue) : Prop :=
  s.awake = true ∧ s.iface? 0 = some f ∧ s.part? f.part = some p ∧ f.queue? 0 = some q ∧ p.fenced = false ∧ p.dying = false ∧
    s.fetchable f 0 q = true

theorem fetchReady_demo (bs : List Byte) (qps : List Qp)
    (h : (fetchState bs qps).fetchable (fetchIface bs) 0 fetchQueue = true) :
    fetchReady (fetchState bs qps) (fetchIface bs) (demoPart 0) fetchQueue := ⟨rfl, by rfl, by rfl, by rfl, rfl, rfl, h⟩

/-- CTL_NOP in one unit: opcode 0x0101, LENGTH 1 (spec 11 Table 11-1). -/
def nopUnit : List Byte := [0x01#8, 0x01#8, 0x01#8]

theorem witness_packetFetch : ∃ s f p q ws c, fetchReady s f p q ∧ ws = f.packetAt q 0 ∧ c = s.newCmd f 0 q ws ∧
    s.ringUsable f q = true ∧ lenOk (hdrLen ws) = true ∧ fieldsOk (headerChecks ws ++ s.fetchChecks f 0 c.bell q.next ws) :=
  ⟨_, _, _, _, _, _, fetchReady_demo nopUnit [Qp.new 0 0 0] (by decide +kernel), rfl, rfl, by decide +kernel, by decide +kernel,
    show firstBad _ = none by decide +kernel⟩

theorem witness_packetFetch_field : ∃ s f p q ws c, fetchReady s f p q ∧ ws = f.packetAt q 0 ∧ c = s.newCmd f 0 q ws ∧
    s.ringUsable f q = true ∧ lenOk (hdrLen ws) = true ∧
    firstBad (headerChecks ws ++ s.fetchChecks f 0 c.bell q.next ws) = some 4 :=
  ⟨_, _, _, _, _, _, fetchReady_demo (nopUnit ++ [0#8, 1#8]) [Qp.new 0 0 0] (by decide +kernel), rfl, rfl, by decide +kernel,
    by decide +kernel, by decide +kernel⟩

theorem witness_packetFetch_length : ∃ s f p q ws, fetchReady s f p q ∧ ws = f.packetAt q 0 ∧ s.ringUsable f q = true ∧
    lenOk (hdrLen ws) = false :=
  ⟨_, _, _, _, _, fetchReady_demo [] [Qp.new 0 0 0] (by decide +kernel), rfl, by decide +kernel, by decide +kernel⟩

theorem witness_packetFetch_ring : ∃ s f p q, fetchReady s f p q ∧ s.ringUsable f q = false :=
  ⟨_, _, _, _, fetchReady_demo nopUnit [] (by decide +kernel), by decide +kernel⟩

/-- A fetched CTL_NOP. -/
def fetchedNop : Cmd := { call 0x0101 [] with phase := .fetched, attempts := 0, timeout := 5 }

theorem witness_dispatch : ∃ s c f x p v, State.awake s = true ∧ s.cmd? demoId = some c ∧ s.iface? demoId.iface = some f ∧
    s.ctx? c.ctx = some x ∧ s.part? f.part = some p ∧ p.fenced = false ∧ p.dying = false ∧ x.inTile = true ∧
    s.dispatchable c = true ∧ v = (s.viewOf p (s.bindCtx p c x) f.classL).keepEpochs c.first ∧ x.revoked = [] :=
  ⟨readyWith (demoPart 0) demoIface [demoCtx] [] [fetchedNop], fetchedNop, demoIface, demoCtx, demoPart 0, _, rfl, by rfl, by rfl, by rfl,
    by rfl, rfl, rfl, rfl, by decide +kernel, rfl, rfl⟩

theorem witness_dispatch_revoked : ∃ s c f x p m r, State.awake s = true ∧ s.cmd? demoId = some c ∧ s.iface? demoId.iface = some f ∧
    s.ctx? c.ctx = some x ∧ s.part? f.part = some p ∧ p.fenced = false ∧ p.dying = false ∧ x.inTile = true ∧
    s.dispatchable c = true ∧ x.revoked = m :: r :=
  ⟨readyWith (demoPart 0) demoIface [{ demoCtx with revoked := [4095] }] [] [fetchedNop], fetchedNop, demoIface,
    { demoCtx with revoked := [4095] }, demoPart 0, 4095, [], rfl, by rfl, by rfl, by rfl, by rfl, rfl, rfl, rfl, by decide +kernel, rfl⟩

/-- TIMEOUT of 5 µs: at 5 µs it has expired, at 4 µs it has not. -/
theorem witness_timeout : ∃ s c, State.live s = true ∧ s.pwr.state.toNat ≤ 2 ∧ s.cmd? demoId = some c ∧
    (c.phase = .fetched ∨ c.phase = .dispatched) ∧ c.timeout ≠ 0 ∧ c.fetchUs + c.timeout ≤ s.clk.localUs ∧ s.granted c = false :=
  ⟨(readyWith (demoPart 0) demoIface [demoCtx] [] [fetchedNop]).atTime 5, fetchedNop, rfl, by decide, by rfl, .inl rfl, by decide, by decide,
    by decide +kernel⟩
theorem witness_timeout_before : ∃ s c, State.live s = true ∧ s.pwr.state.toNat ≤ 2 ∧ s.cmd? demoId = some c ∧
    (c.phase = .fetched ∨ c.phase = .dispatched) ∧ (c.timeout = 0 ∨ s.clk.localUs < c.fetchUs + c.timeout) :=
  ⟨(readyWith (demoPart 0) demoIface [demoCtx] [] [fetchedNop]).atTime 4, fetchedNop, rfl, by decide, by rfl, .inl rfl, .inr (by decide)⟩

/-- An EVT_WAIT for a value that its event has reached. -/
def grantedWait : Cmd := { (call 0x0802 [0#32, 0#32]).seen (demoPart 0) demoCtx [] with timeout := 5 }
theorem witness_timeout_granted : ∃ s c, State.live s = true ∧ s.pwr.state.toNat ≤ 2 ∧ s.cmd? demoId = some c ∧
    (c.phase = .fetched ∨ c.phase = .dispatched) ∧ s.granted c = true :=
  ⟨(readyWith (demoPart 0) demoIface [demoCtx] [] [grantedWait]).atTime 5, grantedWait, rfl, by decide, by rfl, .inr rfl, by decide +kernel⟩

/-- A command that is ready with a result. -/
def readyCmd (op : Nat) (r : Result) : Cmd := (call op []).seen (demoPart 0) demoCtx [] |> fun c => { c with phase := .ready r }
def readyState (op : Nat) (r : Result) : State := readyWith (demoPart 0) demoIface [demoCtx] [] [readyCmd op r]

theorem witness_completion_fails : ∃ s c r, State.awake s = true ∧ s.nextCommit 0 = some (c, r) ∧ r.commits = false ∧ c.opcode ≠ 0x0405 :=
  ⟨readyState 0x0101 (Result.bare stTIMEOUT), readyCmd 0x0101 (Result.bare stTIMEOUT), Result.bare stTIMEOUT, rfl, by rfl, rfl, by decide⟩

theorem witness_completion : ∃ s c r t r', State.awake s = true ∧ s.nextCommit 0 = some (c, r) ∧ r.commits = true ∧
    commitAll s c r = (t, r') ∧ c.opcode ≠ 0x0405 ∧ (∀ q, r'.eff = .queDestroy q → r'.status ≠ stOK) :=
  ⟨readyState 0x0101 (Result.bare stOK), readyCmd 0x0101 (Result.bare stOK), Result.bare stOK, _, Result.bare stOK, rfl, by rfl, rfl,
    by rfl, by decide, fun q h => by simp [Result.bare] at h⟩

theorem witness_completion_queue : ∃ s c r t r' q, State.awake s = true ∧ s.nextCommit 0 = some (c, r) ∧ r.commits = true ∧
    commitAll s c r = (t, r') ∧ c.opcode ≠ 0x0405 ∧ r'.eff = .queDestroy q ∧ r'.status = stOK :=
  ⟨readyState 0x0103 (Result.ok (.queDestroy 1)), readyCmd 0x0103 (Result.ok (.queDestroy 1)), Result.ok (.queDestroy 1), _,
    Result.ok (.queDestroy 1), 1, rfl, by rfl, rfl, by rfl, by decide, rfl, rfl⟩

theorem witness_completion_prefill : ∃ s c r t r', State.awake s = true ∧ s.nextCommit 0 = some (c, r) ∧ r.commits = true ∧
    commitAll s c r = (t, r') ∧ c.opcode = 0x0405 ∧ (∀ q, r'.eff ≠ .queDestroy q) :=
  ⟨readyState 0x0405 (Result.bare stOK), readyCmd 0x0405 (Result.bare stOK), Result.bare stOK, _, Result.bare stOK, rfl, by rfl, rfl,
    by rfl, rfl, fun q h => by simp [Result.bare] at h⟩

/-- Three semaphore results, each ready to commit. -/
theorem witness_semaphores : ∃ s c x m u, State.awake s = true ∧ (s.part? (s.cmdPart c.id)).isSome = true ∧ s.ctx? c.ctx = some x ∧
    c.opcode = 0x0803 ∧ s.nextCommit 0 = some (c, Result.ok (.semInit m u)) ∧ s.semInUse (s.cmdPart c.id) m = false :=
  ⟨readyState 0x0803 (Result.ok (.semInit 4095 65535)), readyCmd 0x0803 (Result.ok (.semInit 4095 65535)), demoCtx, 4095, 65535, rfl,
    by rfl, by rfl, rfl, by rfl, by decide +kernel⟩
theorem witness_semaphores_acquire : ∃ s c x m u, State.awake s = true ∧ (s.part? (s.cmdPart c.id)).isSome = true ∧
    s.ctx? c.ctx = some x ∧ c.opcode = 0x0804 ∧ s.nextCommit 0 = some (c, Result.ok (.semAcquire m u)) ∧ x.semsFull m = false :=
  ⟨readyState 0x0804 (Result.ok (.semAcquire 0 1)), readyCmd 0x0804 (Result.ok (.semAcquire 0 1)), demoCtx, 0, 1, rfl,
    by rfl, by rfl, rfl, by rfl, by decide +kernel⟩
theorem witness_semaphores_release : ∃ s c x m u, State.awake s = true ∧ (s.part? (s.cmdPart c.id)).isSome = true ∧
    s.ctx? c.ctx = some x ∧ c.opcode = 0x0805 ∧ s.nextCommit 0 = some (c, Result.ok (.semRelease m u)) ∧ u ≤ x.held m :=
  ⟨readyWith (demoPart 0) demoIface [{ demoCtx with sems := [(3, 2)] }] [] [readyCmd 0x0805 (Result.ok (.semRelease 3 2))],
    readyCmd 0x0805 (Result.ok (.semRelease 3 2)), { demoCtx with sems := [(3, 2)] }, 3, 2, rfl, by rfl, by rfl, rfl, by rfl,
    by decide +kernel⟩

/-- A completion that writes nothing, beside an allocation. -/
theorem witness_commitKeeps : ∃ s c r a, State.awake s = true ∧ s.nextCommit 0 = some (c, r) ∧ c.opcode ≠ 0x0405 ∧ r.eff = .none ∧
    a ∈ s.allocs ∧ (a.part ≠ s.cmdPart c.id ∨ ∀ w ∈ (commitAll s c r).2.writes, w.handle ≠ a.handle) ∧
    (∀ v, a.tcopy = some v → ∀ b ∈ v.queued, v.jobs.any (·.1 == b) = true) :=
  ⟨readyWith (demoPart 0) demoIface [demoCtx] [buf 7#32 8#8 4 [1#8]] [readyCmd 0x0101 (Result.bare stOK)], readyCmd 0x0101 (Result.bare stOK),
    Result.bare stOK, buf 7#32 8#8 4 [1#8], rfl, by rfl, by decide, rfl, List.mem_singleton.mpr rfl, .inr (by decide +kernel),
    fun v h => by cases h⟩

/-! Reply rings -/

def rrQueue (wr head : W32) : Queue := { Queue.new 0 8 0 with rrCfg := 0x30000000#32, rrWr := wr, rrHead := head }
def rrState (q : Queue) : State := readyWith (demoPart 0) { demoIface with queues := [(0, q)] } [demoCtx] [] []

/-- RR_HEAD from RR_WR − 64 on is taken; RR_WR − 65 is not (spec 11 R304). -/
theorem witness_replyHead : ∃ s f q, State.windowUp s = true ∧ s.iface? 0 = some f ∧ f.queue? 0 = some q ∧ q.present = true ∧
    q.ringOk = true ∧ (q.rrWr - (0#32 : W32)).toNat ≤ 2 ^ q.ringLog2 :=
  ⟨rrState (rrQueue 64#32 0#32), _, rrQueue 64#32 0#32, rfl, by rfl, by decide +kernel⟩
theorem witness_replyHead_far : ∃ s f q, State.windowUp s = true ∧ s.iface? 0 = some f ∧ f.queue? 0 = some q ∧
    (q.present = false ∨ q.ringOk = false ∨ 2 ^ q.ringLog2 < (q.rrWr - (0xFFFFFFFF#32 : W32)).toNat) :=
  ⟨rrState (rrQueue 64#32 0#32), _, rrQueue 64#32 0#32, rfl, by rfl, by decide +kernel⟩
theorem witness_replyRing : ∃ s f q, State.windowUp s = true ∧ s.iface? 0 = some f ∧ f.queue? 0 = some q ∧ q.present = true ∧
    s.inflight 0 0 = 0 ∧ q.rrWr = q.rrHead ∧ ringSizeOk (field (0x80000000#32 : W32) 31 27) = true :=
  ⟨rrState (rrQueue 64#32 64#32), _, rrQueue 64#32 64#32, rfl, by rfl, by decide +kernel⟩
theorem witness_replyRing_size : ∃ s f q, State.windowUp s = true ∧ s.iface? 0 = some f ∧ f.queue? 0 = some q ∧
    (q.present = false ∨ s.inflight 0 0 ≠ 0 ∨ q.rrWr ≠ q.rrHead ∨ ringSizeOk (field (0x88000000#32 : W32) 31 27) = false) :=
  ⟨rrState (rrQueue 64#32 64#32), _, rrQueue 64#32 64#32, rfl, by rfl, by decide +kernel⟩

/-! Registers -/

theorem witness_cringRd : ∃ s f h n, State.windowUp s = true ∧ s.iface? 0 = some f ∧ f.cring = some (h, n) ∧
    (f.cringWr - (0#32 : W32)).toNat ≤ n :=
  ⟨readyWith (demoPart 0) { ringIface with cringWr := 64#32 } [demoCtx] [] [], { ringIface with cringWr := 64#32 }, 21#32, 64, rfl, by rfl,
    rfl, by decide⟩
theorem witness_cringRd_far : ∃ s f h n, State.windowUp s = true ∧ s.iface? 0 = some f ∧ f.cring = some (h, n) ∧
    n < (f.cringWr - (0xFFFFFFFF#32 : W32)).toNat :=
  ⟨readyWith (demoPart 0) { ringIface with cringWr := 64#32 } [demoCtx] [] [], { ringIface with cringWr := 64#32 }, 21#32, 64, rfl, by rfl,
    rfl, by decide⟩
theorem witness_cringRd_none : ∃ s f, State.windowUp s = true ∧ s.iface? 0 = some f ∧ f.cring = none := ⟨ready0, demoIface, rfl, by rfl, rfl⟩
theorem witness_ctxSel : ∃ s f x, State.windowUp s = true ∧ s.iface? 0 = some f ∧ s.ctx? (field (0#32 : W32) 11 0) = some x ∧ x.iface = 0 :=
  ⟨ready0, demoIface, demoCtx, rfl, by rfl, by rfl, rfl⟩
theorem witness_ctxSel_none : ∃ s f, State.windowUp s = true ∧ s.iface? 0 = some f ∧
    (s.ctx? (field (0xFFF#32 : W32) 11 0)).filter (·.iface == 0) = none :=
  ⟨ready0, demoIface, rfl, by rfl, by decide +kernel⟩
theorem witness_windowAccess : ∃ s f, State.windowUp s = true ∧ s.iface? 0 = some f ∧ windowWide 0x1A28 = false ∧ 0x1A28 % 4 = 0 ∧
    accessOk 0x1A29 4 = false ∧ accessOk 0x1E00 4 = false :=
  ⟨ready0, demoIface, rfl, by rfl, by decide +kernel⟩

/-! The scheduler -/

/-- A partition whose footprint leaves one resident slot (spec 12 R314), a context that waits, one that is resident. -/
def footPart : Part := { demoPart 0 with foot := 8192 }
def waiting : Ctx := { demoCtx with id := 1, st := .swapped }
def waitingCmd : Cmd := { fetchedNop with id := { iface := 0, queue := 1, ord := 0 }, ctx := 1 }
def resident (prio : Nat) : Ctx := { demoCtx with prio := prio }

theorem witness_switch_free : ∃ s p x, State.awake s = true ∧ s.part? 0 = some p ∧ s.entry p = some (.free x) :=
  ⟨readyWith footPart demoIface [waiting] [] [waitingCmd], footPart, waiting, rfl, by rfl, by decide +kernel⟩
theorem witness_switch_swap : ∃ s p x y, State.awake s = true ∧ s.part? 0 = some p ∧ s.entry p = some (.swap x y) :=
  ⟨readyWith footPart demoIface [waiting, resident 1] [] [waitingCmd], footPart, waiting, resident 1, rfl, by rfl, by decide +kernel⟩
/-- The resident context waits for an event. -/
theorem witness_switch_rotate : ∃ s p x y, State.awake s = true ∧ s.part? 0 = some p ∧ s.entry p = some (.rotate x y) :=
  ⟨readyWith footPart demoIface [waiting, resident 0] [] [call 0x0802 [0#32, 1#32], waitingCmd], footPart, waiting, resident 0, rfl,
    by rfl, by decide +kernel⟩
def switchPart : Part := { footPart with switch := some { incoming := some 1, outgoing := some 0, donate := false, start := 0 } }
theorem witness_switch_complete : ∃ (s : State) (p : Part) (w : Switch) (x y : Ctx), s.awake = true ∧ s.part? 0 = some p ∧
    p.switch = some w ∧ w.incoming = some x.id ∧ w.outgoing = some y.id :=
  ⟨readyWith switchPart demoIface [waiting, resident 0] [] [], switchPart, _, waiting, resident 0, rfl, by rfl, rfl, rfl, rfl⟩

/-- An acquire of the resident context waits for the unit that the swapped-out one holds. -/
def semHolder : Ctx := { waiting with sems := [(3, 1)] }
def acquireCmd : Cmd := call 0x0804 [3#32, 1#32]
theorem witness_donation : ∃ s p c h x, State.awake s = true ∧ s.part? 0 = some p ∧ p.foot ≠ 0 ∧ p.rotationFree = true ∧
    s.switchOwed p = false ∧ s.nextDonation p = some (c, h) ∧ s.ctx? h = some x :=
  ⟨readyWith footPart demoIface [semHolder, resident 0] [] [acquireCmd], footPart, acquireCmd, 1, semHolder, rfl, by rfl,
    by decide +kernel⟩
def donated (us : Nat) : Part := { footPart with donation := some { holder := 1, sem := 3, acquire := demoId, since := us } }
theorem witness_donation_over : ∃ s p d, State.awake s = true ∧ s.part? 0 = some p ∧ p.donation = some d ∧ p.switch = none ∧
    s.donationOver d = true :=
  ⟨readyWith (donated 0) demoIface [waiting, resident 0] [] [acquireCmd], donated 0, _, rfl, by rfl, rfl, by rfl, by decide +kernel⟩
theorem witness_donation_expiry : ∃ s p d, State.awake s = true ∧ s.part? 0 = some p ∧ p.donation = some d ∧ p.switch = none ∧
    s.donationOver d = false ∧ d.since + p.quantum ≤ s.clk.localUs :=
  ⟨(readyWith (donated 0) demoIface [semHolder, resident 0] [] [acquireCmd]).atTime 2000, donated 0, _, rfl, by rfl, rfl, by rfl,
    by decide +kernel, by decide +kernel⟩

/-! ## Witnesses: events of generation, epochs, memory and checkpoints -/

/-- A class L request whose prompt of two tokens waits for its one block from partition 1 of module 0. -/
def kvReq : Req := { demoReq with classL := true, waiting := true, src := 0x00010000#32 }
def kvBlock : KvBlock :=
  { request := 5#32, index := 0, positions := 1, fmt := 1#8, epoch := 3#32, srcModule := 0, srcPart := 1, data := [] }
def kvEnd : KvFinal :=
  { request := 5#32, srcModule := 0, srcPart := 1, fmt := 1#8, promptLen := 2, blocks := 1, epoch := 3#32 }
def kvPart (r : Req) : Part := { genPart with gen := { genPart.gen with reqs := [r] } }
def kvState (r : Req) : State := readyWith (kvPart r) ringIface [demoCtx] [] []

theorem witness_kvBlock : ∃ s p g r, s.part? 0 = some p ∧ p.gen.cfg = some g ∧ State.windowUp s = true ∧
    p.kvTarget kvBlock.request kvBlock.srcModule kvBlock.srcPart = some r ∧ kvFits g r kvBlock = true :=
  ⟨kvState kvReq, kvPart kvReq, demoGen, kvReq, by rfl, rfl, rfl, by decide +kernel⟩

theorem witness_kvFinal : ∃ s p g r, s.part? 0 = some p ∧ p.gen.cfg = some g ∧ State.windowUp s = true ∧
    p.gen.reqs.find? (·.ident == kvEnd.request) = some r ∧ r.waiting = true ∧ field r.src 13 0 = kvEnd.srcModule ∧
    field r.src 20 16 = kvEnd.srcPart ∧ kvEnd.fmt = g.kvFmt ∧ kvEnd.promptLen = r.promptLen ∧ kvEnd.blocks = kvBlocks r.promptLen ∧
    (∀ j < kvBlocks r.promptLen, r.kvGot.contains j = true) :=
  ⟨kvState { kvReq with kvGot := [0] }, kvPart { kvReq with kvGot := [0] }, demoGen, { kvReq with kvGot := [0] },
    by rfl, rfl, rfl, by decide +kernel⟩

theorem witness_kvDeadline : ∃ s p g r, s.part? 0 = some p ∧ p.gen.cfg = some g ∧ State.windowUp s = true ∧
    p.gen.reqs.find? (·.slot == 0) = some r ∧ r.waiting = true ∧ r.kvDeadline ≠ 0 ∧ r.admitUs + 1000 * r.kvDeadline ≤ s.clk.localUs :=
  ⟨(kvState kvReq).atTime 1000, kvPart kvReq, demoGen, kvReq, by rfl, rfl, rfl, by decide +kernel⟩

def heldPartDemo : Part :=
  { genPart with pinLimit := 1, epo := { genPart.epo with areas := [{ demoArea with role := .held }] } }

theorem witness_pinDrop : ∃ s p, s.part? 0 = some p ∧ p.gen.cfg.isSome = true ∧ State.windowUp s = true ∧ p.epo.hasArea .held = true ∧
    s.stepping 0 = false ∧ p.epo.heldAt + 1000 * p.pinLimit ≤ s.clk.localUs :=
  ⟨(readyWith heldPartDemo demoIface [demoCtx] [] []).atTime 1000, heldPartDemo, by rfl, rfl, rfl, by decide +kernel⟩

theorem witness_budgetRefill : ∃ s : State, s.live = true ∧ s.clk.refillMs < s.clk.localUs / 1000 :=
  ⟨ready0.atTime 1000, rfl, by decide⟩

def owedPart : Part := { genPart with gen := { genPart.gen with owed := [{ iface := 0, slot := 0, words := List.replicate 8 0#32 }] } }

/-- The ring of 64 entries has room for one more while 63 are unread. -/
theorem witness_entryWrite : ∃ s p f h k o, State.awake s = true ∧ s.part? 0 = some p ∧ p.gen.cfg.isSome = true ∧
    s.iface? 0 = some f ∧ f.part = 0 ∧ f.cring = some (h, k) ∧ p.gen.owed.find? (·.iface == 0) = some o ∧
    (f.cringWr - f.cringRd).toNat < k :=
  ⟨readyWith owedPart { ringIface with cringWr := 63#32 } [demoCtx] [] [], owedPart, { ringIface with cringWr := 63#32 }, 21#32, 64, _,
    rfl, by rfl, rfl, by rfl, rfl, rfl, by rfl, by decide⟩

/-! Loads -/

/-- A map entry of one FP32 element, its epoch handle, and a load of epoch 4 that asked a source for its row. -/
def oneEntry : MapEntry := mapEntryOf (mapWords 30#32)
def epochAlloc (n : Nat) : Alloc := { buf 30#32 0#8 4 [] with rank := 2, dims := [1, 1], part := n, role := .epoch 0 }
def areaOf (r : AreaRole) : Area :=
  { role := r, epoch := 4#32, mems := [[]], counts := [], shadows := [none], uncorrs := [[]], corrs := [[]] }
def sourceAt (type where_ : W32) : Source :=
  { type := type, where_ := where_, addr := 0#128, qpn := 0, rkey := 0#32, base := 0, length := 0 }
def demoLoad (d : Source) (at_ : Nat) : Load :=
  { cmd := demoId, epoch := 4#32, start := 0, deadline := 1000, extra := false, sources := [d], report := 8#32, skipped := [],
    asked := [{ entry := 0, row := 0, rows := 1, source := at_, at_ := 0 }], mems := [], counts := [], done := [] }
def loadPart (b : BudSt) (d : Source) (at_ : Nat) : Part :=
  { demoPart 0 with epo := { (demoPart 0).epo with
    map := [oneEntry], areas := [areaOf .bud], bud := b, budEpoch := 4#32, load := some (demoLoad d at_) } }
def servePart (n : Nat) (gs : List (W32 × W32)) : Part :=
  { demoPart 0 with num := n, epo := { (demoPart 0).epo with map := [oneEntry], areas := [areaOf .bloom], grants := gs } }
def loadState (b : BudSt) (d : Source) (at_ us : Nat) : State :=
  ({ readyWith (loadPart b d at_) demoIface [demoCtx] [epochAlloc 0, epochAlloc 1] [] with
     parts := [loadPart b d at_, servePart 1 [(0x3FFF0000#32, 0xFF#32)]] } : State).atTime us

theorem witness_budAcquire : ∃ s p l, State.awake s = true ∧ s.part? 0 = some p ∧ p.epo.bud = .waitArea ∧ p.epo.load = some l :=
  ⟨loadState .waitArea (sourceAt 0#32 0#32) 0 0, loadPart .waitArea (sourceAt 0#32 0#32) 0, _, rfl, by rfl, rfl, rfl⟩

/-- A load that began at time 0 with one millisecond. -/
def loadCmd : Cmd := { call 0x0603 [4#32, 1#32] with stage := 1 }
theorem witness_budDeadline : ∃ s p c, State.awake s = true ∧ s.part? 0 = some p ∧ s.windowUp = true ∧
    minBy (·.disp) ((s.loadsOf 0).filter s.loadExpired) = some c :=
  ⟨(readyWith (demoPart 0) demoIface [demoCtx] [] [loadCmd]).atTime 1000, demoPart 0, loadCmd, rfl, by rfl, rfl, by decide +kernel⟩
theorem witness_prefillSwitch : ∃ s p, State.awake s = true ∧ s.part? 0 = some p ∧ p.role = rolePrefill :=
  ⟨readyWith (demoPart 1) demoIface [demoCtx] [] [], demoPart 1, rfl, by rfl, rfl⟩

def demoPiece (a : PieceAnswer) : Piece := { epoch := 4#32, entry := 0, row := 0, rows := 1, answer := a }
def pieceReady (s : State) (p : Part) (l : Load) (a : Asked) (d : Source) (m : MapEntry) (b : Alloc) (x : Piece) : Prop :=
  s.awake = true ∧ s.part? 0 = some p ∧ p.epo.load = some l ∧ x.epoch = l.epoch ∧ (p.role = roleLearn ∨ p.epo.bud = .loading) ∧
    l.askedFor x = some a ∧ l.sources[a.source]? = some d ∧ p.epo.map[a.entry]? = some m ∧ s.dest? p a.entry = some b

theorem witness_piece_remote : ∃ s p l a d m b x t got, pieceReady s p l a d m b x ∧ d.storage = false ∧ d.module_ ≠ s.net.moduleId ∧
    remotePiece s p a x b = some (t, got) :=
  ⟨loadState .loading (sourceAt 0#32 1#32) 0 0, loadPart .loading (sourceAt 0#32 1#32) 0, _, _, _, _, _,
    demoPiece (.data [0#8, 0#8, 0x80#8, 0x3F#8]), _, some (0, 1),
    ⟨rfl, by rfl, rfl, rfl, .inr rfl, by rfl, by rfl, by rfl, by rfl⟩, by decide, by decide, by rfl⟩
theorem witness_piece_local : ∃ s p l a d m b x t got, pieceReady s p l a d m b x ∧ d.storage = false ∧ d.module_ = s.net.moduleId ∧
    localPiece s p l a d m b = some (t, got) :=
  ⟨loadState .loading (sourceAt 0#32 0x10000#32) 0 0, loadPart .loading (sourceAt 0#32 0x10000#32) 0, _, _, _, _, _,
    demoPiece (.data []), _, some (0, 1),
    ⟨rfl, by rfl, rfl, rfl, .inr rfl, by rfl, by rfl, by rfl, by rfl⟩, by decide, by decide, by rfl⟩

/-- The header of an object of one FP32 element (spec 13 Table 13-4). -/
def objectHeader : List W32 :=
  [headerMagic, 0#32, 0#32, 0#32, 0#32, 0#32, 0#32, 1#32, 0#32, 0#32, 1#32, 0#32, 1#32, 0x3F800000#32, 4#32, 0#32]
theorem witness_piece_object : ∃ s p l a d m b x t got, pieceReady s p l a d m b x ∧ d.storage = true ∧
    objectPiece s p a x m b = some (t, got) :=
  ⟨loadState .loading (sourceAt 1#32 0#32) 0 0, loadPart .loading (sourceAt 1#32 0#32) 0, _, _, _, _, _,
    demoPiece (.object objectHeader [0#8, 0#8, 0x80#8, 0x3F#8] []), _, some (0, 1),
    ⟨rfl, by rfl, rfl, rfl, .inr rfl, by rfl, by rfl, by rfl, by rfl⟩, by decide, by rfl⟩

theorem witness_pieceRetry : ∃ s p l a, State.awake s = true ∧ s.part? 0 = some p ∧ p.epo.load = some l ∧
    l.asked.find? (fun a => decide (l.sources.length ≤ a.source) && decide (a.at_ + 100 ≤ s.clk.localUs)) = some a :=
  ⟨loadState .loading (sourceAt 0#32 0#32) 1 100, loadPart .loading (sourceAt 0#32 0#32) 1, _, _, rfl, by rfl, rfl, by rfl⟩
theorem witness_pieceTimeout : ∃ s p l a, State.awake s = true ∧ s.part? 0 = some p ∧ p.epo.load = some l ∧
    l.asked.find? (fun a => decide (a.source < l.sources.length) && decide (a.at_ + 1000 ≤ s.clk.localUs)) = some a :=
  ⟨loadState .loading (sourceAt 0#32 0#32) 0 1000, loadPart .loading (sourceAt 0#32 0#32) 0, _, _, rfl, by rfl, rfl, by rfl⟩

def rowRequest : PieceReq :=
  { fromModule := 1, fromPart := 0, epoch := 4#32, tensorId := 1#32, rowLo := 0, rowCnt := 1, colLo := 0, colCnt := 1, fmt := 0#8,
    dscale := 0x3F800000#32 }
theorem witness_pieceRequest_refused : ∃ (s : State) (p : Part) (q : PieceReq), s.awake = true ∧ s.part? 0 = some p ∧ p.fenced = false ∧
    q.fromModule ≠ s.net.moduleId ∧ p.epo.lets q.fromModule q.fromPart = false :=
  ⟨readyWith (servePart 0 []) demoIface [demoCtx] [epochAlloc 0] [], servePart 0 [], rowRequest, rfl, by rfl, rfl, by decide, by rfl⟩
theorem witness_pieceRequest : ∃ s p q t lo k vals, State.awake s = true ∧ s.part? 0 = some p ∧ p.fenced = false ∧
    q.fromModule ≠ s.net.moduleId ∧ s.wake.findPiece p q = (t, .rows lo k vals) :=
  ⟨readyWith (servePart 0 [(0x3FFF0000#32, 0xFF#32)]) demoIface [demoCtx] [epochAlloc 0] [], servePart 0 [(0x3FFF0000#32, 0xFF#32)], rowRequest,
    _, 0, 1, _, rfl, by rfl, rfl, by decide, by rfl⟩

/-! Memory -/

/-- A learner's weight whose one block, of job 5, waits for the engine of die 0; a second weight waits behind it. -/
def queuedWeight (h : W32) (job : Nat) : Alloc :=
  { learnWeight with handle := h, tcopy := some { mem := [], tags := [], queued := [0], jobs := [(0, job)], inProgress := none } }
def engineState : State := readyWith (demoPart 2) demoIface [demoCtx] [queuedWeight 8#32 5, queuedWeight 9#32 6] []
theorem witness_transposeBlock : ∃ s p j, State.awake s = true ∧ s.part? 0 = some p ∧ s.engineTurn (p.engineOf 0) = some (0, j) ∧
    (s.transposes p (p.engineOf 0)).contains (j, 8#32, 0) = true := ⟨engineState, demoPart 2, 5, rfl, by rfl, by decide +kernel⟩
theorem witness_transposeBlock_waits : ∃ s p, State.awake s = true ∧ s.part? 0 = some p ∧
    ∀ j, s.engineTurn (p.engineOf 0) = some (0, j) → (s.transposes p (p.engineOf 0)).contains (j, 9#32, 0) = false := by
  refine ⟨engineState, demoPart 2, rfl, by rfl, fun j h => ?_⟩
  have ht : engineState.engineTurn ((demoPart 2).engineOf 0) = some (0, 5) := by decide +kernel
  obtain rfl : 5 = j := congrArg Prod.snd (Option.some.inj (ht.symm.trans h))
  decide +kernel

def planOf (slots : List (Nat × Bool)) (bad : List Nat) : LayerPlan := { demoLayers [9#32] with p := 1, slots := slots, bad := bad }
def planCtx (slots : List (Nat × Bool)) (bad : List Nat) : Ctx := { demoCtx with plan := some (planOf slots bad) }
theorem witness_staging : ∃ s x l i a, State.awake s = true ∧ s.ctx? 0 = some x ∧ x.fetch = some (l, i) ∧
    s.contents x.part (l.handles.getD i 0#32) = some a ∧ a.uncorr = [] :=
  ⟨readyWith (demoPart 0) demoIface [planCtx [(0, false)] []] [ddrWeight] [], planCtx [(0, false)] [], planOf [(0, false)] [], 0, ddrWeight,
    rfl, by rfl, by rfl, by rfl, rfl⟩
theorem witness_staging_spoiled : ∃ s x l i a, State.awake s = true ∧ s.ctx? 0 = some x ∧ x.fetch = some (l, i) ∧
    s.contents x.part (l.handles.getD i 0#32) = some a ∧ a.uncorr ≠ [] :=
  ⟨readyWith (demoPart 0) demoIface [planCtx [(0, false)] []] [{ ddrWeight with uncorr := [0] }] [], planCtx [(0, false)] [],
    planOf [(0, false)] [], 0, { ddrWeight with uncorr := [0] }, rfl, by rfl, by rfl, by rfl, by decide⟩

def traversing (slots : List (Nat × Bool)) (bad : List Nat) (a : Alloc) : Cmd :=
  { stepCmd.seen (demoPart 0) (planCtx slots bad) [a] with inserted := true }
def deadlineState (slots : List (Nat × Bool)) (bad : List Nat) (a : Alloc) : State :=
  readyWith (demoPart 0) demoIface [planCtx slots bad] [a] [traversing slots bad a]
def deadlineReady (s t : State) (c : Cmd) (p : Part) (l m : LayerPlan) (i : Nat) (a : Alloc) : Prop :=
  s.awake = true ∧ s.cmd? demoId = some c ∧ s.part? (s.cmdPart demoId) = some p ∧ c.plan = some l ∧ c.phase = .dispatched ∧
    traverses c.opcode = true ∧ c.inserted = true ∧ c.nextEntry = some i ∧ t = s.arriveAt c i ∧
    t.contents p.num (l.handles.getD i 0#32) = some a ∧ t.schedule c = some m

theorem witness_weightDeadline_staged : ∃ s t c p l m a, deadlineReady s t c p l m 0 a ∧ m.slots.contains (0, true) = true :=
  ⟨deadlineState [(0, true)] [] ddrWeight, _, traversing [(0, true)] [] ddrWeight, demoPart 0, planOf [(0, true)] [], _, ddrWeight,
    ⟨rfl, by rfl, by rfl, rfl, rfl, rfl, rfl, by rfl, rfl, by rfl, by rfl⟩, by decide +kernel⟩
theorem witness_weightDeadline_waits : ∃ s t c p l m a, deadlineReady s t c p l m 0 a ∧ m.slots.contains (0, true) = false ∧
    shadowPath p c a = false ∧ m.bad.contains 0 = false :=
  ⟨deadlineState [] [] ddrWeight, _, traversing [] [] ddrWeight, demoPart 0, planOf [] [], _, ddrWeight,
    ⟨rfl, by rfl, by rfl, rfl, rfl, rfl, rfl, by rfl, rfl, by rfl, by rfl⟩, by decide +kernel⟩
theorem witness_weightDeadline_bad : ∃ s t c p l m a, deadlineReady s t c p l m 0 a ∧ m.slots.contains (0, true) = false ∧
    shadowPath p c a = false ∧ m.bad.contains 0 = true :=
  ⟨deadlineState [(0, false)] [0] ddrWeight, _, traversing [(0, false)] [0] ddrWeight, demoPart 0, planOf [(0, false)] [0], _, ddrWeight,
    ⟨rfl, by rfl, by rfl, rfl, rfl, rfl, rfl, by rfl, rfl, by rfl, by rfl⟩, by decide +kernel⟩
def shadowWeight : Alloc := { ddrWeight with flags := 0x1C#16 }
theorem witness_weightDeadline_shadow : ∃ s t c p l m a, deadlineReady s t c p l m 0 a ∧ m.slots.contains (0, true) = false ∧
    shadowPath p c a = true ∧ (a.shadow.map (·.uncorr)).getD [] = [] :=
  ⟨deadlineState [] [] shadowWeight, _, traversing [] [] shadowWeight, demoPart 0, planOf [] [], _, shadowWeight,
    ⟨rfl, by rfl, by rfl, rfl, rfl, rfl, rfl, by rfl, rfl, by rfl, by rfl⟩, by decide +kernel⟩

theorem witness_tableRefill : ∃ s x, State.awake s = true ∧ s.ctx? 0 = some x ∧
    (Tab.get x.gens 0 Gen.start).refill = Tab.get x.gens 0 Gen.start := ⟨ready0, demoCtx, rfl, by rfl, by decide⟩
def usedCtx : Ctx := { demoCtx with gens := [(0, { g := 0, d := 2 ^ 32, counts := [] })] }
theorem witness_tableRefill_used : ∃ s x p, State.awake s = true ∧ s.ctx? 0 = some x ∧
    (Tab.get x.gens 0 Gen.start).refill ≠ Tab.get x.gens 0 Gen.start ∧ s.part? x.part = some p :=
  ⟨readyWith (demoPart 0) demoIface [usedCtx] [] [], usedCtx, demoPart 0, rfl, by rfl, by decide +kernel, by rfl⟩

/-! Checkpoints -/

def demoDrain (awaiting : Nat) : Drain :=
  { set := 0, stage := 4, step := 0#64, seq := 0#64, trigger := 1, snapUs := 0, allocs := [], ctxs := [], epochs := [], open_ := [],
    pages := [], writing := none, awaiting := awaiting, ctxsLeft := [], reserve := [] }
def ckpPart (d : Option Drain) : Part :=
  { demoPart 0 with ckp := { (demoPart 0).ckp with ctxs := [0], sets := [([], default), ([], default)], reserve := 1, trigMs := 1, drain := d } }

theorem witness_ckpTimer : ∃ s p, State.windowUp s = true ∧ s.part? 0 = some p ∧ p.fenced = false ∧
    p.ckp.timerDue s.clk.localUs = true ∧ p.ckp.drain = none :=
  ⟨(readyWith (ckpPart none) demoIface [demoCtx] [] []).atTime 1000, ckpPart none, rfl, by rfl, rfl, by decide +kernel, rfl⟩
theorem witness_ckpTimer_draining : ∃ s p, State.windowUp s = true ∧ s.part? 0 = some p ∧ p.fenced = false ∧
    p.ckp.timerDue s.clk.localUs = true ∧ p.ckp.drain.isSome = true ∧ p.ckp.deferred = false :=
  ⟨(readyWith (ckpPart (some (demoDrain 1))) demoIface [demoCtx] [] []).atTime 1000, ckpPart (some (demoDrain 1)), rfl, by rfl, rfl,
    by decide +kernel, rfl, rfl⟩
def drainQp : Qp :=
  { Qp.new 0 0 0 with ready := true, work := [{ work := .drain 0, addr := 0, rkey := 0#32, len := 0, bytes := [] }] }
theorem witness_drainWriteAck : ∃ s p q d, State.windowUp s = true ∧ s.part? 0 = some p ∧ p.ckp.drain = some d ∧
    s.net.qps.find? (fun q => q.work.any (·.ofDrain 0)) = some q ∧ d.awaiting ≠ 0 :=
  ⟨(readyWith (ckpPart (some (demoDrain 1))) demoIface [demoCtx] [] []).modNet fun n => { n with qps := [drainQp] },
    ckpPart (some (demoDrain 1)), drainQp, demoDrain 1, rfl, by rfl, rfl, by rfl, by decide⟩

/-! ## Witnesses: the fabric -/

/-- Link 0, up, in the module's first partition; a packet of a type from module 1 to that partition. -/
def upLink : Link := { Link.initial with up := true }
def fabState (p : Part) (flows : List SendFlow) (recvs : List RecvFlow) (us : Nat) : State :=
  ((readyWith p demoIface [demoCtx] [] []).modNet fun n => { n with
    links := Tab.set n.links 0 upLink, idValid := true, flows := flows, recvs := recvs }).atTime us
def benzel (type : Nat) (arg : W32) : BzPacket :=
  let h := bzHeader type false false 0 { module_ := 1, part := 0, link := 0 } { module_ := 0, part := 0, link := 0 } 0 0 0 arg 0
  { hdr := h, payload := [], crc := crc32c (wordsBytes h), udpOk := true, ce := false }
def demoFlow : FlowId := { part := 0, dstModule := 1, dstPart := 0, flow := 0 }
def sending (unacked : List Sent) (credits : Nat) (stuck : Option Nat) : SendFlow :=
  { id := demoFlow, next := 1, top := 1, unacked := unacked, unsent := [], link := 0, dstLink := 0, credits := credits, rto := 50,
    expiries := 7, progress := 0, lastUse := 0, stuck := stuck, carried := [] }
def demoSent : Sent := { psn := 0, tag := 0, attempt := 0, coll := false, cmd := none, off := 0, last := true, bytes := [] }
def demoRecv (expected : Nat) (oldest : Option Nat) : RecvFlow :=
  { id := { srcModule := 1, srcPart := 0, flow := 0 }, part := 0, link := 0, peer := 0, incarnation := 0, expected := expected,
    sinceAck := 0, oldest := oldest, nak := none, lastCnp := 0, aborted := [], held := [] }

theorem heard_demo (type : Nat) (arg : W32) (fs : List SendFlow) (rs : List RecvFlow)
    (h : ((fabState (demoPart 0) fs rs 0).heard 0).bzDropped 0 upLink (benzel type arg) = false) (hc : bzCrcOk (benzel type arg) = true) :
    Heard (fabState (demoPart 0) fs rs 0) 0 (benzel type arg) upLink := ⟨rfl, by decide, by rfl, rfl, h, hc⟩

theorem witness_benzelAck : ∃ s p l, Heard s 0 p l ∧ bzType p = tyAck :=
  ⟨_, _, _, heard_demo 1 0#32 [] [] (by decide +kernel) (by decide +kernel), by decide +kernel⟩
theorem witness_benzelNak : ∃ s p l, Heard s 0 p l ∧ bzType p = tyNak :=
  ⟨_, _, _, heard_demo 2 0#32 [] [] (by decide +kernel) (by decide +kernel), by decide +kernel⟩
theorem witness_benzelGrant : ∃ s p l, Heard s 0 p l ∧ bzType p = tyCredit ∧ bzGrant p = true :=
  ⟨_, _, _, heard_demo 3 0x10001#32 [] [] (by decide +kernel) (by decide +kernel), by decide +kernel⟩
theorem witness_benzelRequest : ∃ s p l, Heard s 0 p l ∧ bzType p = tyCredit ∧ bzGrant p = false :=
  ⟨_, _, _, heard_demo 3 1#32 [] [] (by decide +kernel) (by decide +kernel), by decide +kernel⟩
theorem witness_benzelCnp : ∃ s p l w, Heard s 0 p l ∧ bzType p = tyCnp ∧ (s.heard 0).answersMe p = true ∧
    (s.heard 0).flow? (ownFlow p) = some w :=
  ⟨_, _, _, sending [] 0 none, heard_demo 4 0#32 [sending [] 0 none] [] (by decide +kernel) (by decide +kernel), by decide +kernel⟩
theorem witness_benzelCnpOther : ∃ s p l, Heard s 0 p l ∧ bzType p = tyCnp ∧ (s.heard 0).flow? (ownFlow p) = none :=
  ⟨_, _, _, heard_demo 4 0#32 [] [] (by decide +kernel) (by decide +kernel), by decide +kernel⟩
theorem witness_benzelAbort : ∃ s p l, Heard s 0 p l ∧ bzType p = tyAbort :=
  ⟨_, _, _, heard_demo 5 0#32 [] [] (by decide +kernel) (by decide +kernel), by decide +kernel⟩
/-- The packet expected is the last before the number wraps; the one that comes is another. -/
theorem witness_dataInOrder : ∃ s p l r, Heard s 0 p l ∧ (bzType p = tyData ∨ bzType p = tyColl) ∧ s.recv? (bzRecv p) = some r ∧
    r.incarnation = bzInc p ∧ r.expected < 2 ^ 32 :=
  ⟨_, _, _, demoRecv 0xFFFFFFFF none, heard_demo 0 0#32 [] [demoRecv 0xFFFFFFFF none] (by decide +kernel) (by decide +kernel),
    by decide +kernel⟩
theorem witness_dataExpected : ∃ s p l r, Heard s 0 p l ∧ (bzType p = tyData ∨ bzType p = tyColl) ∧ s.recv? (bzRecv p) = some r ∧
    r.incarnation = bzInc p ∧ r.expected < 2 ^ 32 ∧ bzPsn p = r.expected :=
  ⟨_, _, _, demoRecv 0 none, heard_demo 0 0#32 [] [demoRecv 0 none] (by decide +kernel) (by decide +kernel), by decide +kernel⟩

theorem witness_ackTimer : ∃ s r, State.windowUp s = true ∧ s.recv? { srcModule := 1, srcPart := 0, flow := 0 } = some r ∧
    r.oldest = some 0 ∧ 0 + 1 ≤ s.clk.localUs :=
  ⟨fabState (demoPart 0) [] [demoRecv 0 (some 0)] 1, demoRecv 0 (some 0), rfl, by rfl, rfl, by decide⟩
theorem witness_rto : ∃ s w, State.windowUp s = true ∧ s.flow? demoFlow = some w ∧ w.unacked ≠ [] ∧ w.stuck = none ∧
    w.progress + w.rto ≤ s.clk.localUs :=
  ⟨fabState (demoPart 0) [sending [demoSent] 0 none] [] 50, sending [demoSent] 0 none, rfl, by rfl, by decide, rfl, by decide⟩
theorem witness_pathRetry : ∃ s w, State.windowUp s = true ∧ s.flow? demoFlow = some w ∧ w.stuck = some 0 ∧ 0 + 1000000 ≤ s.clk.localUs :=
  ⟨fabState (demoPart 0) [sending [] 0 (some 0)] [] 1000000, sending [] 0 (some 0), rfl, by rfl, rfl, by decide⟩
theorem witness_creditReturn : ∃ s w, State.windowUp s = true ∧ s.flow? demoFlow = some w ∧ 0 < w.credits ∧ w.unsent = [] ∧
    w.stuck = none ∧ w.lastUse + 100 ≤ s.clk.localUs :=
  ⟨fabState (demoPart 0) [sending [] 1 none] [] 100, sending [] 1 none, rfl, by rfl, by decide, rfl, rfl, by decide⟩
theorem witness_header : ∃ (src dst : End) (p : BzPacket), src.module_ < 2 ^ 14 ∧ src.part < 32 ∧ src.link < 32 ∧ dst.module_ < 2 ^ 14 ∧
    dst.part < 32 ∧ dst.link < 32 ∧ 15 < 16 ∧ 65535 < 2 ^ 16 ∧ 4294967295 < 2 ^ 32 ∧
    p = { hdr := bzHeader 15 true true 65535 src dst 65535 65535 4294967295 0xFFFFFFFF#32 0, payload := [], crc := BitVec.ofNat 32 0,
          udpOk := true, ce := false } :=
  ⟨{ module_ := 16383, part := 31, link := 31 }, { module_ := 16383, part := 31, link := 31 }, _, by decide, by decide, by decide,
    by decide, by decide, by decide, by decide, by decide, by decide, rfl⟩

/-! Collectives -/

def collMsg (digest : W32) : CollMsg :=
  { groupId := 1#32, q := 2#32, rank := 0, owner := 0, kind := 0, digest := digest, err := 0#32, blocks := [] }
theorem witness_coll_early : ∃ s p, State.awake s = true ∧ s.part? 0 = some p ∧ p.collFor (collMsg 0#32) = none ∧
    p.shut.contains (msgKey (collMsg 0#32)) = false :=
  ⟨readyWith (demoPart 2) demoIface [demoCtx] [] [], demoPart 2, rfl, by rfl, by decide +kernel⟩
theorem witness_coll_taken : ∃ s p x u y, State.awake s = true ∧ s.part? 0 = some p ∧ p.collFor (collMsg 0#32) = some x ∧
    (collMsg 0#32).digest = x.digest ∧ x.msgFrom (collMsg 0#32).owner (collMsg 0#32).rank = none ∧
    u = modColl s.wake 0 x.cmd (fun y => { y with got := y.got ++ [collMsg 0#32] }) ∧ (u.part? 0).bind (·.coll? x.cmd) = some y :=
  ⟨readyWith (collPart false) demoIface [demoCtx] [] [], collPart false, soloColl false, _, { soloColl false with got := [collMsg 0#32] },
    rfl, by rfl, by decide +kernel, by decide, by decide +kernel, rfl, by decide +kernel⟩
theorem witness_coll_digest : ∃ s p x, State.awake s = true ∧ s.part? 0 = some p ∧ p.collFor (collMsg 9#32) = some x ∧
    (collMsg 9#32).digest ≠ x.digest :=
  ⟨readyWith (collPart false) demoIface [demoCtx] [] [], collPart false, soloColl false, rfl, by rfl, by decide +kernel⟩

/-! Host ports -/

/-- Port 0 up, a connected queue pair of the interface, and one exposed allocation under key 5. -/
def exposed : Alloc := { buf 7#32 8#8 16 [] with key := some 5#32, keyIface := 0 }
def hostQp (ws : List QpReq) : Qp := { Qp.new 0 0 0 with ready := true, work := ws }
def hostState (ws : List QpReq) : State :=
  { (readyWith (demoPart 0) demoIface [demoCtx] [exposed] []).modNet (fun n => { n with
      ports := Tab.set n.ports 0 { HostPort.initial with up := true }, qps := [hostQp ws] }) with
    mgt := { Mgt.initial with proxy := some (0, 0), proxyKey := 6#32 } }
theorem responder_demo (ws : List QpReq) : (hostState ws).responder? 0 0 = some (hostQp ws, demoIface) := by rfl
def wr (key : W32) (off n : Nat) : RdmaWrite := { qpn := 0, rkey := key, offset := off, data := List.replicate n 1#8, ce := false }

theorem witness_queueArea : ∃ s r q f, Mem.wf zeroByte f.qarea = true ∧ State.responder? s 0 (r : RdmaWrite).qpn = some (q, f) ∧
    s.region? f 0 r.rkey = some (.qarea f.num) ∧ r.offset + r.data.length ≤ 2 * mib :=
  ⟨hostState [], wr 2#32 (2 * mib - 1) 1, hostQp [], demoIface, rfl, responder_demo _, by rfl, by decide⟩
theorem witness_queueArea_far : ∃ s r q f, Mem.wf zeroByte f.qarea = true ∧
    State.responder? s 0 (r : RdmaWrite).qpn = some (q, f) ∧ (∀ x, s.region? f 0 r.rkey = some x → x.size < r.offset + r.data.length) :=
  ⟨hostState [], wr 2#32 (2 * mib) 1, hostQp [], demoIface, rfl, responder_demo _, fun x h => by
    have : (hostState []).region? demoIface 0 (wr 2#32 (2 * mib) 1).rkey = some (.qarea 0) := by rfl
    rw [this] at h; cases h; decide⟩
theorem witness_queueArea_key : ∃ s r q f, Mem.wf zeroByte f.qarea = true ∧
    State.responder? s 0 (r : RdmaWrite).qpn = some (q, f) ∧ (∀ x, s.region? f 0 r.rkey = some x → x.size < r.offset + r.data.length) :=
  ⟨hostState [], wr 0#32 0 1, hostQp [], demoIface, rfl, responder_demo _, fun x h => by
    have : (hostState []).region? demoIface 0 (wr 0#32 0 1).rkey = none := by rfl
    rw [this] at h; cases h⟩
theorem witness_hostWrite : ∃ s w q f p h z, State.responder? s 0 (w : RdmaWrite).qpn = some (q, f) ∧
    s.region? f 0 w.rkey = some (.alloc p h z) ∧ w.offset + w.data.length ≤ z :=
  ⟨hostState [], wr 5#32 15 1, hostQp [], demoIface, 0, 7#32, 16, responder_demo _, by rfl, by decide⟩
theorem witness_hostWindow : ∃ s w q f, State.responder? s 0 (w : RdmaWrite).qpn = some (q, f) ∧
    s.region? f 0 w.rkey = some (.window 0) ∧ w.offset + w.data.length ≤ 0x10000 :=
  ⟨hostState [], wr 1#32 0xFFFC 4, hostQp [], demoIface, responder_demo _, by rfl, by decide⟩
theorem witness_hostMailbox : ∃ s w q f, State.responder? s 0 (w : RdmaWrite).qpn = some (q, f) ∧
    s.region? f 0 w.rkey = some .mailbox ∧ w.offset + w.data.length ≤ 4096 :=
  ⟨hostState [], wr 6#32 0xFFC 4, hostQp [], demoIface, responder_demo _, by rfl, by decide⟩
theorem witness_hostRead : ∃ s r q f p h z a, State.responder? s 0 (r : RdmaRead).qpn = some (q, f) ∧
    s.region? f 0 r.rkey = some (.alloc p h z) ∧ r.offset + r.len ≤ z ∧ (noteCongestion s.wake q r.ce).contents p h = some a ∧
    unitsHit a a.uncorr r.offset (r.offset + r.len) = [] :=
  ⟨hostState [], { qpn := 0, rkey := 5#32, offset := 0, len := 16, ce := false }, hostQp [], demoIface, 0, 7#32, 16, exposed, responder_demo _, by rfl,
    by decide, by rfl, by rfl⟩
def reqOf (w : QpWork) (n : Nat) : QpReq := { work := w, addr := 0, rkey := 0#32, len := n, bytes := [] }
theorem witness_hostAnswers : ∃ s q f, State.responder? s 0 0 = some (q, f) ∧ ∃ x, q.work = [x] ∧ x.work = .reply demoId :=
  ⟨hostState [reqOf (.reply demoId) 64], _, _, responder_demo _, _, rfl, rfl⟩
theorem witness_hostAnswers_drain : ∃ s q f, State.responder? s 0 0 = some (q, f) ∧ ∃ x, q.work.head? = some x ∧ x.work = .drain 0 :=
  ⟨hostState [reqOf (.drain 0) 64], _, _, responder_demo _, _, rfl, rfl⟩
theorem witness_hostAnswers_read : ∃ s q f, State.responder? s 0 0 = some (q, f) ∧
    ∃ x, q.work = [x] ∧ x.work = .read demoId 0 ∧ [1#8].length = x.len :=
  ⟨hostState [reqOf (.read demoId 0) 1], _, _, responder_demo _, _, rfl, rfl, rfl⟩
theorem witness_qpLive : ∃ s q, State.liveQp? s 0 0 = some q ∧ q.work ≠ [] :=
  ⟨hostState [reqOf (.reply demoId) 64], hostQp [reqOf (.reply demoId) 64], by rfl, by decide⟩

/-! Ports -/

def linkState (l : Link) (h : HostPort) (us : Nat) : State :=
  ((readyWith (demoPart 0) demoIface [demoCtx] [] []).modNet fun n => { n with
    links := Tab.set n.links 0 l, ports := Tab.set n.ports 0 h, idValid := true }).atTime us
theorem witness_linkUp : ∃ s l, State.portsOn s = true ∧ s.link? 0 = some l ∧ l.training = true ∧ s.flt.safe = false ∧
    s.linkMayRun 0 l = true ∧ s.linkBusy 0 = false ∧ l.seed = false :=
  ⟨linkState { Link.initial with training := true } HostPort.initial 0, { Link.initial with training := true }, rfl, by rfl, rfl, rfl,
    by decide +kernel, by decide +kernel, rfl⟩
theorem witness_portUp : ∃ s h, State.portsOn s = true ∧ s.flt.safe = false ∧ s.port? 0 = some h ∧ h.training = true ∧
    h.trainStart + 1000000 ≤ s.clk.localUs :=
  ⟨linkState Link.initial { HostPort.initial with training := true } 1000000, { HostPort.initial with training := true }, rfl, rfl, by rfl,
    rfl, by decide⟩
theorem witness_linkDown : ∃ s l h, State.portsOn s = true ∧ s.link? 0 = some l ∧ l.up = true ∧ s.port? 0 = some h ∧ h.up = true ∧
    s.flt.safe = false ∧ l.resolvedAt + 30000000 ≤ s.clk.localUs :=
  ⟨linkState upLink { HostPort.initial with up := true } 30000000, upLink, { HostPort.initial with up := true }, rfl, by rfl, rfl, by rfl,
    rfl, rfl, by decide⟩

theorem witness_addresses : ∃ s, State.ownsV4 s (.host 0) 0x0A000001#32 = true ∧ s.ownsV4 (.host 0) ((0x0A000001#128).truncate 32) = true ∧
    s.ownsV6 (.host 0) 1#128 = true :=
  ⟨linkState upLink { HostPort.initial with up := true, addr4 := 0x0A000001#32, addr6lo := 1#64 } 0, by decide +kernel⟩

/-- A lossless port, up, whose priority is 3 (spec 14 Table 14-9). -/
def pfcPort : HostPort := { HostPort.initial with up := true, cfg := 0x7#32 }
theorem witness_pause : ∃ s h, State.portsOn s = true ∧ s.port? 0 = some h ∧ h.up = true ∧ h.lossless = true ∧ h.prio = 3 ∧
    h.pfcIgnored = false ∧ s.flt.safe = false :=
  ⟨linkState upLink pfcPort 0, pfcPort, rfl, by rfl, rfl, rfl, rfl, rfl, rfl⟩
theorem witness_pause_watchdog : ∃ s h, State.portsOn s = true ∧ s.port? 0 = some h ∧ h.pausedSince = some 0 ∧
    0 + 100000 ≤ s.clk.localUs :=
  ⟨linkState upLink { pfcPort with pausedSince := some 0 } 100000, { pfcPort with pausedSince := some 0 }, rfl, by rfl, rfl, by decide⟩
theorem witness_pause_ignored : ∃ s h, State.portsOn s = true ∧ s.port? 0 = some h ∧ h.pfcIgnored = true ∧ h.ignoreUntil ≤ s.clk.localUs :=
  ⟨linkState upLink { pfcPort with pfcIgnored := true, ignoreUntil := 5 } 5, { pfcPort with pfcIgnored := true, ignoreUntil := 5 }, rfl,
    by rfl, rfl, by decide⟩

/-! ## Witnesses: faults and maintenance -/

def detection (n : Nat) : Detection := { source := n, inst := 0, part := some 0, info := 0, cmd := none }
theorem witness_faultDetect : ∃ s d, State.collectorUp s = true ∧ (d : Detection).source < 0x60 ∧ d.source ≠ 0x58 ∧ d.source ≠ 0x05 :=
  ⟨ready0, detection 0x5F, rfl, by decide⟩
theorem witness_recordClear : ∃ s : State, s.collectorUp = true ∧ s.mgmtOn = true ∧ s.flt.safe = false ∧
    (sourceScope 0).isSome = true ∧ bitAt (1#32 : W32) 0 = true := ⟨ready0, rfl, rfl, rfl, by decide⟩
theorem witness_severity : ∃ s : State, s.collectorUp = true ∧ s.mgmtOn = true ∧ (sourceScope 0).isSome = true ∧ sourceLocked 0 = false ∧
    field (4#32 : W32) 2 0 ≤ 4 := ⟨ready0, rfl, rfl, by decide⟩
theorem witness_severity_locked : ∃ s : State, s.collectorUp = true ∧ s.mgmtOn = true ∧ sourceLocked 0x26 = true ∧
    4 < field (5#32 : W32) 2 0 ∧ sourceScope 0x3F = none := ⟨ready0, rfl, rfl, by decide⟩
def injecting (sel mask : W32) : State := ready0.modFlt fun f => { f with injSel := sel, injMask := mask }
theorem witness_injection : ∃ s : State, s.collectorUp = true ∧ s.mgmtOn = true ∧ (field s.flt.injSel 3 0 ≠ 7 ∨ s.flt.injMask = 0#32) :=
  ⟨injecting 7#32 0#32, rfl, rfl, by decide +kernel⟩
theorem witness_injection_self : ∃ s : State, s.collectorUp = true ∧ s.mgmtOn = true ∧ field s.flt.injSel 3 0 = 7 ∧ s.flt.injMask ≠ 0#32 ∧
    0 < field (1#32 : W32) 15 0 := ⟨injecting 7#32 1#32, rfl, rfl, by decide +kernel⟩
def safe0 : State := ready0.modFlt fun f => { f with safe := true }
theorem witness_safe : ∃ s : State, s.flt.safe = true := ⟨safe0, rfl⟩
theorem witness_contain : ∃ (s : State) (d : Detection), s.flt.safe = false ∧ (sourceScope d.source).isSome = true ∧
    sourceScope d.source ≠ some .c ∧ s.severity d.source = sevContain ∧ s.affected d = [0] :=
  ⟨ready0, detection 0x09, rfl, by decide +kernel⟩

theorem witness_tokenGrant : ∃ s t, State.awake s = true ∧ nextGrant s.maint 6 [] s.maint.waiting = some t :=
  ⟨ready0.modMaint fun m => { m with waiting := [sensorToken] }, sensorToken, rfl, by decide +kernel⟩
theorem witness_scrubYield : ∃ s : State, s.awake = true ∧ s.holds (scrubToken 0) = true ∧
    s.maint.waiting.any (fun u => clash u (scrubToken 0)) = true :=
  ⟨ready0.modMaint fun m => { m with held := [scrubToken 0], waiting := [repairToken 0] }, rfl, by decide +kernel⟩
theorem witness_apart : ∃ (s : State) (t : Token), s.maint.held.Pairwise (fun a b => clash a b = false) ∧
    nextGrant s.maint 6 [] s.maint.waiting = some t :=
  ⟨ready0.modMaint fun m => { m with held := [scrubToken 0], waiting := [sensorToken] }, sensorToken, by decide +kernel, by decide +kernel⟩

def scrubState (t : Token) (a : Alloc) : State :=
  (readyWith (demoPart 0) demoIface [demoCtx] [a] []).modMaint fun m => { m with held := [t] }
def worn : Alloc := { buf 7#32 8#8 64 [] with corr := [0], uncorr := [1] }
theorem witness_hbmScrub : ∃ s, State.live s = true ∧ s.pwr.state.toNat ≤ 1 ∧ s.holds (scrubToken 0) = true ∧
    s.allocs.any (fun a => a.handle == 7#32 && a.home == .hbm) = true := ⟨scrubState (scrubToken 0) worn, rfl, by decide +kernel⟩
theorem witness_ddrScrub : ∃ s, State.live s = true ∧ s.pwr.state.toNat ≤ 1 ∧ s.holds (scrubToken 2) = true ∧
    s.allocs.any (fun a => a.handle == 7#32 && a.home == .ddr) = true :=
  ⟨scrubState (scrubToken 2) { worn with home := .ddr }, rfl, by decide +kernel⟩

def holding (ts : List Token) : State := ready0.modMaint fun m => { m with held := ts }
theorem witness_repairs : ∃ s : State, s.live = true ∧ s.holds (repairToken 7) = true ∧ s.holds (serdesToken (.host 0)) = true ∧
    s.holds (tileToken 127) = true ∧ s.holds (rowToken 127 0) = true ∧ s.holds (laneToken 1 31) = true ∧ (s.link? 31).isSome = true :=
  ⟨holding [repairToken 7, serdesToken (.host 0), tileToken 127, rowToken 127 0, laneToken 1 31], rfl, by decide +kernel⟩
theorem witness_laneReplace : ∃ s : State, s.live = true ∧ s.onTile 127 = [] ∧ Tab.get s.maint.lanes 127 0 < 2 := ⟨ready0, rfl, rfl, by decide⟩
theorem witness_laneReplace_out : ∃ s : State, s.live = true ∧ s.onTile 127 = [] ∧ 2 ≤ Tab.get s.maint.lanes 127 0 :=
  ⟨ready0.modMaint fun m => { m with lanes := [(127, 2)] }, rfl, rfl, by decide⟩

/-! ## Witnesses: power, pins, session -/

theorem witness_doze : ∃ s : State, s.phase = .running ∧ s.flt.safe = false ∧ s.pwr.state = 1#3 ∧ field s.pwr.cfg 15 0 ≠ 0 ∧
    s.quiet = true ∧ s.pwr.idleSince + field s.pwr.cfg 15 0 ≤ s.clk.localUs :=
  ⟨ready0.atTime 100, rfl, rfl, rfl, by decide, by decide +kernel⟩
theorem witness_power : ∃ s : State, s.mgmtOn = true ∧ s.phase = .running ∧ s.pins.pwrbrkN = true ∧ s.fit.channels.any (·.1 == 7) = true ∧
    calItemUsed (field s.pwr.calSel 7 0) = true ∧ 1 ≤ s.pwr.gov ∧ s.pwr.gov ≤ 16 := ⟨ready0, rfl, rfl, by decide +kernel⟩
theorem witness_wearUpdate : ∃ s : State, s.mgmtOn = true ∧ s.phase = .running ∧ s.pwr.powered ≠ 0 ∧ s.pwr.powered % 86400 = 0 :=
  ⟨ready0.modPwr fun p => { p with powered := 86400 }, rfl, by decide⟩
theorem witness_thermal : ∃ (s : State) (r : ThermalReading), s.mgmtOn = true ∧ 10500 ≤ offsetBy s.pwr r.sensor r.hottest ∧
    sevFatal ≤ s.severity 0x51 := ⟨ready0, { hottest := 10500, sensor := 0, fraction := 0 }, rfl, by decide +kernel⟩

theorem witness_pins : (∃ s : State, s.phase = .off) ∧ (∃ s : State, s.phase = .dormant ∧ s.pins.booted = false) ∧
    (∃ s : State, s.phase = .running) ∧ (∃ s : State, s.phase = .inReset ∧ s.pins.pwrGood = true ∧ s.pins.refsOk = true) ∧
    (∃ s : State, s.phase = .inReset ∧ s.pins.pwrGood = true ∧ s.pins.resetN = true) :=
  ⟨⟨{ State.reset with phase := .off }, rfl⟩, ⟨{ State.reset with phase := .dormant }, rfl, rfl⟩, ⟨ready0, rfl⟩, ⟨State.reset, rfl, rfl, rfl⟩,
    ⟨{ State.reset with pins := { State.reset.pins with resetN := true, refsOk := false } }, rfl, rfl, rfl⟩⟩

/-- The trip is reached: THERMTRIP of a running module holds it. -/
theorem witness_trip : ∃ s t : State, s.tripHeld ∧ (∀ c r, s.pending = c :: r → endsTrip c = false) ∧ step s = .next t :=
  ⟨{ State.reset with phase := .tripped, pins := { State.reset.pins with pwrGood := false, thermtrip := true } }, _, ⟨rfl, rfl, rfl, rfl⟩,
    fun c r h => by simp [State.reset] at h, rfl⟩
theorem witness_trip_command : ∃ s t : State, s.tripHeld ∧ (∀ c r, s.pending = c :: r → endsTrip c = false) ∧ step s = .next t :=
  ⟨{ State.reset with phase := .tripped, pins := { State.reset.pins with pwrGood := false, thermtrip := true }, pending := [.pwrEnAssert] },
    _, ⟨rfl, rfl, rfl, rfl⟩, fun c r h => by simp at h; obtain ⟨rfl, _⟩ := h; rfl, rfl⟩
theorem witness_safeState : ∃ (s t : State) (c : Instr) (r : List Instr), s.flt.safe = true ∧ s.pending = c :: r ∧ endsSession c = false ∧ managed c = false ∧
    step s = .next t :=
  ⟨{ safe0 with pending := [.budgetRefill] }, _, .budgetRefill, [], rfl, rfl, rfl, rfl, rfl⟩

/-! ## Witnesses: management -/

/-- A request over I3C, which no MAC protects (spec 17 R446), to a module that has an address there. -/
def i3cReq (body : List W32) : MgmtReq := { path := .i3c, src := [], tag := 0#32, counter := 1#64, mac := [], body := body }
def onBus (s : State) : State := { s with pins := { s.pins with i3c := some 8#7 } }

theorem admitted_i3c {s : State} {cmd : Nat} {auth : Bool} {body : List W32} (h : s.phase = .running) :
    Admitted (onBus s) cmd auth (i3cReq body) where
  path := by simp [State.pathUp, onBus, i3cReq, State.mgmtOn, h]
  dormant := fun e => by simp [onBus, h] at e
  recovery := fun e => by simp [onBus, h] at e
  mac := fun e => by simp [authenticated, i3cReq] at e
  counter := fun e => by simp [authenticated, i3cReq] at e

/-- A module with a management key and its port up, and a request on that port. -/
def portReq (n : W64) (mac : List Byte) : MgmtReq := { path := .port, src := [10#8, 0#8, 0#8, 1#8, 0xC3#8, 0xAC#8], tag := 0#32, counter := n, mac := mac, body := [] }
def keyed : State := { ready0 with mgt := { Mgt.initial with key := some [], ctr := 5#64 }, net := { ready0.net with mgmtUp := true } }
/-- Any MAC function: the one it gives is accepted. -/
def goodMac (cmd : Nat) (n : W64) : List Byte := macOf [] (mgmtWords cmd 0#32 n [])

theorem keyed_macOk (cmd : Nat) (n : W64) : keyed.macOk cmd (portReq n (goodMac cmd n)) = true := by
  simp [State.macOk, keyed, portReq, goodMac]

theorem witness_admitted_mac : Admitted keyed 0x05 true (portReq 6#64 (goodMac 0x05 6#64)) where
  path := by rfl
  dormant := fun e => nomatch e
  recovery := fun e => nomatch e
  mac := fun _ => keyed_macOk _ _
  counter := fun _ => by decide

theorem witness_mgmtQueries : Admitted (onBus ready0) 0x01 false (i3cReq []) ∧ Admitted (onBus ready0) 0x03 false (i3cReq []) ∧
    Admitted (onBus ready0) 0x04 false (i3cReq (List.replicate 8 0#32)) ∧ Admitted (onBus ready0) 0x05 true (i3cReq []) ∧
    Admitted (onBus ready0) 0x06 true (i3cReq []) :=
  ⟨admitted_i3c rfl, admitted_i3c rfl, admitted_i3c rfl, admitted_i3c rfl, admitted_i3c rfl⟩
theorem witness_bulkRead : ∃ s r u o, Admitted s 0x02 (bulkAuth r.body) r ∧ r.body.length = 2 ∧ u = s.noted (bulkAuth r.body) r ∧
    u.mgt.produced.find? (·.1 == bulkObject r.body) = some o :=
  ⟨onBus { ready0 with mgt := { Mgt.initial with produced := [(3, [1#8])] } }, i3cReq [3#32, 0#32], _, (3, [1#8]), admitted_i3c rfl, rfl, rfl,
    by rfl⟩
theorem witness_regRead : ∃ s r u, Admitted s 0x10 true r ∧ r.body.length = 3 ∧ bodyNat r.body 0 = mgmtSpace ∧ u = s.noted true r ∧
    rangeOk mgmtWide (bodyNat r.body 1) (bodyNat r.body 2) = true ∧ bodyNat r.body 1 + 4 * bodyNat r.body 2 ≤ 2 ^ 32 :=
  ⟨onBus ready0, i3cReq [0xFFFFFFFF#32, 0xFFFFFF00#32, 64#32], _, admitted_i3c rfl, rfl, by decide, rfl, by decide +kernel⟩
theorem witness_regRead_window : ∃ s r u f, Admitted s 0x10 true r ∧ r.body.length = 3 ∧ bodyNat r.body 0 ≠ mgmtSpace ∧
    u = s.noted true r ∧ u.iface? (bodyNat r.body 0) = some f ∧ rangeOk windowWide (bodyNat r.body 1) (bodyNat r.body 2) = true ∧
    bodyNat r.body 1 + 4 * bodyNat r.body 2 ≤ 0x10000 :=
  ⟨onBus ready0, i3cReq [0#32, 0xFFFC#32, 1#32], _, demoIface, admitted_i3c rfl, rfl, by decide, rfl, by rfl, by decide +kernel⟩

/-- Partition 1 with clover 1, 1 GiB of HBM, link 1, host port 0, first interface 1 (spec 12 Table 12-1). -/
def descrBody : List W32 := [1#32, 0x101#32, 1#32, 0#32, 2#32, 1#32, 0#32, 0#32, 0#32, 0#32, 0#32, 1#32]
def partState : State := ((onBus ready0).noted true (i3cReq descrBody)).withPart (descrOf descrBody)
theorem witness_partCreate : ∃ s r u t ks, u = s.noted true r ∧ Admitted s 0x20 true r ∧ r.body.length = 12 ∧
    descrReserved r.body = true ∧ (descrOf r.body).ok u = true ∧ u.pwr.state ≠ 4#3 ∧ (descrOf r.body).fitted u = true ∧
    (descrOf r.body).room u = true ∧ (u.withPart (descrOf r.body)).addIface (descrOf r.body).num (descrOf r.body).firstIf
      (descrOf r.body).host 0 (descrOf r.body).slots = some (t, ks) :=
  have h : (partState.addIface 1 1 1 0 0).isSome = true := by decide +kernel
  let ⟨(t, ks), hx⟩ := Option.isSome_iff_exists.mp h
  ⟨onBus ready0, i3cReq descrBody, _, t, ks, rfl, admitted_i3c rfl, rfl, by decide +kernel, by decide +kernel, by decide,
    by decide +kernel, by decide +kernel, hx⟩
theorem witness_partDestroy : ∃ s r u p, u = s.noted true r ∧ Admitted s 0x21 true r ∧ r.body.length = 1 ∧
    u.part? (bodyNat r.body 0) = some p :=
  ⟨onBus ready0, i3cReq [0#32], _, demoPart 0, rfl, admitted_i3c rfl, rfl, by rfl⟩
def ifBody : List W32 := [255#32, 0#32, 1#32, 3#32, 16384#32]
theorem witness_ifCreate : ∃ s r u p t ks, u = s.noted true r ∧ Admitted s 0x22 true r ∧ r.body.length = 5 ∧
    u.part? (bodyNat r.body 1) = some p ∧ bodyNat r.body 0 < 256 ∧ u.iface? (bodyNat r.body 0) = none ∧ bodyNat r.body 2 < 16 ∧
    bodyNat r.body 3 ≤ 3 ∧ bodyNat r.body 4 ≤ 16384 ∧
    (List.range 4).all (fun k => bodyNat r.body 2 / 2 ^ k % 2 == 0 || p.host / 2 ^ k % 2 == 1) = true ∧
    bodyNat r.body 2 < 2 ^ u.fit.hostPorts ∧
    u.addIface p.num (bodyNat r.body 0) (bodyNat r.body 2) (bodyNat r.body 3) (bodyNat r.body 4) = some (t, ks) :=
  have h : (((onBus ready0).noted true (i3cReq ifBody)).addIface 0 255 1 3 16384).isSome = true := by decide +kernel
  let ⟨(t, ks), hx⟩ := Option.isSome_iff_exists.mp h
  ⟨onBus ready0, i3cReq ifBody, _, demoPart 0, t, ks, rfl, admitted_i3c rfl, rfl, by rfl, by decide +kernel,
    by decide +kernel, by decide +kernel, by decide +kernel, by decide +kernel, by decide +kernel, by decide +kernel, hx⟩
theorem witness_ifDestroy : ∃ s r u f p, u = s.noted true r ∧ Admitted s 0x23 true r ∧ r.body.length = 1 ∧
    u.iface? (bodyNat r.body 0) = some f ∧ u.part? f.part = some p ∧ (p.role = roleLearn ∨ p.firstIf ≠ f.num) :=
  ⟨onBus (readyWith (demoPart 2) demoIface [demoCtx] [] []), i3cReq [0#32], _, demoIface, demoPart 2, rfl, admitted_i3c rfl, rfl, by rfl,
    by rfl, .inl rfl⟩
theorem witness_ifBudget : ∃ s r u, u = s.noted true r ∧ Admitted s 0x24 true r ∧ r.body.length = 6 ∧
    (u.iface? (bodyNat r.body 0)).isSome = true ∧ bodyNat r.body 1 ≤ 1 ∧ bodyNat r.body 3 ≤ 0x7FFFFFFF ∧ bodyNat r.body 5 ≤ 16384 :=
  ⟨onBus ready0, i3cReq [0#32, 1#32, 0#32, 0x7FFFFFFF#32, 0#32, 16384#32], _, rfl, admitted_i3c rfl, rfl, by decide +kernel⟩

def qpState : State := onBus (ready0.modNet fun n => { n with qps := [Qp.new 0 0xFFFFFF 0] })
theorem witness_qpCreate : ∃ s r u, u = s.noted true r ∧ Admitted s 0x25 true r ∧ r.body.length = 3 ∧ bodyNat r.body 2 < 2 ^ 24 ∧
    u.qp? (bodyNat r.body 1) (bodyNat r.body 2) = none ∧ portUse u (bodyNat r.body 0) (bodyNat r.body 1) = none ∧
    u.net.qps.countP (·.port == bodyNat r.body 1) < 4096 ∧ u.net.qps.countP (·.iface == bodyNat r.body 0) < 256 :=
  ⟨onBus ready0, i3cReq [0#32, 0#32, 0xFFFFFF#32], _, rfl, admitted_i3c rfl, rfl, by decide +kernel⟩
theorem witness_qpConnect : ∃ s r u q, u = s.noted true r ∧ Admitted s 0x26 true r ∧ r.body.length = 12 ∧
    u.qp? (bodyNat r.body 0) (bodyNat r.body 1) = some q ∧ bodyNat r.body 0 < 4 ∧ bodyNat r.body 1 < 2 ^ 24 ∧
    u.portFitted (bodyNat r.body 0) = true ∧ bodyNat r.body 2 < 2 ^ 24 ∧
    (bodyNat r.body 7 = 1024 ∨ bodyNat r.body 7 = 2048 ∨ bodyNat r.body 7 = 4096) ∧ bodyNat r.body 8 < 2 ^ 24 ∧
    bodyNat r.body 9 < 2 ^ 24 ∧ bodyNat r.body 10 < 32 ∧ bodyNat r.body 11 < 8 :=
  ⟨qpState, i3cReq [0#32, 0xFFFFFF#32, 0xFFFFFF#32, 0#32, 0#32, 0#32, 0#32, 4096#32, 0xFFFFFF#32, 0xFFFFFF#32, 31#32, 7#32], _,
    Qp.new 0 0xFFFFFF 0, rfl, admitted_i3c rfl, rfl, by decide +kernel⟩
theorem witness_qpDestroy : ∃ s r u q, u = s.noted true r ∧ Admitted s 0x27 true r ∧ r.body.length = 2 ∧
    u.qp? (bodyNat r.body 0) (bodyNat r.body 1) = some q ∧ bodyNat r.body 0 < 4 ∧ bodyNat r.body 1 < 2 ^ 24 ∧
    u.portFitted (bodyNat r.body 0) = true :=
  ⟨qpState, i3cReq [0#32, 0xFFFFFF#32], _, Qp.new 0 0xFFFFFF 0, rfl, admitted_i3c rfl, rfl, by decide +kernel⟩
theorem witness_proxyGrant : ∃ s r u, u = s.noted true r ∧ Admitted s 0x28 true r ∧ r.body.length = 3 ∧ bodyNat r.body 2 = 1 ∧
    portUse u (bodyNat r.body 0) (bodyNat r.body 1) = none ∧ u.partFenced (u.ifacePart (bodyNat r.body 0)) = false :=
  ⟨onBus ready0, i3cReq [0#32, 0#32, 1#32], _, rfl, admitted_i3c rfl, rfl, by decide +kernel⟩
theorem witness_proxyRevoke : ∃ s r u, u = s.noted true r ∧ Admitted s 0x28 true r ∧ r.body.length = 3 ∧ bodyNat r.body 2 = 0 ∧
    portUse u (bodyNat r.body 0) (bodyNat r.body 1) = none :=
  ⟨onBus ready0, i3cReq [0#32, 0#32, 0#32], _, rfl, admitted_i3c rfl, rfl, by decide +kernel⟩

/-! Requests about the module -/

def bare0 : State := readyWith (demoPart 0) demoIface [] [] [] |> fun s => { s with parts := [], ifaces := [] }
theorem witness_regWrite : ∃ s r, Admitted s 0x11 true r ∧ rangeOk mgmtWide (bodyNat r.body 0) (r.body.length - 1) = true ∧
    bodyNat r.body 0 + 4 * (r.body.length - 1) ≤ 2 ^ 32 :=
  ⟨onBus ready0, i3cReq [0xFFFFFFFC#32, 0#32], admitted_i3c rfl, by decide +kernel⟩
theorem witness_powerState : ∃ s r u, u = s.noted true r ∧ Admitted s 0x30 true r ∧ r.body = [3#32] ∧ u.phase = .running ∧
    u.pwr.state ≠ 3#3 ∧ u.napRefused = false ∧ u.pwr.state ≠ 4#3 ∧ u.parts = [] ∧ u.pwr.state ≠ 5#3 :=
  ⟨onBus bare0, i3cReq [3#32], _, rfl, admitted_i3c rfl, rfl, by decide +kernel⟩
theorem witness_powerStates : Admitted (onBus bare0) 0x30 true (i3cReq [1#32]) ∧ Admitted (onBus bare0) 0x30 true (i3cReq [4#32]) ∧
    Admitted (onBus bare0) 0x30 true (i3cReq [5#32]) ∧ ((onBus bare0).noted true (i3cReq [4#32])).parts = [] ∧
    ((onBus bare0).noted true (i3cReq [1#32])).phase = .running :=
  ⟨admitted_i3c rfl, admitted_i3c rfl, admitted_i3c rfl, rfl, rfl⟩
theorem witness_resets : Admitted (onBus ready0) 0x31 true (i3cReq []) ∧ Admitted (onBus ready0) 0x32 true (i3cReq []) ∧
    ((onBus ready0).noted true (i3cReq [])).maint.grantNow calToken = true := ⟨admitted_i3c rfl, admitted_i3c rfl, by decide +kernel⟩
theorem witness_seedLane : ∃ s r u, u = s.noted true r ∧ Admitted s 0x33 true r ∧ r.body.length = 3 ∧ bodyNat r.body 0 = 0 ∧
    bodyNat r.body 1 < 2 ∧ bodyNat r.body 2 < 32 ∧ bodyNat r.body 2 / 16 = bodyNat r.body 1 ∧ u.linkFitted (bodyNat r.body 2) = true ∧
    u.net.seedLanes.any (·.1 == bodyNat r.body 1) = false ∧ u.maint.grantNow (laneToken (bodyNat r.body 1) (bodyNat r.body 2)) = true :=
  ⟨onBus ready0, i3cReq [0#32, 1#32, 31#32], _, rfl, admitted_i3c rfl, rfl, by decide +kernel⟩
theorem witness_seedRow : ∃ s r u, u = s.noted true r ∧ Admitted s 0x33 true r ∧ r.body.length = 3 ∧ bodyNat r.body 0 = 1 ∧
    bodyNat r.body 1 < 128 ∧ u.maint.grantNow (rowToken (bodyNat r.body 1) (bodyNat r.body 2)) = true :=
  ⟨onBus ready0, i3cReq [1#32, 127#32, 0#32], _, rfl, admitted_i3c rfl, rfl, by decide +kernel⟩
theorem witness_seedTile : ∃ s r u, u = s.noted true r ∧ Admitted s 0x33 true r ∧ r.body.length = 3 ∧ bodyNat r.body 0 = 2 ∧
    bodyNat r.body 1 < 128 ∧ Tab.get u.maint.seedTiles (bodyNat r.body 1 / 16) 0 ≠ 0 ∧
    u.maint.grantNow (tileToken (bodyNat r.body 1)) = true :=
  ⟨onBus ready0, i3cReq [2#32, 127#32, 0#32], _, rfl, admitted_i3c rfl, rfl, by decide +kernel⟩
theorem witness_stageBegin : ∃ s r u, u = s.noted true r ∧ Admitted s 0x40 true r ∧ r.body.length = 2 ∧
    u.holds stagingToken = false ∧ u.maint.grantNow stagingToken = true :=
  ⟨onBus ready0, i3cReq [0#32, 0#32], _, rfl, admitted_i3c rfl, rfl, by decide +kernel⟩
def staging (n : BitVec 3) (img : Image) : State :=
  onBus { ready0 with mgt := { Mgt.initial with stage := n, stageLen := 4, slotA := some img } }
def img0 : Image :=
  { svn := 1, fwVer := 0#32, coefVer := 0#16, revoke := 0#8, edSlot := some 0, mlSlot := some 0, edOk := true, mlOk := true, fwOk := true,
    compsOk := true, digests := [] }
theorem witness_stageData : ∃ s r u, u = s.noted true r ∧ Admitted s 0x41 true r ∧ r.body.length = 3 + (bodyNat r.body 2 + 3) / 4 ∧
    bodyNat r.body 2 ≤ 1024 ∧ u.mgt.stage = 1#3 ∧
    bodyNat r.body 0 + bodyNat r.body 1 * 2 ^ 32 + bodyNat r.body 2 ≤ u.mgt.stageLen :=
  ⟨staging 1#3 img0, i3cReq [0#32, 0#32, 4#32, 7#32], _, rfl, admitted_i3c rfl, by decide +kernel⟩
theorem witness_stageEnd : ∃ s r u, u = s.noted true r ∧ Admitted s 0x42 true r ∧ r.body = [] ∧ u.mgt.stage = 1#3 :=
  ⟨staging 1#3 img0, i3cReq [], _, rfl, admitted_i3c rfl, by decide +kernel⟩
theorem witness_activate : ∃ s r u, u = s.noted true r ∧ Admitted s 0x43 true r ∧ r.body.length = 1 ∧ bodyNat r.body 0 ≤ 1 ∧
    ((u.mgt.measured ≠ [] ∧ (bodyNat r.body 0 == 1) = u.mgt.running) ∨ ((bodyNat r.body 0 == 1) ≠ u.mgt.running ∧ u.mgt.stage = 3#3)) :=
  ⟨staging 3#3 img0, i3cReq [1#32], _, rfl, admitted_i3c rfl, by decide +kernel⟩
theorem witness_commit : ∃ s r u img, u = s.noted true r ∧ Admitted s 0x44 true r ∧ r.body = [] ∧ u.mgt.slot u.mgt.running = some img ∧
    u.mgt.fuses.burn img ≠ u.mgt.fuses :=
  ⟨staging 3#3 img0, i3cReq [], _, img0, rfl, admitted_i3c rfl, rfl, rfl, fun h => absurd (congrArg Fuses.rollback h) (by decide)⟩
theorem witness_keys : Admitted (onBus ready0) 0x50 true (i3cReq (List.replicate 16 1#32)) ∧
    Admitted (onBus ready0) 0x51 true (i3cReq (0x80013FFF#32 :: List.replicate 5 0#32)) ∧ (0x80013FFF#32 : W32) &&& 0x7FFEC000#32 = 0#32 :=
  ⟨admitted_i3c rfl, admitted_i3c rfl, by decide⟩

/-- A STATUS_GET in the mailbox: 64 bytes (spec 17 R448, Table 17-3). -/
def mailState : State :=
  { ready0 with mgt := { Mgt.initial with proxy := some (0, 0), mailbox := Mem.putBytes [] zeroByte 0 (wordsBytes [0x00400001#32, 1#32]) } }
theorem witness_proxyDoorbell : ∃ s cmd q, State.windowUp s = true ∧ s.mgt.proxy.isSome = true ∧
    mailboxRequest (s.rung 64#32).mgt (64#32 : W32).toNat = some (cmd, q) := ⟨mailState, 1, _, rfl, rfl, by rfl⟩

theorem witness_unauthenticated : (∃ s r, State.pathUp s r.path = true ∧ s.phase ≠ .dormant ∧ (r : MgmtReq).path ≠ .i3c ∧
      (mgmtBody 0x50 r.body).1 = true ∧ s.macOk 0x50 r = false) ∧
    ∃ s r, State.pathUp s r.path = true ∧ s.phase ≠ .dormant ∧ (r : MgmtReq).path ≠ .i3c ∧ (mgmtBody 0x50 r.body).1 = true ∧
      s.macOk 0x50 r = true ∧ r.counter.toNat < s.mgt.ctr.toNat :=
  ⟨⟨{ keyed with mgt := Mgt.initial }, portReq 6#64 [], by rfl, by decide, by decide, rfl, by rfl⟩,
   ⟨keyed, portReq 4#64 (goodMac 0x50 4#64), by rfl, by decide, by decide, rfl, keyed_macOk _ _, by decide⟩⟩

/-! ## Tests -/

/-- The state of a next outcome. -/
def nextState : Answer → Option State
  | .next t => some t
  | _ => none

/-! Ill-formed commands are refused by WellFormed -/

theorem test_wf_cmdId : (Instr.ctlNop { iface := 256, queue := 0, ord := 0 }).wf = false ∧
    (Instr.ctlNop { iface := 255, queue := 16, ord := 0 }).wf = false ∧ (Instr.ctlNop { iface := 255, queue := 15, ord := 9 }).wf = true := by
  decide
theorem test_wf_ports : (Instr.linkUp (.host 4)).wf = false ∧ (Instr.linkUp (.link 32)).wf = false ∧ (Instr.linkUp .mgmt).wf = true := by
  decide
theorem test_wf_registers : (Instr.rcCounterRead (.window 256) 0 4).wf = false ∧ (Instr.registerWrite .mgmt 0 2 0#64).wf = false ∧
    (Instr.registerWrite .mgmt 0 8 0#64).wf = true := by decide
theorem test_wf_rates : (Instr.ratePeriod (.qp 4 0)).wf = false ∧ (Instr.ratePeriod (.qp 0 (2 ^ 24))).wf = false ∧
    (Instr.ratePeriod (.path 32 0)).wf = false ∧ (Instr.ratePeriod (.path 0 (2 ^ 14))).wf = false := by decide
theorem test_wf_flows : (Instr.rtoExpiry { demoFlow with part := 32 }).wf = false ∧ (Instr.rtoExpiry { demoFlow with dstModule := 2 ^ 14 }).wf = false ∧
    (Instr.rtoExpiry { demoFlow with dstPart := 32 }).wf = false ∧ (Instr.rtoExpiry { demoFlow with flow := 2 ^ 16 }).wf = false ∧
    (Instr.ackTimerExpiry { srcModule := 2 ^ 14, srcPart := 0, flow := 0 }).wf = false ∧
    (Instr.ackTimerExpiry { srcModule := 0, srcPart := 32, flow := 0 }).wf = false ∧
    (Instr.ackTimerExpiry { srcModule := 0, srcPart := 0, flow := 2 ^ 16 }).wf = false := by decide
theorem test_wf_benzel : (Instr.benzelAckReceive 0 { benzel 1 0#32 with hdr := [] }).wf = false ∧
    (Instr.benzelAckReceive 32 (benzel 1 0#32)).wf = false ∧ (Instr.benzelAckReceive 31 (benzel 1 0#32)).wf = true := by decide
theorem test_wf_faults : (Instr.faultDetect (detection 0x60)).wf = false ∧ (Instr.faultDetect { detection 0 with part := some 32 }).wf = false ∧
    (Instr.recordClear 0x60 0#32).wf = false ∧ (Instr.severityWrite 0x60 0#32).wf = false := by decide
theorem test_wf_memory : (Instr.weightDeadline demoId 4096).wf = false ∧ (Instr.stagingFetchComplete 4096).wf = false ∧
    (Instr.tableRefill 0 128).wf = false ∧ (Instr.pinDrop 32).wf = false ∧ (Instr.kvDeadlineExpiry 0 16384).wf = false := by decide
theorem test_wf_queues : (Instr.doorbellWrite 256 0 0#32).wf = false ∧ (Instr.doorbellWrite 0 16 0#32).wf = false ∧
    (Instr.completionEntryWrite 256).wf = false := by decide
theorem test_wf_host : (Instr.pfcWatchdog 4).wf = false ∧ (Instr.roceCnpReceive 0 (2 ^ 24)).wf = false ∧
    (Instr.pfcFrameReceive (.host 0) 8 true).wf = false ∧ (Instr.lpiEntry 32).wf = false ∧ (Instr.seedLaneSwap 2 0).wf = false := by decide
theorem test_wf_repairs : (Instr.tokenGrant 9).wf = false ∧ (Instr.hbmRowRepair 8).wf = false ∧ (Instr.seedTileSwap 128).wf = false ∧
    (Instr.vectorLaneReplace 0 64).wf = false ∧ (Instr.randomTableRekey 8).wf = false ∧ (Instr.rdimmTempRead 8 0).wf = false ∧
    (Instr.thermalLoop { hottest := 0, sensor := 256, fraction := 0 }).wf = false ∧
    (Instr.thermalLoop { hottest := 0, sensor := 0, fraction := 17 }).wf = false := by decide

/-! The spec's worked examples -/

/-- Table 3-6: FP32 values into E4M3 (format code 3), and how each is classified. -/
theorem test_e4m3 : encodeElem 3 false none (decode32 0x3E99999A#32) = (0x2A, .fine) ∧
    encodeElem 3 false none (decode32 0x41880000#32) = (0x58, .fine) ∧ encodeElem 3 false none (decode32 0x43E60000#32) = (0x7E, .fine) ∧
    encodeElem 3 false none (decode32 0x43E80000#32) = (0x7E, .fine) ∧
    encodeElem 3 false none (decode32 0x43FA0000#32) = (0x7E, .overflowed) ∧
    encodeElem 3 true none (decode32 0x43FA0000#32) = (0x7F, .overflowed) ∧
    encodeElem 3 false none (decode32 0x3A9D4952#32) = (0x01, .fine) ∧
    encodeElem 3 false none (decode32 0xBA6BEDFA#32) = (0x80, .vanished) := by decide +kernel

/-- Table 3-7: requantisation with m = 2³⁰, s = 35, and with m = 1,717,986,918, s = 39 (result, overflowed, vanished). -/
theorem test_requantise : requantise 8 0x40000000#32 35 1040 = (33, false, false, 33) ∧
    requantise 8 0x40000000#32 35 (-1040) = (-33, false, false, -33) ∧ requantise 8 0x40000000#32 35 4400 = (127, true, false, 138) ∧
    requantise 8 0x40000000#32 35 15 = (0, false, true, 0) ∧ requantise 8 0x66666666#32 39 40000 = (125, false, false, 125) := by
  decide +kernel

/-- The row of R95's example: 3,000,000.5 twice, 3,000,000.75, 3,000,000.25 has mean 3,000,000.5 and variance 0.03125. -/
theorem test_statistics : meanVar [0x4A371B02#32, 0x4A371B02#32, 0x4A371B03#32, 0x4A371B01#32] = (0x4A371B02#32, 0x3D000000#32) := by
  decide +kernel

/-- Table 8-4: record 3 has RETURN 1.0 and ADVANTAGE 0.25; record 2 has RETURN 0.99 and ADVANTAGE 0.352625. -/
theorem test_scan : scanStep 0x3F7D70A4#32 (fmul 0x3F7D70A4#32 0x3F733333#32) 0x3F800000#32 0x3F400000#32 0#32 0#32 0#32 =
      (0x3F800000#32, 0x3E800000#32, 0x3F400000#32) ∧
    (scanStep 0x3F7D70A4#32 (fmul 0x3F7D70A4#32 0x3F733333#32) 0#32 0x3F200000#32 0x3F800000#32 0x3E800000#32 0x3F400000#32).1 =
      0x3F7D70A4#32 := by decide +kernel

/-- Table 14-5: one element over five voters in the tree of rank 2 gives 2⁻²³. -/
theorem test_tree : pairSum [0x3F800000#32, 0x33800000#32, 0x33800000#32, 0xBF800000#32, 0x33800000#32] = 0x34000000#32 := by decide +kernel

/-- Table 7-3: the level at the millisecond boundaries: 0 becomes 40,000, −9,152 becomes 30,848, −1,920 becomes 38,080. -/
def limited (level : Int) : Iface := { demoIface with tokCfg := 1#32, tokRate := 40000#32, tokDepth := 65536#32, tokLevel := level }
theorem test_budget : (limited 0).refill.tokLevel = 40000 ∧ (limited (-9152)).refill.tokLevel = 30848 ∧
    (limited (-1920)).refill.tokLevel = 38080 := by decide +kernel

/-- Table 16-2: a window of 2 µs at 2,200 W spends 0.8 mJ of A. -/
theorem test_allowance : (nextState (exec (.powerWindow 2200000) ready0)).map (·.pwr.allow) = some (16000000000 - 800000) := by
  decide +kernel

/-- CRC-32C of the ASCII digits 1 to 9, the check value of its definition (Castagnoli; spec 14 R371). -/
theorem test_crc32c : crc32c [0x31#8, 0x32#8, 0x33#8, 0x34#8, 0x35#8, 0x36#8, 0x37#8, 0x38#8, 0x39#8] = 0xE3069283#32 := by decide +kernel

/-- The first block of Philox-4x32-10 for a zero key and a zero counter, from its published known-answer test. -/
theorem test_philox : (List.range 4).map (ctrWord 0#64 0 0 0) = [0x6627E8D5#32, 0xE169C58D#32, 0xBC57AC4C#32, 0x9B00DBD8#32] := by
  decide +kernel

/-! One step -/

/-- RESET_RELEASE boots the module of State.reset to Ready (spec 17 Table 17-2; 18 R466). -/
theorem test_boot : (nextState (exec .resetRelease State.reset)).map (fun s => (s.phase, s.pwr.state, s.pins.booted)) =
    some (.running, 1#3, true) := by decide +kernel
theorem test_tick : (nextState (step ready0)).map (·.clk.localUs) = some 1 := by decide +kernel
theorem test_nop : (nextState (exec (.ctlNop demoId) (one 0 0x0101 [] []))).map (fun s => s.cmds.map (·.phase)) =
    some [.ready (Result.bare stOK)] := by decide +kernel
/-- A CTL_NOP that completes leaves one reply, whose status is OK (spec 11 Table 11-4). -/
theorem test_completion : (nextState (exec (.commandCompletion 0) (readyState 0x0101 (Result.bare stOK)))).map
    (fun s => (s.cmds.length, s.ifaces.map fun f => (f.queue? 0).map (·.done.map (·.status)))) = some (0, [some [0]]) := by decide +kernel
theorem test_evtWait_waits : (nextState (exec (.evtWait demoId) (one 0 0x0802 [0#32, 1#32] []))).map (fun s => s.cmds.map (·.phase)) =
    some [.dispatched] := by decide +kernel
theorem test_semAcquire_waits : (nextState (exec (.semAcquire demoId) (one 0 0x0804 [0#32, 1#32] []))).map (fun s => s.cmds.map (·.phase)) =
    some [.dispatched] := by decide +kernel
/-- QUE_CREATE with LOG2 14 breaks its rule: BAD_PACKET at the first byte of its second parameter (spec 11 R287, R291). -/
theorem test_queCreate_field : (nextState (exec (.queCreate demoId) (one 0 0x0102 [1#32, 14#32] []))).map (fun s => s.cmds.map (·.phase)) =
    some [.ready (Result.bad 68)] := by decide +kernel
/-- A GENERATE partition does not accept LEARN_STEP: BAD_PACKET without an offset (spec 01 R19). -/
theorem test_role : (nextState (exec (.learnStep demoId) (one 0 0x0502 [] []))).map (fun s => s.cmds.map (·.phase)) =
    some [.ready Result.badState] := by decide +kernel
/-- VEC_EWISE copies 1.0 and 2.0 (spec 11 Table 11-7, code 0): its elements carry their patterns. -/
theorem test_vecEwise : (nextState (exec (.vecEwise demoId) (one 0 0x0302 (vecWords 7#32)
    [buf 7#32 0#8 8 [0#8, 0#8, 0x80#8, 0x3F#8, 0#8, 0#8, 0#8, 0x40#8], buf 8#32 0#8 8 []]))).map
    (fun s => s.cmds.map fun c => match c.phase with | .ready r => r.writes.map (·.elems) | _ => []) =
    some [[[(0, 0x3F800000), (1, 0x40000000)]]] := by decide +kernel
/-- MATMUL of [1, 2] with the identity in BF16 gives 1.0 and 2.0. -/
def oneTwo : Alloc := buf 7#32 1#8 4 [0x80#8, 0x3F#8, 0#8, 0x40#8]
def identity : Alloc :=
  { buf 8#32 1#8 8 [0x80#8, 0x3F#8, 0#8, 0#8, 0#8, 0#8, 0x80#8, 0x3F#8] with rank := 2, dims := [2, 2] }
theorem test_matmul : (matResult (one 0 0x0301 matWords [oneTwo, identity, buf 9#32 0#8 8 []])
    (oneCmd 0 0x0301 matWords [oneTwo, identity, buf 9#32 0#8 8 []]) (oneEnv 0 [oneTwo, identity, buf 9#32 0#8 8 []])
    oneTwo identity (buf 9#32 0#8 8 [])).writes.map (·.elems) = [[(0, 0x3F800000), (1, 0x40000000)]] := by decide +kernel
/-- Source 0x26 is FATAL: the module enters the safe state (spec 15 Table 15-1, R397). -/
theorem test_fatal : (nextState (exec (.faultDetect (detection 0x26)) ready0)).map (fun s => (s.flt.safe, s.faultN)) = some (true, true) := by
  decide +kernel
theorem test_severity_locked : (nextState (exec (.severityWrite 0x26 0#32) ready0)).map (·.severity 0x26) = some 4 := by decide +kernel
theorem test_noSuchUnit : exec (.linkUp (.link 32)) ready0 = .fault .noSuchUnit := by rfl
/-- The table gives no row a word: nothing decodes. -/
theorem test_decode : decodeTableWord 16 0x0101 = none := rfl
theorem test_reset_held : State.reset.awake = false ∧ State.reset.pending = [] := ⟨rfl, rfl⟩

end Sys2Proof.Machine
end

section
/-!
PROOFS. The rows of a control window and of its registers (spec 00 R13; 07 R205; 12 R330; 15 R401): what waking keeps of the
lookups, what each operation of a window does, what each row runs while the window is up, and O23 from these.
-/
namespace Sys2Proof.Machine

variable {s : State} {i : Nat} {f : Iface}

/-! ## Waking leaves interfaces and contexts -/

@[simp] theorem State.wake_ifaces (s : State) : s.wake.ifaces = s.ifaces := by
  unfold State.wake
  split <;> rfl

@[simp] theorem State.wake_ctxs (s : State) : s.wake.ctxs = s.ctxs := by
  unfold State.wake
  split <;> rfl

@[simp] theorem State.wake_iface? (s : State) (i : Nat) : s.wake.iface? i = s.iface? i := by
  simp only [State.iface?, State.wake_ifaces]

@[simp] theorem State.wake_ctx? (s : State) (n : Nat) : s.wake.ctx? n = s.ctx? n := by
  simp only [State.ctx?, State.wake_ctxs]

/-! ## The read pointer of the completion ring (07 R205) -/

theorem cringRd_ring {h : W32} {n : Nat} (hf : s.iface? i = some f) (hc : f.cring = some (h, n)) (v : W32) :
    cringRd s i v = if (f.cringWr - v).toNat ≤ n then s.modIface i fun g => { g with cringRd := v }
      else s.discard i causeR205 true 0x1A28 := by
  simp only [cringRd, hf, hc, decide_eq_true_eq]

/-- Without a ring the read pointer can only be put where the write pointer is. -/
theorem cringRd_noRing (hf : s.iface? i = some f) (hc : f.cring = none) (v : W32) :
    cringRd s i v = if v = f.cringWr then s.modIface i fun g => { g with cringRd := v }
      else s.discard i causeR205 true 0x1A28 := by
  simp only [cringRd, hf, hc, beq_iff_eq]

/-! ## The context snapshot (12 R330) -/

theorem ctxSelect_own {v : W32} {x : Ctx} (hx : s.ctx? (field v 11 0) = some x) (hi : x.iface = i) :
    ctxSelect s i v = s.modIface i fun g => { g with
      ctxSel := v &&& 0xFFF#32, snapTime := lowWord s.clk.localUs, snap := x.acct
      snapStatus := packed [(0, x.st.code), (4, x.prio), (8, boolNat (s.ctxWaiting x)), (16, x.foot / 4)] } := by
  simp only [ctxSelect, hx, Option.filter_some, hi, beq_self_eq_true, if_true]

theorem ctxSelect_other {v : W32} (h : (s.ctx? (field v 11 0)).filter (·.iface == i) = none) :
    ctxSelect s i v = s.modIface i fun g => { g with
      ctxSel := v &&& 0xFFF#32, snapTime := 0#32, snap := { eng := [], bytes := [], energy := 0 }, snapStatus := 7#32 } := by
  simp only [ctxSelect, h]

/-! ## Accesses of a register (00 R13) -/

theorem accessOk_word {off : Nat} (hn : windowWide off = false) (ha : off % 4 = 0) : accessOk off 4 = true := by
  simp [accessOk, hn, ha]

theorem windowRead_word {off : Nat} (h : accessOk off 4 = true) (f : Iface) :
    windowRead s f off 4 = (s.modIface f.num (·.afterRead off), BitVec.ofNat 64 (s.windowReg f off).toNat) := by
  simp [windowRead, h]

theorem windowRead_bad {off width : Nat} (h : accessOk off width = false) (f : Iface) :
    windowRead s f off width = (s.discard f.num causeR13 false off, 0#64) := by
  simp [windowRead, h]

theorem windowWrite_word {off : Nat} (h : accessOk off 4 = true) (i : Nat) (v : W64) :
    windowWrite s i off 4 v = windowSet s i off (v.truncate 32) := by
  simp [windowWrite, h]

theorem windowWrite_bad {off width : Nat} (h : accessOk off width = false) (i : Nat) (v : W64) :
    windowWrite s i off width v = s.discard i causeR13 true off := by
  simp [windowWrite, h]

/-! ## The rows while the window is up -/

theorem exec_cringRdWrite_up (hup : s.windowUp = true) (i : Nat) (v : W32) :
    exec (.cringRdWrite i v) s = .next (cringRd s.wake i v) := by
  show execCringRdWrite i v s = _
  rw [execCringRdWrite, if_pos hup]

theorem exec_viewPendClear_up (hup : s.windowUp = true) (i : Nat) (v : W32) :
    exec (.viewPendClear i v) s = .next (viewClear s.wake i v) := by
  show execViewPendClear i v s = _
  rw [execViewPendClear, if_pos hup]

theorem exec_ctxSelWrite_up (hup : s.windowUp = true) (hf : s.iface? i = some f) (v : W32) :
    exec (.ctxSelWrite i v) s = .next (ctxSelect s.wake i v) := by
  show execCtxSelWrite i v s = _
  simp [execCtxSelWrite, hup, hf]

theorem exec_rcCounterRead_window (hup : s.windowUp = true) (hf : s.iface? i = some f) (off width : Nat) :
    exec (.rcCounterRead (.window i) off width) s =
      .next ((windowRead s.wake f off width).1.emit (.regValue (windowRead s.wake f off width).2)) := by
  show execRcCounterRead (.window i) off width s = _
  simp [execRcCounterRead, registerRead, hup, hf]

theorem exec_registerWrite_window (hup : s.windowUp = true) (hf : s.iface? i = some f) (off width : Nat) (w : W64) :
    exec (.registerWrite (.window i) off width w) s = .next (windowWrite s.wake i off width w) := by
  show execRegisterWrite (.window i) off width w s = _
  simp [execRegisterWrite, registerSet, hup, hf]

/-! ## O23 -/

/-- Settles O23: each row runs its window operation on the woken module, which finds the same interface and context. -/
theorem windowRegisters : Obligations.WindowRegisters := by
  intro s i off v w f hup hf
  have hf' : s.wake.iface? i = some f := (s.wake_iface? i).trans hf
  refine ⟨fun h n hc hn => ?_, fun h n hc hn => ?_, fun hc => ?_, fun x hx hi => ?_, fun hx => ?_,
    exec_viewPendClear_up hup i v, fun hn ha => ?_, fun hn ha => ?_, fun width hbad => ⟨?_, ?_⟩⟩
  · rw [exec_cringRdWrite_up hup, cringRd_ring hf' hc, if_pos hn]
  · rw [exec_cringRdWrite_up hup, cringRd_ring hf' hc, if_neg (Nat.not_le.mpr hn)]
  · rw [exec_cringRdWrite_up hup, cringRd_noRing hf' hc]
  · rw [exec_ctxSelWrite_up hup hf, ctxSelect_own ((s.wake_ctx? _).trans hx) hi]
  · rw [exec_ctxSelWrite_up hup hf, ctxSelect_other ((s.wake_ctx? _).symm ▸ hx)]
  · rw [exec_rcCounterRead_window hup hf, windowRead_word (accessOk_word hn ha)]
  · rw [exec_registerWrite_window hup hf, windowWrite_word (accessOk_word hn ha)]
  · rw [exec_rcCounterRead_window hup hf, windowRead_bad hbad]
  · rw [exec_registerWrite_window hup hf, windowWrite_bad hbad]

end Sys2Proof.Machine
end

section
/-!
PROOFS. The compute rows (spec 02 R51 to R53; 03 R81 to R83; 04; 09; 11 R287, R472): what a scoreboard keeps, what running
work items leaves unchanged, what each opcode's function answers once its checks pass, and O4 from these.
-/
namespace Sys2Proof.Machine

/-! ## Scoreboards (02 R51, R53) -/

theorem dropFirst_eq_eraseP {α : Type} (p : α → Bool) (l : List α) : dropFirst p l = l.eraseP p := by
  induction l with
  | nil => rfl
  | cons x r ih =>
    rw [dropFirst, List.eraseP_cons, ih]
    cases p x <;> rfl

theorem Board.topUp_length {b : Board} (h : b.entries.length ≤ 64) : b.topUp.entries.length ≤ 64 := by
  simp only [Board.topUp, boardSize, List.length_append, List.length_take]
  omega

theorem Board.topUp_order (b : Board) : b.topUp.entries ++ b.topUp.held = b.entries ++ b.held := by
  simp only [Board.topUp, List.append_assoc, List.take_append_drop]

theorem Board.insert_length {b : Board} (h : b.entries.length ≤ 64) (i : WorkItem) : (b.insert i).entries.length ≤ 64 :=
  Board.topUp_length h

/-- An item is inserted behind every entry and every item that is held. -/
theorem Board.insert_order (b : Board) (i : WorkItem) :
    (b.insert i).entries ++ (b.insert i).held = b.entries ++ (b.held ++ [i]) := Board.topUp_order _

theorem Board.issue_length {b : Board} (h : b.entries.length ≤ 64) (i : WorkItem) : (b.issue i).entries.length ≤ 64 := by
  refine Board.topUp_length (b := { b with entries := dropFirst (· == i) b.entries }) ?_
  rw [dropFirst_eq_eraseP]
  exact Nat.le_trans List.length_eraseP_le h

theorem Board.forget_length {b : Board} (h : b.entries.length ≤ 64) (c : CmdId) : (b.forget c).entries.length ≤ 64 :=
  Board.topUp_length (b := { entries := b.entries.filter (·.cmd != c), held := b.held.filter (·.cmd != c) })
    (Nat.le_trans (List.length_filter_le _ _) h)

/-- The entry that the array takes is ready, and no older entry is. -/
theorem Board.oldestReady_some {b : Board} {ready : WorkItem → Bool} {i : WorkItem} (h : b.oldestReady ready = some i) :
    ready i = true ∧ ∃ l r, b.entries = l ++ i :: r ∧ ∀ y ∈ l, ready y = false := by
  obtain ⟨hi, l, r, hb, hl⟩ := List.find?_eq_some_iff_append.mp h
  exact ⟨hi, l, r, hb, fun y hy => by simpa using hl y hy⟩

/-! ## Work items -/

/-- Running work items changes the boards and the commands only. -/
theorem State.runItems_eq (s : State) (c : Cmd) (e : Env) (ps : List Product) :
    ∃ b cs, s.runItems c e ps = { s with boards := b, cmds := cs } := by
  unfold State.runItems
  dsimp only
  split
  · obtain ⟨b, hb⟩ := State.drainBoards_eq (sumBy (fun b => b.2.entries.length + b.2.held.length) s.boards) s
    exact ⟨_, s.cmds, by rw [hb]⟩
  · generalize hu : (s.insertItems c e (itemsOf c.id ps)).modCmd c.id (fun k => { k with inserted := true }) = u
    obtain ⟨b, hb⟩ := State.drainBoards_eq (sumBy (fun b => b.2.entries.length + b.2.held.length) u.boards) u
    exact ⟨_, u.cmds, by rw [hb, ← hu]; rfl⟩

theorem State.runItems_undrained {s : State} {id : CmdId} (h : s.undrained id) (c : Cmd) (e : Env) (ps : List Product) :
    (s.runItems c e ps).undrained id := by
  obtain ⟨b, cs, hr⟩ := s.runItems_eq c e ps
  rw [hr]
  exact h

/-! ## Rows that become ready -/

variable {s t : State} {id : CmdId} {k : Cmd} {e : Env}

/-- A row whose command has a result becomes ready with it where no checkpoint drains. -/
theorem exec_ready {op : Nat} {i : Instr} {f : State → Cmd → Env → State × Option Result} {r : Result}
    (hi : exec i s = runOp op id s f) (h : Runs s op id k e) (hd : t.undrained id) (hf : f s k e = (t, some r)) :
    exec i s = .next (t.markReady id r) := by
  have hk := h.id_eq
  subst hk
  rw [hi, runOp_runs h, hf]
  simp only [finishRow_undrained hd]

theorem finishAt_free {at_ : Nat → Nat → Spot} {outs : List OutSpec} {r : Result}
    (h : mustWait s k e (outs.map (·.ref)) = false) : finishAt s k e at_ outs r = (s, some (outsAt s k e at_ outs r)) := by
  simp only [finishAt, h, Bool.false_eq_true, if_false, outsAt]

/-- A row command whose rows fit the tile, and which need not wait for the generators, answers its rows' outputs. -/
theorem finishRows_fits {fmt : Byte} {n room : Nat} {per : Nat → Nat} {outs : List OutSpec} {r : Result}
    (hr : s.rowFits e fmt n room = true) (hw : mustWait s k e (outs.map (·.ref)) = false) :
    (if !s.rowFits e fmt n room then (s, some (Result.bare stNO_RESOURCE)) else finishRows s k e per outs r) =
      (s, some (rowsResult s k e per outs r)) := by
  rw [hr]
  exact finishAt_free hw

/-! ## Element-wise commands -/

theorem runVecEwise_ready (hc : s.clean) (hf : fieldsOk (vecFields k e)) (ha : bitAt k.flags 0 = false)
    (hw : mustWait s k e [k.t 4] = false) :
    runVecEwise s k e = (s, some (outsResult s k e [vecOut k e] (Result.bare stOK))) := by
  unfold runVecEwise
  dsimp only
  rw [checked_pass hf rfl hc]
  simp only [ha, Bool.false_eq_true, if_false]
  exact finishAt_free hw

theorem runSfuEval_ready (hc : s.clean) (hf : fieldsOk (sfuFields k e))
    (hb : k.n 0 < 0x10 ∨ (boundCustom e (k.n 0)).isSome = true) (hw : mustWait s k e [k.t 2] = false) :
    runSfuEval s k e = (s, some (outsResult s k e (sfuOuts k e) (Result.bare stOK))) := by
  have hst : (decide (k.n 0 < 0x10) || (boundCustom e (k.n 0)).isSome) = true := by simpa using hb
  unfold runSfuEval
  dsimp only
  rw [checked_pass hf hst hc]
  exact finishAt_free hw

theorem runLossClip_ready (hc : s.clean) (hf : fieldsOk (lossClipFields k e))
    (hw : mustWait s k e [k.t 3, k.t 4, k.t 5] = false) :
    runLossClip s k e = (s, some (outsResult s k e (lossClipOuts k e) { Result.bare stOK with
      aux0 := BitVec.ofNat 32 (e.len (k.t 0)), aux1 := BitVec.ofNat 32 ((lossClipTokens k e).countP (·.2.2)) })) := by
  unfold runLossClip
  rw [checked_pass hf rfl hc]
  exact finishAt_free hw

/-! ## Row commands (04 R90) -/

theorem runRowSoftmax_ready (hc : s.clean) (hf : fieldsOk (softmaxFields k e))
    (hr : s.rowFits e (k.t 0).fmt (k.n 2) 4 = true) (hw : mustWait s k e [k.t 1] = false) :
    runRowSoftmax s k e = (s, some (rowsResult s k e (fun _ => k.n 2) (softmaxOuts k e) (Result.bare stOK))) := by
  unfold runRowSoftmax
  rw [checked_pass hf rfl hc]
  exact finishRows_fits hr hw

theorem runRowNorm_ready (hc : s.clean) (hf : fieldsOk (normFields k e))
    (hr : s.rowFits e (k.t 0).fmt (k.n 6) 0 = true) (hw : mustWait s k e [k.t 1, k.t 2, k.t 3] = false) :
    runRowNorm s k e = (s, some (rowsResult s k e (fun o => if o = 2 then k.n 6 else 1) (normOuts k e) (Result.bare stOK))) := by
  unfold runRowNorm
  rw [checked_pass hf rfl hc]
  exact finishRows_fits hr hw

theorem runLossGather_ready (hc : s.clean) (hf : fieldsOk (lossGatherFields k e))
    (hr : s.rowFits e (k.t 0).fmt (k.n 6) 4 = true) (hw : mustWait s k e [k.t 2, k.t 3, k.t 4, k.t 5] = false) :
    runLossGather s k e = (s, some (rowsResult s k e (fun _ => 1) (lossGatherOuts k e) (Result.bare stOK))) := by
  unfold runLossGather
  rw [checked_pass hf rfl hc]
  exact finishRows_fits hr hw

theorem runLossReduce_ready (hc : s.clean) (hf : fieldsOk (lossReduceFields k e))
    (hr : s.rowFits e (k.t 0).fmt (e.len (k.t 0)) 0 = true) (hw : mustWait s k e [k.t 3, k.t 4] = false) :
    runLossReduce s k e =
      (s, some (rowsResult s k e (fun _ => e.len (k.t 0)) (lossReduceOuts k e) (Result.bare stOK))) := by
  unfold runLossReduce
  rw [checked_pass hf rfl hc]
  exact finishRows_fits hr hw

/-! ## MATMUL -/

variable {x w o : Alloc}

theorem matBody_ready (h : requantises x w o = true ∨ mustWait s k e [k.t 6, k.t 7, k.t 8] = false) :
    matBody s k e x w o = (s, some (matResult s k e x w o)) := by
  unfold matBody
  rw [if_neg]
  rintro ⟨hq, hm⟩
  rcases h with h | h
  · exact absurd (hq.symm.trans h) (by decide)
  · exact absurd (h.symm.trans hm) (by decide)

section
variable (hc : s.clean) (hf : fieldsOk (matFields k e)) (hx : e.alloc? (k.t 0).handle = some x)
  (hw : e.alloc? (k.t 1).handle = some w) (ho : e.alloc? (k.t 6).handle = some o)
  (hdone : (s.runItems k e [matProduct k x w]).itemsDone k.id = true)
include hc hf hx hw ho hdone

/-- Once its items have run, a MATMUL by the forward weight answers its result. -/
theorem runMatmul_forward (hn : k.n 13 ≠ 1) : runMatmul s k e = matBody (s.runItems k e [matProduct k x w]) k e x w o := by
  unfold runMatmul
  rw [checked_pass hf rfl hc]
  simp only [hx, hw, ho, hdone, hn, Bool.not_true, Bool.false_eq_true, if_false]

/-- A MATMUL by the transposed copy reads the copy as its items left it, once every tag is current. -/
theorem runMatmul_transposed {v v' : Alloc} (hn : k.n 13 = 1)
    (htags : ((s.runItems k e [matProduct k x w]).alloc? e.part.num w.handle).map tagsCurrent = some true)
    (hv : w.transposed = some v)
    (hv' : ((s.runItems k e [matProduct k x w]).alloc? e.part.num w.handle).bind (·.transposed) = some v') :
    runMatmul s k e = matBody (s.runItems k e [matProduct k x w]) k e x { v with mem := v'.mem } o := by
  unfold runMatmul
  rw [checked_pass hf rfl hc]
  simp only [hx, hw, ho, hdone, hn, htags, hv, hv', Bool.not_true, Bool.false_eq_true, if_false, if_true]

end

/-! ## Fields that break their rules (11 R287, R472) -/

theorem runMatmul_bad {n : Nat} (h : firstBad (matFields k e) = some n) :
    runMatmul s k e = (s, some (Result.bad (paramStart k.opcode n))) := checked_bad h

theorem runVecEwise_bad {n : Nat} (h : firstBad (vecFields k e) = some n) :
    runVecEwise s k e = (s, some (Result.bad (paramStart k.opcode n))) := by
  unfold runVecEwise
  exact checked_bad h

theorem runSfuEval_bad {n : Nat} (h : firstBad (sfuFields k e) = some n) :
    runSfuEval s k e = (s, some (Result.bad (paramStart k.opcode n))) := by
  unfold runSfuEval
  exact checked_bad h

/-! ## O4 -/

/-- Settles O4: each row whose command runs becomes ready with what its function answers; the scoreboards by `topUp`. -/
theorem computeRowsComplete : Obligations.ComputeRowsComplete := by
  intro s id k e x w o hc hd
  refine ⟨?matmul, ?transposed, ?board, ?vecEwise, ?sfuEval, ?softmax, ?norm, ?gather, ?clip, ?reduce, ?bad⟩
  case matmul =>
    rintro t h hf hx hw ho hn rfl hdone hq
    rw [← h.id_eq] at hdone
    exact exec_ready rfl h (State.runItems_undrained hd _ _ _)
      ((runMatmul_forward hc hf hx hw ho hdone hn).trans (matBody_ready hq))
  case transposed =>
    rintro t v v' h hf hx hw ho hn rfl hdone htags hv hv' hq
    rw [← h.id_eq] at hdone
    exact exec_ready rfl h (State.runItems_undrained hd _ _ _)
      ((runMatmul_transposed hc hf hx hw ho hdone hn htags hv hv').trans (matBody_ready hq))
  case board =>
    intro b i ready hb
    exact ⟨b.insert_length hb i, b.insert_order i, b.issue_length hb i, b.forget_length hb id, Board.oldestReady_some⟩
  case vecEwise => exact fun h hf ha hw => exec_ready rfl h hd (runVecEwise_ready hc hf ha hw)
  case sfuEval => exact fun h hf hb hw => exec_ready rfl h hd (runSfuEval_ready hc hf hb hw)
  case softmax => exact fun h hf hr hw => exec_ready rfl h hd (runRowSoftmax_ready hc hf hr hw)
  case norm => exact fun h hf hr hw => exec_ready rfl h hd (runRowNorm_ready hc hf hr hw)
  case gather => exact fun h hf hr hw => exec_ready rfl h hd (runLossGather_ready hc hf hr hw)
  case clip => exact fun h hf hw => exec_ready rfl h hd (runLossClip_ready hc hf hw)
  case reduce => exact fun h hf hr hw => exec_ready rfl h hd (runLossReduce_ready hc hf hr hw)
  case bad =>
    exact fun n => ⟨fun h hb => exec_ready rfl h hd (runMatmul_bad hb), fun h hb => exec_ready rfl h hd (runVecEwise_bad hb),
      fun h hb => exec_ready rfl h hd (runSfuEval_bad hb)⟩

end Sys2Proof.Machine
end

section
/-!
PROOFS. Repairs and timed activities (spec 02 R30, R31; 05 R120; 14 R384; 15 R403 to R405, R409; 16 R434): a released token is
not held, and what follows its release is calm, so it stays so; O45 from these.
-/
namespace Sys2Proof.Machine

variable {s t : State}

/-! ## Tokens and lanes -/

theorem State.holds_releaseToken (s : State) (x : Token) : (s.releaseToken x).holds x = false := by
  simp [State.holds, State.releaseToken, State.touch]

/-- A token that is not held stays so where no token is taken. -/
theorem Calm.not_held (h : Calm s t) {x : Token} (hx : s.holds x = false) : t.holds x = false := by
  simp only [State.holds, List.contains_eq_mem, decide_eq_false_iff_not] at hx ⊢
  exact fun hm => hx (h.held x hm)

theorem State.link?_modLink (s : State) (k : Nat) (f : Link → Link) : (s.modLink k f).link? k = (s.link? k).map f := by
  have h : (s.modLink k f).net.links.find? (·.1 == k) = (s.net.links.find? (·.1 == k)).map fun e => (e.1, f e.2) :=
    find_modWhere (f := fun e : Nat × Link => (e.1, f e.2)) fun _ he => he
  unfold State.link?
  rw [h, Option.map_map, Option.map_map]
  rfl

/-- A calm change leaves a seed lane's link a working one. -/
theorem Calm.seeded_link (h : Calm s t) {k : Nat} {l : Link} (hl : s.link? k = some l) (hs : l.seed = true)
    (hf : l.failed = false) : ∃ l', t.link? k = some l' ∧ l'.seed = true ∧ l'.failed = false := by
  have hk := h.lanes k
  rw [hl, Option.map_some, hs, hf] at hk
  obtain ⟨l', hl', he⟩ := Option.map_eq_some_iff.mp hk
  exact ⟨l', hl', congrArg Prod.fst he, congrArg Prod.snd he⟩

/-! ## Calm operations of the repairs -/

theorem Calm.requestToken (s : State) (x : Token) : Calm s (s.requestToken x) := by
  unfold State.requestToken
  split
  · exact .refl s
  · exact .modMaint s fun _ _ h => h

theorem Calm.mapRepair (s : State) (kind unit : Nat) : Calm s (s.mapRepair kind unit) := .modMaint s fun _ _ h => h

theorem Calm.markFailing (s : State) (tile : Nat) : Calm s (markFailing s tile) := by
  unfold Machine.markFailing
  dsimp only
  split
  · exact .refl s
  · split
    · refine .trans ?_ (.requestToken _ _)
      exact .modMaint s fun _ _ h => h
    · refine .trans ?_ (.detect _ _)
      refine .trans ?_ (.modParts _ _ (fun _ => rfl) fun _ h => h)
      exact .modMaint s fun _ _ h => h

theorem Calm.trainLink (s : State) (k : Nat) : Calm s (s.trainLink k) := by
  unfold State.trainLink
  split
  · exact .refl s
  · split
    · exact .modLink s k fun _ => ⟨rfl, rfl⟩
    · exact .refl s

/-! ## Rows that repair under their token -/

/-- An HBM row repair releases its token; whatever is left of the stack's spare rows, the rest is calm. -/
theorem execHbmRowRepair_held {k : Nat} (hl : s.live = true) (hk : k < 8) (hh : s.holds (repairToken k) = true) :
    ∃ t, execHbmRowRepair k s = .next t ∧ Calm (s.releaseToken (repairToken k)) t := by
  unfold execHbmRowRepair
  simp only [hk, hl, hh, decide_true, Bool.not_true, Bool.and_self, Bool.false_eq_true, if_false, if_true]
  refine ⟨_, rfl, ?_⟩
  generalize max (Tab.get _ k 0) _ = how
  refine .trans (.useFresh _) (.trans (.modMaint _ (f := fun m => { m with
    rowErrs := m.rowErrs.filter fun x => x.1.1 != 128 + k, spares := Tab.set m.spares k how }) fun _ _ h => h) ?_)
  generalize State.modMaint _ _ = u
  have hmap : Calm u (if how = 3 then u else u.mapRepair repairHbm k) := by
    split
    · exact .refl u
    · exact .mapRepair u _ _
  refine .trans hmap ?_
  generalize (if how = 3 then u else u.mapRepair repairHbm k) = v
  split
  · exact .detect _ _
  · exact .detect _ _
  · exact .trans (.detect _ _) (.detect _ _)
  · exact .detect _ _

/-- A seed row swap releases its token; with a seed row left or without one, the rest is calm. -/
theorem execSeedRowSwap_held {tile row : Nat} (hl : s.live = true) (ht : tile < 128) (hh : s.holds (rowToken tile row) = true) :
    ∃ t, execSeedRowSwap tile row s = .next t ∧ Calm (s.releaseToken (rowToken tile row)) t := by
  unfold execSeedRowSwap
  simp only [ht, hl, hh, decide_true, Bool.not_true, Bool.and_self, Bool.false_eq_true, if_false, if_true]
  split
  · refine ⟨_, rfl, .trans (.useFresh _) (.trans (.trans ?_ (.mapRepair _ _ _)) (.detect _ _))⟩
    exact .modMaint _ fun _ _ h => h
  · exact ⟨_, rfl, .trans (.useFresh _) (.markFailing _ _)⟩

theorem execSeedTileSwap_held {tile : Nat} (hl : s.live = true) (ht : tile < 128) (hh : s.holds (tileToken tile) = true) :
    execSeedTileSwap tile s =
      .next (((((s.releaseToken (tileToken tile)).modMaint (·.seeded tile)).mapRepair repairTile tile).detect
        (unitFault 0x08 tile (s.tileOwner tile))).noteSched) := by
  unfold execSeedTileSwap
  simp only [ht, hl, hh, decide_true, Bool.not_true, Bool.and_self, Bool.false_eq_true, if_false, if_true]
  rfl

/-- A seed lane swap makes its link a seed lane that works; the rest is calm. -/
theorem execSeedLaneSwap_held {lane link : Nat} (hl : s.live = true) (hn : lane < 2) (hk : link < 32)
    (hh : s.holds (laneToken lane link) = true) :
    ∃ t, execSeedLaneSwap lane link s = .next t ∧
      Calm ((s.releaseToken (laneToken lane link)).modLink link fun l => { l with seed := true, failed := false }) t := by
  unfold execSeedLaneSwap
  simp only [hn, hk, hl, hh, decide_true, Bool.not_true, Bool.or_self, Bool.and_self, Bool.false_eq_true, if_false, if_true]
  refine ⟨_, rfl, .trans (.modNet _ (f := fun n => { n with seedLanes := Tab.set n.seedLanes lane link }) fun _ => rfl) ?_⟩
  exact .trans (.mapRepair _ _ _) (.trans (.trainLink _ _) (.detect _ _))

/-! ## Vector lanes (02 R30, R31) -/

section
variable {tile lane : Nat} (hl : s.live = true) (ht : tile < 128) (hn : lane < 64) (hi : s.onTile tile = [])
include hl ht hn hi

theorem execVectorLaneReplace_spare (hs : Tab.get s.maint.lanes tile 0 < 2) :
    execVectorLaneReplace tile lane s =
      .next ((((s.modMaint (·.laneIdle tile lane)).modMaint (·.laneOut tile)).mapRepair repairLane (tile * 64 + lane)).detect
        (unitFault 0x06 tile (s.tileOwner tile))) := by
  unfold execVectorLaneReplace
  simp only [ht, hn, hl, hi, decide_true, Bool.not_true, Bool.or_self, List.isEmpty_nil, Bool.false_eq_true, if_false]
  exact if_pos hs

theorem execVectorLaneReplace_worn (hs : 2 ≤ Tab.get s.maint.lanes tile 0) :
    execVectorLaneReplace tile lane s = .next (markFailing (s.modMaint (·.laneIdle tile lane)) tile) := by
  unfold execVectorLaneReplace
  simp only [ht, hn, hl, hi, decide_true, Bool.not_true, Bool.or_self, List.isEmpty_nil, Bool.false_eq_true, if_false]
  exact if_neg (Nat.not_lt.mpr hs)

end

/-! ## Activities by time -/

theorem execSensorRecalibration_live (hl : s.live = true) : execSensorRecalibration s =
    .next (if s.holds sensorToken then s.releaseToken sensorToken else s.requestToken sensorToken) := by
  unfold execSensorRecalibration
  simp only [hl, Bool.not_true, Bool.false_eq_true, if_false]
  split <;> rfl

theorem execRandomTableRekey_live {die : Nat} (hl : s.live = true) (hk : die < 8) : execRandomTableRekey die s =
    .next (if s.holds (rekeyToken die) then s.releaseToken (rekeyToken die) else s.requestToken (rekeyToken die)) := by
  unfold execRandomTableRekey
  simp only [hk, hl, decide_true, Bool.not_true, Bool.false_eq_true, if_false]
  split <;> rfl

theorem execSerdesRetune_held {port : Port} (hl : s.live = true) (hh : s.holds (serdesToken port) = true) :
    execSerdesRetune port s = .next (trainAgain (s.releaseToken (serdesToken port)) port) := by
  unfold execSerdesRetune
  simp only [hl, hh, Bool.and_self, if_true]

/-! ## O45 -/

/-- Settles O45: each row under its token is one of the cases above, and what is calm takes no token and breaks no lane. -/
theorem repairRowsComplete : Obligations.RepairRowsComplete := by
  intro s k tile row lane link port hl
  refine ⟨execSensorRecalibration_live hl, execRandomTableRekey_live hl, ?hbmRow, execSerdesRetune_held hl,
    execSeedTileSwap_held hl, ?seedRow, execVectorLaneReplace_spare hl, execVectorLaneReplace_worn hl, ?seedLane⟩
  case hbmRow =>
    intro hk hh
    obtain ⟨t, ht, hc⟩ := execHbmRowRepair_held hl hk hh
    exact ⟨t, ht, hc.not_held (s.holds_releaseToken _)⟩
  case seedRow =>
    intro hk hh
    obtain ⟨t, ht, hc⟩ := execSeedRowSwap_held hl hk hh
    exact ⟨t, ht, hc.not_held (s.holds_releaseToken _)⟩
  case seedLane =>
    intro hn hk hh hlink
    obtain ⟨t, ht, hc⟩ := execSeedLaneSwap_held hl hn hk hh
    obtain ⟨l, hs⟩ := Option.isSome_iff_exists.mp hlink
    have hm := (State.link?_modLink (s.releaseToken (laneToken lane link)) link
      fun l => { l with seed := true, failed := false }).trans (congrArg _ hs)
    obtain ⟨l', hl', hseed, hfail⟩ := hc.seeded_link hm rfl rfl
    exact ⟨t, l', ht, hl', hseed, hfail⟩

end Sys2Proof.Machine
end

section
/-!
PROOFS. The rows that load a context's scale entries and tables (spec 03 R76; 04 R101 to R104): what each function answers
once its checks pass and nothing is bound to what it replaces, and O5 from these.
-/
namespace Sys2Proof.Machine

variable {s t : State} {id : CmdId} {k : Cmd} {e : Env}

/-- A row whose result writes nothing makes its command ready, whether or not a checkpoint drains. -/
theorem exec_ready_writeless {op : Nat} {i : Instr} {f : State → Cmd → Env → State × Option Result} {r : Result}
    (hi : exec i s = runOp op id s f) (h : Runs s op id k e) (hw : r.writes = []) (hf : f s k e = (t, some r)) :
    exec i s = .next (t.markReady id r) := by
  rw [hi, runOp_runs h, hf, ← h.id_eq]
  exact congrArg Host.Outcome.next (finishRow_bare hw)

theorem fieldsOk_append {cs ds : List Check} (hc : fieldsOk cs) (hd : fieldsOk ds) : fieldsOk (cs ++ ds) := by
  refine firstBad_none.mpr fun c h => ?_
  rcases List.mem_append.mp h with h | h
  · exact firstBad_none.mp hc c h
  · exact firstBad_none.mp hd c h

/-! ## SCALE_LOAD (03 R76) -/

theorem scaleLoadFields_ok (hb : k.n 0 < 8192) (ha : e.arrayOk (k.a 1) 8 = true) (hr : k.n 0 + (k.a 1).count ≤ 8192) :
    fieldsOk [(k.off 0, decide (k.n 0 < 8192)), (k.off 1, e.arrayOk (k.a 1) 8),
      (k.off 1 + 4, decide (k.n 0 + (k.a 1).count ≤ 8192))] := by
  refine firstBad_none.mpr ?_
  simp [hb, ha, hr]

theorem runScaleLoad_ready (hc : s.clean) (hb : k.n 0 < 8192) (ha : e.arrayOk (k.a 1) 8 = true)
    (hr : k.n 0 + (k.a 1).count ≤ 8192) (hs : ∀ w ∈ e.entries (k.a 1) 8, (w.getD 1 0#32).toNat < 64)
    (hfree : scaleBusy s k (k.n 0) (k.n 0 + (k.a 1).count) = false) :
    runScaleLoad s k e = (s, some (Result.ok (.scale
      ((((List.range (k.a 1).count).map (k.n 0 + ·)).zip (e.entries (k.a 1) 8)).map fun x =>
        (x.1, x.2.getD 0 0#32, BitVec.ofNat 6 (x.2.getD 1 0#32).toNat))))) := by
  have hshift : ((e.entries (k.a 1) 8).all fun w => decide ((w.getD 1 0#32).toNat < 64)) = true := by simpa using hs
  unfold runScaleLoad
  dsimp only
  rw [checked_pass (scaleLoadFields_ok hb ha hr) hshift hc, if_neg (by simp [hfree])]

/-! ## TABLE_LOAD (04 R101 to R104) -/

theorem tableLoadFields_ok (ht : tableSelOk (k.n 0) = true) (hi : fieldsOk (inputChecks e (k.off 1) (k.t 1)))
    (hf : (k.t 1).fmt = 0#8) (hl : e.len (k.t 1) = if k.n 0 = 0 then 1024 else 1030) :
    fieldsOk ([(k.off 0, tableSelOk (k.n 0))] ++ inputChecks e (k.off 1) (k.t 1) ++
      [(k.off 1 + 4, (k.t 1).fmt == 0#8), (k.off 1 + 24, e.len (k.t 1) == if k.n 0 = 0 then 1024 else 1030)]) := by
  refine fieldsOk_append (fieldsOk_append (firstBad_none.mpr ?_) hi) (firstBad_none.mpr ?_)
  · simp [ht]
  · simp [hf, hl]

theorem runTableLoad_ready (hc : s.clean) (ht : tableSelOk (k.n 0) = true)
    (hi : fieldsOk (inputChecks e (k.off 1) (k.t 1))) (hf : (k.t 1).fmt = 0#8)
    (hl : e.len (k.t 1) = if k.n 0 = 0 then 1024 else 1030)
    (hd : (if k.n 0 = 0 then tempOk (e.values (k.t 1)) else customOk (e.values (k.t 1))) = true)
    (hfree : shadowBound s k (k.n 0) = false) :
    runTableLoad s k e = (s, some (Result.ok (.table (k.n 0) (e.values (k.t 1))))) := by
  unfold runTableLoad
  dsimp only
  rw [checked_pass (tableLoadFields_ok ht hi hf hl) hd hc, if_neg (by simp [hfree])]

/-! ## O5 -/

/-- Settles O5: each row's function answers what to load, and a load writes no tensor. -/
theorem tableRowsComplete : Obligations.TableRowsComplete := by
  intro s id k e hc
  refine ⟨?scaleLoad, ?tableLoad⟩
  case scaleLoad =>
    intro h hb ha hr hs hfree
    exact exec_ready_writeless rfl h rfl (runScaleLoad_ready hc hb ha hr hs hfree)
  case tableLoad =>
    intro h ht hi hf hl hd hfree
    exact exec_ready_writeless rfl h rfl (runTableLoad_ready hc ht hi hf hl hd hfree)

end Sys2Proof.Machine
end

section
/-!
PROOFS. The rows of the random family (spec 05 R126 to R131): what each function answers once its checks pass and, where it
changes the seed, nothing is bound to the old one; O6 from these.
-/
namespace Sys2Proof.Machine

variable {s : State} {k : Cmd} {e : Env}

theorem fieldsOk_single {o : Nat} {b : Bool} (h : b = true) : fieldsOk [(o, b)] :=
  firstBad_none.mpr fun _ hc => List.mem_singleton.mp hc ▸ h

/-! ## Changes of the seed: RNG_SET (R127) and RNG_STATE_PUT (R127, R130, R131) -/

theorem runRngSet_ready (hm : k.n 1 < 2) (hfree : s.seedBound k = false) :
    runRngSet s k e = (s, some (Result.ok (.rngSet (BitVec.ofNat 64 (k.d 0)) (k.n 1 == 1)))) := by
  unfold runRngSet
  rw [checked_bare (fieldsOk_single (decide_eq_true hm)) rfl, if_neg (by simp [hfree])]

/-- Unlike RNG_SET, it reads a buffer. -/
theorem runRngStatePut_ready (hc : s.clean) (hb : e.bufferOk (k.w 0) 0 0 = true)
    (hst : genStateOk (e.buffer (k.w 0)) = true) (hfree : s.seedBound k = false) :
    runRngStatePut s k e = (s, some
      (let g := genParse (e.buffer (k.w 0))
       Result.ok (.rngPut g.1 g.2.1 (genReshape g.2.2.1 e.part.tiles g.2.2.2)))) := by
  unfold runRngStatePut
  dsimp only
  rw [checked_pass (fieldsOk_single hb) hst hc, if_neg (by simp [hfree])]

/-! ## RNG_FILL (R128) -/

/-- A fill waits for the generators only in a context that draws from them. -/
theorem runRngFill_ready {a : Alloc} (hf : fieldsOk (fillFields k e))
    (hfree : e.det = true ∨ s.generatorHeld k e.part.tiles = false) (ha : e.alloc? (k.t 1).handle = some a) :
    runRngFill s k e = (s, some (fillResult s k e a)) := by
  have hgo : ¬ (!e.det && s.generatorHeld k e.part.tiles) = true := by
    rcases hfree with h | h <;> simp [h]
  unfold runRngFill
  rw [checked_bare hf rfl, if_neg hgo, ha]

/-! ## RNG_STATE_GET (R129) -/

theorem runRngStateGet_ready (hb : e.bufferOk (k.w 0) 0 (stateSize e.part.tiles) = true) :
    runRngStateGet s k e = (s, some { Result.bare stOK with
      writes := [rawWrite (k.w 0) 0 (genBytes e.ctx.seed e.ctx.det e.part.tiles e.ctx.gens)] }) := by
  unfold runRngStateGet
  rw [checked_bare (fieldsOk_single hb) rfl]

/-! ## O6 -/

/-- Settles O6: each row's function answers its result; a change of the seed writes no tensor, and where no checkpoint drains a
fill and a saved state become ready with what they write. -/
theorem randomRowsComplete : Obligations.RandomRowsComplete := by
  intro s id k e a hc hd
  refine ⟨?set, ?fill, ?stateGet, ?statePut⟩
  case set => exact fun h hm hfree => exec_ready_writeless rfl h rfl (runRngSet_ready hm hfree)
  case fill => exact fun h hf hfree ha => exec_ready rfl h hd (runRngFill_ready hf hfree ha)
  case stateGet => exact fun h hb => exec_ready rfl h hd (runRngStateGet_ready hb)
  case statePut => exact fun h hb hst hfree => exec_ready_writeless rfl h rfl (runRngStatePut_ready hc hb hst hfree)

end Sys2Proof.Machine
end

section
/-!
PROOFS. The memory family (spec 06 R144, R154, R481; 11 R292, R293): what each opcode's function answers once its checks pass,
and O3 from these. No answer here writes a tensor, so a checkpoint that drains holds none of them back.
-/
namespace Sys2Proof.Machine

variable {s : State} {k : Cmd} {e : Env}

/-! ## MEM_ALLOC, MEM_FREE and MEM_PLACE (06 R144, R481; 11 R292) -/

theorem runMemAlloc_ready (hf : fieldsOk (allocFields k e.part)) :
    runMemAlloc s k e = (s, some (Result.ok (.alloc (allocAsked k)))) := checked_bare hf rfl

/-- A plain allocation is freed once no checkpoint plan and no earlier command names it. -/
theorem runMemFree_ready {a : Alloc} (ha : e.alloc? (k.w 0) = some a) (hr : a.role = .plain)
    (hc : s.checkpointed e.part.num (k.w 0) = false) (hn : s.namedBefore k (k.w 0) = false) :
    runMemFree s k e = (s, some (Result.ok (.free (k.w 0)))) := by
  unfold runMemFree
  rw [checked_bare (fieldsOk_single (by simp [ha, hr])) (by simp [hc]), if_neg (by simp [hn])]

theorem runMemPlace_ready {a : Alloc} (ha : e.alloc? (k.w 0) = some a) :
    runMemPlace s k e = (s, some (Result.okDetail (placeDetail a))) := by
  unfold runMemPlace
  rw [checked_bare (fieldsOk_single (by simp [ha])) rfl, ha]
  rfl

/-! ## LAYER_PLAN (06 R154) -/

theorem layerPlanFields_ok (h1 : 1 ≤ (k.a 0).count) (h2 : (k.a 0).count ≤ 4096) (ha : e.arrayOk (k.a 0) 4 = true)
    (hw : k.n 1 < 16) (hp : k.n 2 < 16) :
    fieldsOk [(k.off 0, decide (1 ≤ (k.a 0).count) && decide ((k.a 0).count ≤ 4096) && e.arrayOk (k.a 0) 4),
      (k.off 1, decide (k.n 1 < 16)), (k.off 2, decide (k.n 2 < 16))] := by
  refine firstBad_none.mpr ?_
  simp [h1, h2, ha, hw, hp]

theorem runLayerPlan_ready (hc : s.clean) (h1 : 1 ≤ (k.a 0).count) (h2 : (k.a 0).count ≤ 4096)
    (ha : e.arrayOk (k.a 0) 4 = true) (hw : k.n 1 < 16) (hp : k.n 2 < 16)
    (hs : ∀ h ∈ (e.entries (k.a 0) 4).map (fun w => w.getD 0 0#32), ∃ b, e.firstAlloc? h = some b ∧ b.stream = true) :
    runLayerPlan s k e =
      (s, some (Result.ok (.plan ((e.entries (k.a 0) 4).map fun w => w.getD 0 0#32) (k.n 1) (k.n 2)))) := by
  have hstream : (((e.entries (k.a 0) 4).map fun w => w.getD 0 0#32).all fun h =>
      ((e.firstAlloc? h).map (·.stream)).getD false) = true := by
    refine List.all_eq_true.mpr fun h hh => ?_
    obtain ⟨b, hb, hstr⟩ := hs h hh
    rw [hb]
    exact hstr
  unfold runLayerPlan
  exact checked_pass (layerPlanFields_ok h1 h2 ha hw hp) hstream hc

/-! ## MEM_STATS, MEM_EXPOSE and MEM_UNEXPOSE (11 R293) -/

theorem runMemStats_ready (ha : (e.alloc? (k.w 0)).isSome = true) (hb : fieldsOk (bufferChecks e (k.off 1) (k.t 1) 40)) :
    runMemStats s k e = (s, some (Result.bare stOK)) :=
  checked_bare (fieldsOk_append (fieldsOk_single ha) hb) rfl

theorem runMemExpose_ready (ha : (e.alloc? (k.w 0)).isSome = true) :
    runMemExpose s k e = (s, some (Result.ok (.expose (k.w 0)))) := checked_bare (fieldsOk_single ha) rfl

/-- Whether there is a key to withdraw is asked of the allocation as it stands, not as the command bound it. -/
theorem runMemUnexpose_ready {a : Alloc} (he : (e.alloc? (k.w 0)).isSome = true) (ha : s.alloc? e.part.num (k.w 0) = some a) :
    runMemUnexpose s k e =
      (s, some (if a.key.isSome then Result.ok (.unexpose (k.w 0)) else Result.bare stALREADY_DONE)) := by
  unfold runMemUnexpose
  rw [checked_bare (fieldsOk_single he) rfl, ha, Option.bind_some]
  cases a.key <;> rfl

/-! ## O3 -/

/-- Settles O3: each opcode's function answers what its command asks for, and what it answers writes no tensor. -/
theorem memoryRowsComplete : Obligations.MemoryRowsComplete := by
  intro s id k e a
  refine ⟨?alloc, ?free, ?place, ?plan, ?stats, ?expose, ?unexpose⟩
  case alloc => exact fun h hf => exec_ready_writeless rfl h rfl (runMemAlloc_ready hf)
  case free => exact fun h ha hr hc hn => exec_ready_writeless rfl h rfl (runMemFree_ready ha hr hc hn)
  case place => exact fun h ha => exec_ready_writeless rfl h rfl (runMemPlace_ready ha)
  case plan =>
    exact fun h hc h1 h2 ha hw hp hs => exec_ready_writeless rfl h rfl (runLayerPlan_ready hc h1 h2 ha hw hp hs)
  case stats => exact fun h ha hb => exec_ready_writeless rfl h rfl (runMemStats_ready ha hb)
  case expose => exact fun h ha => exec_ready_writeless rfl h rfl (runMemExpose_ready ha)
  case unexpose =>
    exact fun h he ha => exec_ready_writeless rfl h (by split <;> rfl) (runMemUnexpose_ready he ha)

end Sys2Proof.Machine
end

section
/-!
PROOFS. The events of memory, staging, generators and checkpoints (spec 06 R157, R159 to R162; 02 R47 to R50; 05 R118, R120;
13 R338, R345): what each event does once its condition holds, and O29 from these.
-/
namespace Sys2Proof.Machine

variable {s : State} {n i : Nat} {p : Part}

/-! ## Transposes (02 R47 to R50); which die's engine rebuilds a block is the model's choice (log 67) -/

theorem execTransposeBlock_turn {h : W32} {j : Nat} (ha : s.awake = true) (hp : s.part? n = some p)
    (ht : s.engineTurn (p.engineOf i) = some (n, j)) (hj : (s.transposes p (p.engineOf i)).contains (j, h, i) = true) :
    execTransposeBlock n h i s = .next ({ s with
      shared := { s.shared with turns := Tab.set s.shared.turns (p.engineOf i) (n, j) } }.modAlloc n h (·.transposeBlock i)) := by
  unfold execTransposeBlock
  simp only [ha, hp, ht, hj, and_self, if_true]

/-- An engine that has no turn, another partition's, or another job's, leaves the block as it is. -/
theorem execTransposeBlock_waits {h : W32} (ha : s.awake = true) (hp : s.part? n = some p)
    (hj : ∀ j, s.engineTurn (p.engineOf i) = some (n, j) → (s.transposes p (p.engineOf i)).contains (j, h, i) = false) :
    execTransposeBlock n h i s = .next s := by
  unfold execTransposeBlock
  simp only [ha, hp, if_true]
  cases ht : s.engineTurn (p.engineOf i) with
  | none => rfl
  | some x =>
    obtain ⟨n', j⟩ := x
    refine if_neg ?_
    rintro ⟨rfl, hc⟩
    exact Bool.false_ne_true ((hj j ht).symm.trans hc)

/-! ## Staging (06 R157, R162) -/

theorem execStagingFetchComplete_some {x : Ctx} {l : LayerPlan} {a : Alloc} (ha : s.awake = true) (hx : s.ctx? n = some x)
    (hf : x.fetch = some (l, i)) (hc : s.contents x.part (l.handles.getD i 0#32) = some a) :
    execStagingFetchComplete n s = .next (stageErrors (s.modPlanNo x.id l.serial fun m =>
      if a.uncorr.isEmpty then m.staged i else m.spoiled i) x.part a) := by
  simp only [execStagingFetchComplete, stagingFetch, ha, hx, hf, hc, if_true]

/-! ## Deadlines (06 R159, R162) -/

/-- A deadline counts for the dispatched command that traverses its plan and comes to that entry. -/
theorem execWeightDeadline_due {id : CmdId} {c : Cmd} {l : LayerPlan} (ha : s.awake = true) (hc : s.cmd? id = some c)
    (hp : s.part? (s.cmdPart id) = some p) (hl : c.plan = some l) (hd : c.phase = .dispatched)
    (ht : traverses c.opcode = true) (hi : c.inserted = true) (hn : c.nextEntry = some i) :
    execWeightDeadline id i s = .next (weightDeadline s c p l i) := by
  unfold execWeightDeadline
  simp only [ha, hc, hp, hl, if_true]
  exact if_pos ⟨hd, ht, hi, hn⟩

section
variable {c : Cmd} {l m : LayerPlan} {a : Alloc}
  (ha : (s.arriveAt c i).contents p.num (l.handles.getD i 0#32) = some a) (hm : (s.arriveAt c i).schedule c = some m)
include ha hm

theorem weightDeadline_staged (hs : m.slots.contains (i, true) = true) :
    weightDeadline s c p l i = (s.arriveAt c i).useEntry c i false := by
  simp only [weightDeadline, ha, hm, hs, if_true]

theorem weightDeadline_waits (hs : m.slots.contains (i, true) = false) (hsh : shadowPath p c a = false)
    (hb : m.bad.contains i = false) : weightDeadline s c p l i =
      (s.arriveAt c i).modCmd c.id fun k => { k with waitSince := some (k.waitSince.getD (s.arriveAt c i).clk.localUs) } := by
  simp only [weightDeadline, ha, hm, hs, hsh, hb, Bool.false_eq_true, if_false]

theorem weightDeadline_spoiled (hs : m.slots.contains (i, true) = false) (hsh : shadowPath p c a = false)
    (hb : m.bad.contains i = true) : weightDeadline s c p l i = (s.arriveAt c i).failRead c := by
  simp only [weightDeadline, ha, hm, hs, hsh, hb, Bool.false_eq_true, if_false, if_true]

theorem weightDeadline_late (hs : m.slots.contains (i, true) = false) (hsh : shadowPath p c a = true)
    (hu : (a.shadow.map (·.uncorr)).getD [] = []) : weightDeadline s c p l i =
      ((s.arriveAt c i).modIface c.id.iface fun f => { f with lateUses := satNat32 (f.lateUses + 1) }).useEntry c i true := by
  simp only [weightDeadline, ha, hm, hs, hsh, hu, List.isEmpty_nil, Bool.false_eq_true, if_false, if_true]

end

/-! ## Generators (05 R118, R120) -/

theorem execTableRefill_ctx {x : Ctx} (ha : s.awake = true) (hx : s.ctx? n = some x) :
    execTableRefill n i s = .next (tableRefill s x i) := by
  simp only [execTableRefill, ha, hx, if_true]

/-- A generator that is not at the end of its generation writes no table. -/
theorem tableRefill_early {x : Ctx} (hg : (Tab.get x.gens i Gen.start).refill = Tab.get x.gens i Gen.start) :
    tableRefill s x i = s.modCtx x.id fun c => { c with
      gens := c.gens.map fun (t, g) => if t = i then (t, g.refill) else (t, g) } := by
  simp only [tableRefill, hg, if_true]

theorem tableRefill_due {x : Ctx} (hg : (Tab.get x.gens i Gen.start).refill ≠ Tab.get x.gens i Gen.start)
    (hp : s.part? x.part = some p) :
    tableRefill s x i = (s.strikeTable x.part (p.firstTile + i) 8192).modCtx x.id fun c => { c with
      gens := c.gens.map fun (t, g) => if t = i then (t, g.refill) else (t, g) } := by
  simp only [tableRefill, hg, hp, if_false, Option.map_some, Option.getD_some]

/-! ## Checkpoints (13 R338, R345) -/

theorem execCkpTimerExpiry_up (hup : s.windowUp = true) : execCkpTimerExpiry n s = .next (ckpTimer s n) := if_pos hup

section
variable (hp : s.part? n = some p) (hf : p.fenced = false) (ht : p.ckp.timerDue s.clk.localUs = true)
include hp hf ht

theorem ckpTimer_snapshot (hd : p.ckp.drain = none) : ckpTimer s n = snapshot s.wake n 1 := by
  simp only [ckpTimer, hp, hf, ht, hd, Bool.not_true, Bool.or_self, Bool.false_eq_true, if_false, Option.isNone_none, if_true]

theorem ckpTimer_deferred (hd : p.ckp.drain.isSome = true) (hn : p.ckp.deferred = false) :
    ckpTimer s n = s.wake.modPart n fun q =>
      { q with ckp := { q.ckp with deferred := true, deferrals := satNat32 (q.ckp.deferrals + 1) } } := by
  have hsome : p.ckp.drain.isNone = false := by simpa using hd
  simp only [ckpTimer, hp, hf, ht, hsome, hn, Bool.not_true, Bool.or_self, Bool.false_eq_true, if_false]

end

/-- The oldest write of a drain is acknowledged: one fewer is outstanding, and the last one ends the step. -/
theorem execDrainWriteAck_on {q : Qp} {d : Drain} (hup : s.windowUp = true) (hp : s.part? n = some p)
    (hd : p.ckp.drain = some d) (hq : s.net.qps.find? (fun q => q.work.any (·.ofDrain n)) = some q) (h0 : d.awaiting ≠ 0) :
    execDrainWriteAck n s = .next
      (let t := (s.modQp q.port q.num fun u => { u with work := dropFirst (·.ofDrain n) u.work, retriesLeft := u.retry }).modPart n
        fun u => { u with ckp := { u.ckp with drain := u.ckp.drain.map fun d => { d with awaiting := d.awaiting - 1 } } }
       if d.awaiting = 1 then drainStep t n p d else t) := by
  unfold execDrainWriteAck drainAck
  simp only [hup, hq, if_true, drainAckOn, hp, hd, Option.bind_some, Option.map_some, h0, if_false]

/-! ## O29 -/

/-- Settles O29: each event whose condition holds does what its operation says. -/
theorem memoryEventsComplete : Obligations.MemoryEventsComplete := by
  intro s n i h id c p x l a
  refine ⟨fun j => execTransposeBlock_turn, execTransposeBlock_waits, execStagingFetchComplete_some, ?deadline, ?early, ?due,
    ?snapshot, ?deferred, ?ack⟩
  case deadline =>
    rintro t m ha hc hp hl hd ht hi hn rfl hcont hm
    have hid := State.cmd?_id hc
    have hrun := execWeightDeadline_due ha hc hp hl hd ht hi hn
    refine ⟨fun hs => ?_, fun hs hsh hb => ?_, fun hs hsh hb => ?_, fun hs hsh hu => ?_⟩
    · exact hrun.trans (congrArg _ (weightDeadline_staged hcont hm hs))
    · rw [← hid] at hrun ⊢
      exact hrun.trans (congrArg _ (weightDeadline_waits hcont hm hs hsh hb))
    · exact hrun.trans (congrArg _ (weightDeadline_spoiled hcont hm hs hsh hb))
    · rw [← hid] at hrun ⊢
      exact hrun.trans (congrArg _ (weightDeadline_late hcont hm hs hsh hu))
  case early => exact fun ha hx hg => (execTableRefill_ctx ha hx).trans (congrArg _ (tableRefill_early hg))
  case due => exact fun ha hx hg hp => (execTableRefill_ctx ha hx).trans (congrArg _ (tableRefill_due hg hp))
  case snapshot =>
    exact fun hup hp hf ht hd => (execCkpTimerExpiry_up hup).trans (congrArg _ (ckpTimer_snapshot hp hf ht hd))
  case deferred =>
    exact fun hup hp hf ht hd hn => (execCkpTimerExpiry_up hup).trans (congrArg _ (ckpTimer_deferred hp hf ht hd hn))
  case ack =>
    rintro q d t hup hp hd hq h0 rfl
    exact execDrainWriteAck_on hup hp hd hq h0

end Sys2Proof.Machine
end

section
/-!
PROOFS. Scrubs (spec 06 R166, R168, R169; 15 R410): what a scrub under its token writes back, and O44 from these.
-/
namespace Sys2Proof.Machine

variable {s : State} {home : Home} {h : W32} {g tile : Nat}

theorem scrub_held {cls : Nat} (hl : s.live = true) (hp : s.pwr.state.toNat ≤ 1) (ht : s.holds (scrubToken cls) = true)
    (ha : s.allocs.any (fun a => a.handle == h && a.home == home) = true) :
    scrub s cls home h g =
      (s.writeBack (inGranule home h g)).modMaint fun m => { m with scrubAt := Tab.set m.scrubAt cls g } := by
  unfold scrub
  rw [if_pos]
  simp only [hl, hp, ht, ha, decide_true, Bool.and_self]

theorem State.patrols_held (hl : s.live = true) (hp : s.pwr.state.toNat ≤ 1) (ht : s.holds (scrubToken 2) = true) :
    s.patrols = true := by
  simp only [State.patrols, hl, hp, ht, decide_true, Bool.and_self]

theorem execDdr5PatrolScrub_held (hl : s.live = true) (hp : s.pwr.state.toNat ≤ 1) (ht : s.holds (scrubToken 2) = true)
    (ha : s.allocs.any (fun a => a.handle == h && a.home == .ddr) = true) :
    execDdr5PatrolScrub h g s = .next ((s.scrubChannels h g).foldl readEcs
      ((s.writeBack (inGranule .ddr h g)).modMaint fun m => { m with scrubAt := Tab.set m.scrubAt 2 g })) := by
  unfold execDdr5PatrolScrub
  rw [scrub_held hl hp ht ha, State.patrols_held hl hp ht]
  rfl

/-- A tile's scrub needs no token. -/
theorem execTileMemoryScrub_live (hl : s.live = true) (hp : s.pwr.state.toNat ≤ 1) (ht : tile < 128) :
    execTileMemoryScrub tile s = .next (s.tileScrubbed tile) := by
  unfold execTileMemoryScrub
  simp only [ht, hl, hp, decide_true, Bool.not_true, Bool.and_self, Bool.false_eq_true, if_false, if_true]
  rfl

/-- Writing back clears corrected locations only: an uncorrectable one stays, and so does every byte. -/
theorem State.writeBack_contents (s : State) (hit : Alloc → Nat → Bool) :
    (s.writeBack hit).allocs.map (fun a => (a.part, a.handle, a.mem, a.uncorr)) =
      s.allocs.map (fun a => (a.part, a.handle, a.mem, a.uncorr)) := by
  unfold State.writeBack
  rw [List.map_map]
  rfl

/-! ## O44 -/

/-- Settles O44: each scrub is a write-back, and a write-back changes no content. -/
theorem scrubRowsComplete : Obligations.ScrubRowsComplete := by
  intro s h g tile hl hp
  exact ⟨fun ht ha => congrArg Host.Outcome.next (scrub_held hl hp ht ha), execDdr5PatrolScrub_held hl hp,
    execTileMemoryScrub_live hl hp, s.writeBack_contents⟩

end Sys2Proof.Machine
end

section
/-!
PROOFS. The power block (spec 16 R414, R420, R422 to R428, R431; 12 R328; 06 R171): a calm change keeps every register of the
block that no work moves, so what a row sets outlasts the detections that follow; O46 from these.
-/
namespace Sys2Proof.Machine

variable {s t : State}

/-! ## What outlasts a detection -/

/-- A calm change keeps whatever of the power block is neither its state nor its idle time. -/
theorem Calm.pwr_eq {α : Type} (h : Calm s t) (f : Pwr → α)
    (hf : ∀ p st us, f { p with state := st, idleSince := us } = f p) : f t.pwr = f s.pwr := by
  obtain ⟨st, us, e⟩ := h.pwr
  rw [e, hf]

theorem Calm.detect_ite (s : State) (c : Prop) [Decidable c] (d : Detection) : Calm s (if c then s.detect d else s) := by
  split
  · exact .detect s d
  · exact .refl s

/-- What a sensor row ends with: two detections, each where its limit is left. -/
theorem Calm.detect_two (s : State) (c c' : Prop) [Decidable c] [Decidable c'] (d d' : Detection) :
    Calm s (let u := if c then s.detect d else s
      (if c' then u.detect d' else u).noteSched) :=
  .trans (.trans (.detect_ite s c d) (.detect_ite _ c' d')) (.noteSched _)

/-! ## Doze and the brake (16 R414, R422) -/

theorem execDozeEntry_idle (hl : s.live = true) (hp : s.pwr.state = 1#3) (hi : field s.pwr.cfg 15 0 ≠ 0)
    (hq : s.quiet = true) (ht : s.pwr.idleSince + field s.pwr.cfg 15 0 ≤ s.clk.localUs) :
    execDozeEntry s = .next (s.setPower 2#3) := by
  unfold execDozeEntry
  dsimp only
  rw [if_pos]
  simp [hl, hp, hi, hq, ht]

theorem execPowerWindow_running (h : s.phase = .running) (n : Nat) : execPowerWindow n s = .next (powerWindow s n).noteSched :=
  if_pos (by simp [h])

/-- The brake's fraction is one of 1/16 to 16/16 (log 18). -/
theorem execPwrbrkAssert_running (hr : s.phase = .running) (hb : s.pins.pwrbrkN = true) :
    ∃ t, execPwrbrkAssert s = .next t ∧ t.pins.pwrbrkN = false ∧ 1 ≤ t.pwr.brake ∧ t.pwr.brake ≤ 16 := by
  unfold execPwrbrkAssert
  simp only [hb, hr, Bool.not_true, Bool.false_eq_true, if_false, beq_self_eq_true, if_true]
  generalize hu : State.modPwr _ _ = u
  have hc : Calm u (u.detect (unitFault 0x55 0 none)).noteSched := .trans (.detect u _) (.noteSched _)
  refine ⟨_, rfl, ?_, ?_⟩
  · rw [hc.pins, ← hu]
    rfl
  · rw [hc.pwr_eq (·.brake) fun _ _ _ => rfl, ← hu]
    simp only [engageBrake, State.modPwr]
    omega

/-! ## Temperature, coolant and memory modules (16 R424 to R426; 06 R171) -/

theorem execThermalGuard_hot {n : Nat} (hm : s.mgmtOn = true) (hn : 10100 ≤ n) :
    execThermalGuard n s = .next (s.modPwr fun p => { p with guard := true }) :=
  congrArg Host.Outcome.next (if_pos ⟨hn, hm⟩)

theorem execThermalGuardRelease_cool {n : Nat} (hn : n < 9900) :
    execThermalGuardRelease n s = .next (s.modPwr fun p => { p with guard := false }) :=
  congrArg Host.Outcome.next (if_pos hn)

theorem execCoolantRead_on (hm : s.mgmtOn = true) (n m : Nat) :
    ∃ t, execCoolantRead n m s = .next t ∧ t.pwr.flow = BitVec.ofNat 32 (satNat16 (gainBy s.pwr 0x15 m)) ∧
      t.pwr.flowOut = decide (gainBy s.pwr 0x15 m < 200) := by
  unfold execCoolantRead
  rw [if_pos hm]
  exact ⟨_, rfl, (Calm.detect_two _ _ _ _ _).pwr_eq (·.flow) fun _ _ _ => rfl,
    (Calm.detect_two _ _ _ _ _).pwr_eq (·.flowOut) fun _ _ _ => rfl⟩

/-- A list that an element is put on, or taken off, holds it accordingly. -/
theorem contains_put (b : Bool) (x : Nat) (l : List Nat) :
    (if b = true then addOnce x l else l.filter (· != x)).contains x = b := by
  cases b with
  | true =>
    rw [if_pos rfl, addOnce]
    split <;> simp_all
  | false => simp

/-- A channel's refresh is doubled while it is above 85 °C; it is halved from above 95 °C until below 90 °C. -/
theorem execRdimmTempRead_running {c : Nat} (hr : s.phase = .running) (hc : c < 8)
    (hf : s.fit.channels.any (·.1 == c) = true) (n : Nat) :
    ∃ t, execRdimmTempRead c n s = .next t ∧ t.pwr.doubled.contains c = decide (8500 < n) ∧
      t.pwr.halved.contains c = (decide (9500 < n) || (s.pwr.halved.contains c && decide (9000 ≤ n))) := by
  unfold execRdimmTempRead
  simp only [hr, hc, hf, decide_true, Bool.not_true, Bool.false_eq_true, if_false, beq_self_eq_true, Bool.and_self, if_true]
  refine ⟨_, rfl, ?_, ?_⟩
  · rw [(Calm.detect_two _ _ _ _ _).pwr_eq (·.doubled) fun _ _ _ => rfl]
    exact contains_put _ c _
  · rw [(Calm.detect_two _ _ _ _ _).pwr_eq (·.halved) fun _ _ _ => rfl]
    exact contains_put _ c _

/-! ## Wear, energy and calibration (16 R427, R428, R431; 12 R328) -/

theorem execWearSample_on (hm : s.mgmtOn = true) (n : Nat) : execWearSample n s =
    .next (s.modPwr fun p => { p with stress := p.stress + secondStress n, powered := p.powered + 1 }) := if_pos hm

theorem execWearUpdate_due (hm : s.mgmtOn = true) (h0 : s.pwr.powered ≠ 0) (hd : s.pwr.powered % 86400 = 0) :
    execWearUpdate s = .next (wearUpdate s).noteSched := if_pos ⟨hm, h0, hd⟩

/-- A user value is taken as written; only the effective value is clamped. -/
theorem setUser_user {i : Nat} (hi : calItemUsed i = true) (v : W32) : Tab.get (setUser s i v).pwr.user i 0#32 = v := by
  unfold setUser
  rw [if_pos hi, (Calm.detect_ite _ _ _).pwr_eq (·.user) fun _ _ _ => rfl]
  exact Tab.get_set _ _ _ _

theorem execCalUserWrite_on (hm : s.mgmtOn = true) (v : W32) :
    execCalUserWrite v s = .next (setUser s (field s.pwr.calSel 7 0) v) := if_pos hm

/-! ## O46 -/

/-- Settles O46: each row under its conditions, with what a calm change keeps of what it set. -/
theorem powerRowsComplete : Obligations.PowerRowsComplete := by
  intro s n m c v i x hm
  refine ⟨?doze, fun hr => execPowerWindow_running hr n, execPwrbrkAssert_running, rfl, execThermalGuard_hot hm,
    execThermalGuardRelease_cool, execCoolantRead_on hm n m, ?rdimm, execWearSample_on hm n, execWearUpdate_due hm,
    ?energy, ?user⟩
  case doze =>
    intro hr hs hp hi hq ht
    exact execDozeEntry_idle (by simp [State.live, hr, hs]) hp hi hq ht
  case rdimm =>
    intro hr hc hf
    obtain ⟨t, ht, hdoubled, hhalved⟩ := execRdimmTempRead_running hr hc hf n
    refine ⟨t, ht, hdoubled, fun h => ?_, fun h => ?_⟩
    · rw [hhalved, decide_eq_true h, Bool.true_or]
    · rw [hhalved, decide_eq_false (by omega : ¬ 9500 < n), decide_eq_false (by omega : ¬ 9000 ≤ n), Bool.and_false,
        Bool.or_false]
  case energy => exact fun hr => if_pos (by simp [hr])
  case user => exact fun hu => ⟨_, execCalUserWrite_on hm v, setUser_user hu v⟩

end Sys2Proof.Machine
end

section
/-!
PROOFS. The generation rows (spec 07 R175, R179, R183, R184, R190 to R192, R198, R200): what each opcode's function answers once
its checks pass, how far a step and a prefill get while their plan is traversed and once its end is reached, and O8 from these.
-/
namespace Sys2Proof.Machine

variable {s t : State} {id : CmdId} {k : Cmd} {e : Env} {g : GenCfg} {b : StepOut}

/-- A row whose command has no result yet goes on to the state its function leaves. -/
theorem exec_goesOn {op : Nat} {i : Instr} {f : State → Cmd → Env → State × Option Result}
    (hi : exec i s = runOp op id s f) (h : Runs s op id k e) (hf : f s k e = (t, none)) : exec i s = .next t := by
  rw [hi, runOp_runs h, hf]

/-! ## GEN_CONFIG (07 R175, R181) -/

section
variable (hd : e.arrayOk (k.a 0) 4 = true) (hl : k.n 1 ≠ 0) (hh : k.n 2 ≠ 0) (hw : k.n 3 ≠ 0)
  (hf : kvFmtOk (k.n 4) (k.n 3) = true) (hp : poolOk e k g = true) (hlo : 64 ≤ k.n 6) (hhi : k.n 6 ≤ 1048576)
include hd hl hh hw hf hp hlo hhi

theorem genConfigFields_ok :
    fieldsOk [(k.off 0, e.arrayOk (k.a 0) 4), (k.off 1, k.n 1 != 0), (k.off 2, k.n 2 != 0), (k.off 3, k.n 3 != 0),
      (k.off 4, kvFmtOk (k.n 4) (k.n 3)), (k.off 5, poolOk e k g),
      (k.off 6, decide (64 ≤ k.n 6) && decide (k.n 6 ≤ 1048576))] := by
  refine firstBad_none.mpr ?_
  simp [hd, hl, hh, hw, hf, hp, hlo, hhi]

theorem runGenConfig_ready (hc : s.clean) (hg : g = genCfgOf k ((e.entries (k.a 0) 4).map fun w => w.getD 0 0#32))
    (hs : e.serving = true) (hr : e.part.gen.reqs = []) (hplan : (e.first.ctx.bind (·.plan)).isSome = true)
    (hdraft : ∀ h ∈ g.draft, ∃ a, e.firstAlloc? h = some a ∧ a.stream = false ∧ a.home ≠ .ddr) :
    runGenConfig s k e = (s, some (Result.ok (.genConfig g))) := by
  subst hg
  have hhome : (((e.entries (k.a 0) 4).map fun w => w.getD 0 0#32).all fun h =>
      ((e.firstAlloc? h).map fun a => !a.stream && a.home != .ddr).getD false) = true := by
    refine List.all_eq_true.mpr fun h hm => ?_
    obtain ⟨a, ha, hstream, hddr⟩ := hdraft h hm
    simp [ha, hstream, hddr]
  unfold runGenConfig
  exact checked_pass (genConfigFields_ok hd hl hh hw hf hp hlo hhi)
    (by simp only [hs, hr, hplan, hhome, List.isEmpty_nil, Bool.and_self]) hc

end

/-! ## GEN_ADMIT (07 R179) -/

theorem runGenAdmit_ready (hc : s.clean) (h1 : 1 ≤ (k.a 0).count) (h2 : (k.a 0).count ≤ 256) (hd : e.arrayOk (k.a 0) 64 = true)
    (hn : (k.a 1).absent = false) (hr : e.arrayOk (k.a 1) 4 = true) (hle : (k.a 0).count ≤ (k.a 1).count)
    (hg : e.part.gen.cfg.isSome = true) (hring : e.iface.cring.isSome = true) :
    runGenAdmit s k e = (s, some (Result.ok (.genAdd (e.entries (k.a 0) 64) (k.a 1).handle (k.a 1).off))) := by
  have hf : fieldsOk [(k.off 0, decide (1 ≤ (k.a 0).count) && decide ((k.a 0).count ≤ 256) && e.arrayOk (k.a 0) 64),
      (k.off 1, !(k.a 1).absent && e.arrayOk (k.a 1) 4 && decide ((k.a 0).count ≤ (k.a 1).count))] :=
    firstBad_none.mpr (by simp [h1, h2, hd, hn, hr, hle])
  unfold runGenAdmit
  exact checked_pass hf (by simp [hg, hring]) hc

/-! ## Traversing a plan (06 R155) -/

theorem State.traverse_entry {i : Nat} (hi : k.nextEntry = some i) : s.traverse k = (s.arriveAt k i, false) := by
  cases hl : k.plan with
  | none => simp [Cmd.nextEntry, hl] at hi
  | some l => simp only [State.traverse, hl, hi]

/-- A command with no entry left has traversed its plan, whether it has one or not. -/
theorem State.traverse_end (hn : k.nextEntry = none) : (s.traverse k).2 = true := by
  cases hl : k.plan <;> simp only [State.traverse, hl, hn]

/-! ## GEN_STEP (07 R183, R184) -/

/-- While an entry of the plan is left a step only inserts its work items. -/
theorem goStep_entry {i : Nat} (hi : k.nextEntry = some i) : goStep s k e g b =
    ((s.arriveAt k i).runItems k e (planProducts e b.rows (if b.outs.any (·.drafted != 0) then g.draft else [])), none) := by
  simp only [goStep, State.traverse_entry hi, Bool.not_false, Bool.true_or, if_true]

/-- At the end of its plan, with every item run, a step decides. -/
theorem goStep_end (hn : k.nextEntry = none)
    (ht : t = (s.traverse k).1.runItems k e (planProducts e b.rows (if b.outs.any (·.drafted != 0) then g.draft else [])))
    (hdone : t.itemsDone k.id = true) (hgen : e.det = true ∨ t.generatorHeld k e.part.tiles = false) :
    goStep s k e g b = runStep t k e g { b with late := !k.late.isEmpty } := by
  have hgo : (!e.det && t.generatorHeld k e.part.tiles) = false := by rcases hgen with h | h <;> simp [h]
  simp only [goStep, State.traverse_end hn, ← ht, hdone, hgo, Bool.not_true, Bool.or_self, Bool.false_eq_true, if_false]

theorem runStep_ready {p : Part} {a : Alloc} {o : List ReqOut × Run} (hc : s.clean) (hp : s.part? e.part.num = some p)
    (ha : s.contents e.part.num g.pool = some a) (ho : o = stepOuts s e g p b k.late a)
    (hfit : s.rowFits e 0#8 o.2.longest 4 = true) : runStep s k e g b = (s, some (stepResult k e b a o)) := by
  subst ho
  simp only [runStep, hp, ha, State.readBuffers_clean hc, hfit, Bool.false_eq_true, if_false, if_true]

section
variable (ht1 : 1 ≤ k.n 0) (ht2 : k.n 0 ≤ 65536) (hs1 : 1 ≤ k.n 1) (hs2 : k.n 1 ≤ 16384) (hc1 : 1 ≤ k.n 2) (hc2 : k.n 2 ≤ 8192)
include ht1 ht2 hs1 hs2 hc1 hc2

theorem genStepFields_ok :
    fieldsOk [(k.off 0, decide (1 ≤ k.n 0) && decide (k.n 0 ≤ 65536)), (k.off 1, decide (1 ≤ k.n 1) && decide (k.n 1 ≤ 16384)),
      (k.off 2, decide (1 ≤ k.n 2) && decide (k.n 2 ≤ 8192))] := by
  refine firstBad_none.mpr ?_
  simp [ht1, ht2, hs1, hs2, hc1, hc2]

variable (hs : e.serving = true) (hg : e.part.gen.cfg = some g) (htemp : tempEmptied e = false) (hplan : e.planOk = true)
  (hbloom : e.hadBloom = true)
include hs hg htemp hplan hbloom

/-- A step that begins composes its batch at the step boundary. -/
theorem runGenStep_begins {p : Part} (hb : k.begun = false) (hbefore : s.stepBefore e.part.num k = false)
    (hcancel : s.cancelWaits e.part.num = false) (ht : t = s.stepStart k e.part.num) (hp : t.part? e.part.num = some p)
    (hbatch : b = composeFor k.batch t p g (k.n 0) (k.n 1) (k.n 2)) :
    runGenStep s k e = goStep (t.modCmd k.id fun c => { c with batch := some b, begun := true }) k e g b := by
  subst ht hbatch
  unfold runGenStep
  rw [checked_bare (genStepFields_ok ht1 ht2 hs1 hs2 hc1 hc2) (by simp [hs, hg, htemp, hplan])]
  simp only [hg, hbloom, hb, hbefore, hcancel, hp, Bool.not_true, Bool.or_self, Bool.false_eq_true, if_false]

theorem runGenStep_begun (hb : k.begun = true) (hbatch : k.batch = some b) : runGenStep s k e = goStep s k e g b := by
  unfold runGenStep
  rw [checked_bare (genStepFields_ok ht1 ht2 hs1 hs2 hc1 hc2) (by simp [hs, hg, htemp, hplan])]
  simp only [hg, hbloom, hb, hbatch, Bool.not_true, Bool.false_eq_true, if_false, if_true]

end

/-! ## GEN_CANCEL (07 R200) -/

theorem runGenCancel_ready {p : Part} {r : Req} (hid : k.n 0 < 2 ^ 24) (hp : s.part? e.part.num = some p)
    (hr : p.reqOf k.id.iface (k.n 0) = some r) (hin : s.inStep e.part.num r.slot = false) :
    runGenCancel s k e = (s, some (Result.ok (.genCancel (k.n 0)))) := by
  unfold runGenCancel
  rw [checked_bare (fieldsOk_single (decide_eq_true hid)) rfl]
  simp only [hp, Option.bind_some, hr, hin, Bool.false_eq_true, if_false]

/-! ## GEN_PREFILL (07 R190 to R192) -/

/-- At the end of its plan, with every item run and no output past the guard, a prefill ships its blocks and its final
message, and answers what the receiver answers. -/
theorem runPrefill_ready {u : State} {p : Part} {epoch : W32} {m : List Byte × Tab Made} (hn : k.nextEntry = none)
    (ht : t = (s.traverse k).1.runItems k e (planProducts e (k.n 5 - 1) [])) (hdone : t.itemsDone k.id = true) (hc : t.clean)
    (hp : t.part? e.part.num = some p) (hm : m = prefillCache k e p.epo g epoch)
    (hu : u = shipBlocks t k ((List.range (kvBlocks (k.n 5))).map (shippedBlock t k e g epoch m.1)) e)
    (hguard : guardResult k (madeWrites m.2) = none) :
    runPrefill s k e g epoch = ((shipFinal u k e (finalMessage u k e epoch)).1,
      some (prefillResult (shipFinal u k e (finalMessage u k e epoch)).2 (k.n 5) ((madeWrites m.2).map fun x => x.2.2))) := by
  subst hm hu
  simp only [runPrefill, State.traverse_end hn, ← ht, hdone, State.readBuffers_clean hc, hp, Option.map_some, Option.getD_some,
    hguard, Bool.not_true, Bool.or_self, Bool.false_eq_true, if_false]

theorem genPrefillFields_ok (hmod : k.n 1 < 2 ^ 14) (hpart : k.n 2 < 32) (hprompt : promptOk e (k.w 3) (k.n 4) (k.n 5) = true)
    (hlen : 2 ≤ k.n 5) (hg : e.part.gen.cfg = some g) (hfmt : kvFmtOk (k.n 6) g.dh = true) :
    fieldsOk [(k.off 1, decide (k.n 1 < 2 ^ 14)), (k.off 2, decide (k.n 2 < 32)), (k.off 3, promptOk e (k.w 3) (k.n 4) (k.n 5)),
      (k.off 5, decide (2 ≤ k.n 5)), (k.off 6, kvFmtOk (k.n 6) ((e.part.gen.cfg.map (·.dh)).getD 32))] := by
  refine firstBad_none.mpr ?_
  simp [-Nat.reducePow, hmod, hpart, hprompt, hlen, hg, hfmt]

/-- A prefill begins once its interface has funds; it goes on without them. -/
theorem runGenPrefill_goesOn {a : Area} (hc : s.clean) (hmod : k.n 1 < 2 ^ 14) (hpart : k.n 2 < 32)
    (hprompt : promptOk e (k.w 3) (k.n 4) (k.n 5) = true) (hlen : 2 ≤ k.n 5) (hg : e.part.gen.cfg = some g)
    (hfmt : kvFmtOk (k.n 6) g.dh = true) (hplan : e.planOk = true) (ha : e.first.epo.area? .bloom = some a)
    (hfunds : k.begun = true ∨ s.fundsOk k.id.iface = true) :
    runGenPrefill s k e = runPrefill (s.modCmd k.id fun c => { c with begun := true }) k e g a.epoch := by
  have hgo : (!k.begun && !s.fundsOk k.id.iface) = false := by rcases hfunds with h | h <;> simp [h]
  unfold runGenPrefill
  rw [checked_pass (genPrefillFields_ok hmod hpart hprompt hlen hg hfmt) (by simp [hg, hplan]) hc]
  simp only [hg, ha, hgo, Bool.false_eq_true, if_false]

/-! ## GEN_COMPL_RING (07 R198) -/

theorem runGenComplRing_checked (hb : e.bufferOk (k.w 0) 0 (32 * k.n 1) = true) (hn : ringCountOk (k.n 1) = true) :
    runGenComplRing s k e =
      if s.owes k.id.iface then (s, none) else (s, some (Result.ok (.complRing (k.w 0) (k.n 1)))) :=
  checked_bare (fieldsOk_append (fieldsOk_single hb) (fieldsOk_single hn)) rfl

/-! ## O8 -/

/-- Settles O8: each row's function answers its result; a step answers none while an entry of its plan is left, nor a new
ring while entries are owed. -/
theorem generationRowsComplete : Obligations.GenerationRowsComplete := by
  intro s id k e g b hc
  refine ⟨?config, ?admission, ?begins, ?decides, ?cancel, ?prefill, ?ring⟩
  case config =>
    exact fun h hd hl hh hw hf hg hp hlo hhi hs hr hplan hdraft =>
      exec_ready_writeless rfl h rfl (runGenConfig_ready hd hl hh hw hf hp hlo hhi hc hg hs hr hplan hdraft)
  case admission =>
    exact fun h h1 h2 hd hn hr hle hg hring =>
      exec_ready_writeless rfl h rfl (runGenAdmit_ready hc h1 h2 hd hn hr hle hg hring)
  case begins =>
    rintro t u p i h ht1 ht2 hs1 hs2 hc1 hc2 hs hg htemp hplan hbloom hb hbefore hcancel ht hp hbatch rfl hi
    obtain rfl := h.id_eq
    exact exec_goesOn rfl h ((runGenStep_begins ht1 ht2 hs1 hs2 hc1 hc2 hs hg htemp hplan hbloom hb hbefore hcancel ht hp
      hbatch).trans (goStep_entry hi))
  case decides =>
    intro t p a o h ht1 ht2 hs1 hs2 hc1 hc2 hs hg htemp hplan hbloom hb hbatch hn ht hdone htc hd hgen hp ha ho hfit
    obtain rfl := h.id_eq
    exact exec_ready rfl h hd ((runGenStep_begun ht1 ht2 hs1 hs2 hc1 hc2 hs hg htemp hplan hbloom hb hbatch).trans
      ((goStep_end hn ht hdone hgen).trans (runStep_ready htc hp ha ho hfit)))
  case cancel =>
    intro p r h hn hp hr hin
    obtain rfl := h.id_eq
    exact exec_ready_writeless rfl h rfl (runGenCancel_ready hn hp hr hin)
  case prefill =>
    intro t u p a m h hmod hpart hprompt hlen hg hfmt hplan ha hfunds hn ht hdone htc hp hm hu hguard hd
    obtain rfl := h.id_eq
    exact exec_ready rfl h hd ((runGenPrefill_goesOn hc hmod hpart hprompt hlen hg hfmt hplan ha hfunds).trans
      (runPrefill_ready hn ht hdone htc hp hm hu hguard))
  case ring =>
    intro h hb hn
    obtain rfl := h.id_eq
    have hrun := runGenComplRing_checked (s := s) hb hn
    split
    · next ho => exact exec_goesOn rfl h (hrun.trans (if_pos ho))
    · next ho => exact exec_ready_writeless rfl h rfl (hrun.trans (if_neg ho))

end Sys2Proof.Machine
end

section
/-!
PROOFS. The events of generation (spec 07 R187, R188, R192, R193, R198, R199, R203): what each operation does once its condition
holds, in a module that the event wakes, and O27 from these.
-/
namespace Sys2Proof.Machine

variable {s : State} {n i : Nat} {p : Part} {g : GenCfg} {r : Req}

/-! ## Waking leaves partitions -/

@[simp] theorem State.wake_parts (s : State) : s.wake.parts = s.parts := by
  unfold State.wake
  split <;> rfl

@[simp] theorem State.wake_part? (s : State) (n : Nat) : s.wake.part? n = s.part? n := by
  simp only [State.part?, State.wake_parts]

/-! ## Shipped blocks and final messages (07 R192); where a block is written is the model's choice (log 64) -/

section
variable (hp : s.part? n = some p) (hg : p.gen.cfg = some g)
include hp hg

theorem kvReceive_fits {b : KvBlock} (hr : p.kvTarget b.request b.srcModule b.srcPart = some r) (hf : kvFits g r b = true) :
    kvReceive s n b = (s.writeBuffer n g.pool (kvAddr g 0 r.blocks (64 * b.index))
      (b.data.take (b.positions * (passOf 0#16 g 0 []).kvSize))).modPart n fun q => { q with gen := { q.gen with
      reqs := modWhere (·.slot == r.slot) (fun r => { r with kvGot := addOnce b.index r.kvGot }) q.gen.reqs } } := by
  simp only [kvReceive, hp, hg, hr, hf, if_true]

/-- A final message is accepted from the request's source, in the pool's format, once all of the prompt's blocks are there. -/
theorem kvFinal_complete {m : KvFinal} (hr : p.gen.reqs.find? (·.ident == m.request) = some r) (hw : r.waiting = true)
    (hm : field r.src 13 0 = m.srcModule) (hs : field r.src 20 16 = m.srcPart) (hf : m.fmt = g.kvFmt)
    (hl : m.promptLen = r.promptLen) (hb : m.blocks = kvBlocks r.promptLen)
    (hall : ∀ j < kvBlocks r.promptLen, r.kvGot.contains j = true) :
    kvFinal s n m = (s.modPart n fun q => { q with gen := { q.gen with
      reqs := modWhere (·.slot == r.slot) (fun r =>
        { r with waiting := false, len := r.promptLen - 1, prefillEpoch := m.epoch }) q.gen.reqs } }, stOK) := by
  have hgot : (List.range (kvBlocks r.promptLen)).all r.kvGot.contains = true :=
    List.all_eq_true.mpr fun j hj => hall j (List.mem_range.mp hj)
  simp only [kvFinal, hp, hg, hr]
  rw [if_pos]
  simp only [hw, hm, hs, hf, hl, hb, hgot, beq_self_eq_true, Bool.and_self]

end

theorem execKvBlockReceive_up (hup : s.windowUp = true) (b : KvBlock) :
    execKvBlockReceive n b s = .next (kvReceive s.wake n b) := if_pos hup

theorem execPrefillFinalMessage_up (hup : s.windowUp = true) (m : KvFinal) :
    execPrefillFinalMessage n m s = .next ((kvFinal s.wake n m).1.emit (.kvAnswer m.request (kvFinal s.wake n m).2)) :=
  if_pos hup

/-! ## Late blocks and pins (07 R193, R203) -/

theorem execKvDeadlineExpiry_late (hup : s.windowUp = true) (hp : s.part? n = some p)
    (hr : p.gen.reqs.find? (·.slot == i) = some r) (hw : r.waiting = true) (hd : r.kvDeadline ≠ 0)
    (hlate : r.admitUs + 1000 * r.kvDeadline ≤ s.clk.localUs) :
    execKvDeadlineExpiry n i s = .next (s.wake.endReq n r endKvFailed true) := by
  unfold execKvDeadlineExpiry
  rw [if_pos hup]
  simp only [kvDeadline, hp, Option.bind_some, hr]
  rw [if_pos (by simp [hw, hd, hlate])]

/-- Pins are dropped only between batch steps. -/
theorem execPinDrop_due (hup : s.windowUp = true) (hp : s.part? n = some p) (hh : p.epo.hasArea .held = true)
    (hs : s.stepping n = false) (ht : p.epo.heldAt + 1000 * p.pinLimit ≤ s.clk.localUs) :
    execPinDrop n s = .next (s.wake.dropPins n) := by
  unfold execPinDrop
  rw [if_pos hup]
  simp only [pinDropAt, hp]
  rw [if_pos (by simp [hh, hs, ht])]

/-! ## Budgets (07 R187, R188) -/

theorem execBudgetRefill_due (hl : s.live = true) (ht : s.clk.refillMs < s.clk.localUs / 1000) :
    execBudgetRefill s =
      .next { s with ifaces := s.ifaces.map (·.refill), clk := { s.clk with refillMs := s.clk.refillMs + 1 } } :=
  if_pos (by simp [hl, ht])

/-! ## Completion entries (07 R198, R199) -/

/-- An entry that is owed is written once its ring has room, and is owed no more. -/
theorem execCompletionEntryWrite_room {f : Iface} {h : W32} {k : Nat} {o : Owed} (ha : s.awake = true)
    (hf : s.iface? i = some f) (hp : s.part? f.part = some p) (hc : f.cring = some (h, k))
    (ho : p.gen.owed.find? (·.iface == i) = some o) (hroom : (f.cringWr - f.cringRd).toNat < k) :
    execCompletionEntryWrite i s = .next
      (((s.writeBuffer f.part h (32 * (f.cringWr.toNat % k)) (wordsBytes o.words)).modPart f.part fun q =>
        { q with gen := { q.gen with owed := dropFirst (·.iface == i) q.gen.owed } }).modIface i fun f =>
          { f with cringWr := f.cringWr + 1 }) := by
  unfold execCompletionEntryWrite
  rw [if_pos ha]
  simp only [writeEntry, hf, hc, hp, Option.bind_some, ho]
  rw [if_neg (Nat.not_le.mpr hroom)]

/-! ## O27 -/

/-- Settles O27: each event whose condition holds runs its operation on the woken module, which finds the same partition. -/
theorem generationEventsComplete : Obligations.GenerationEventsComplete := by
  intro s n i p g r b m f h k o hp hg
  have hp' : s.wake.part? n = some p := (s.wake_part? n).trans hp
  refine ⟨?block, ?final, fun hup => execKvDeadlineExpiry_late hup hp, fun hup => execPinDrop_due hup hp,
    execBudgetRefill_due, ?entry⟩
  case block =>
    exact fun hup hr hf => (execKvBlockReceive_up hup b).trans (congrArg _ (kvReceive_fits hp' hg hr hf))
  case final =>
    intro hup hr hw hm hs hf hl hb hall
    refine (execPrefillFinalMessage_up hup m).trans ?_
    rw [kvFinal_complete hp' hg hr hw hm hs hf hl hb hall]
  case entry =>
    rintro ha hf rfl hc ho hroom
    exact execCompletionEntryWrite_room ha hf hp hc ho hroom

end Sys2Proof.Machine
end

section
/-!
PROOFS. The experience rows (spec 08 R210, R213, R214, R218, R219, R221, R222): what each function answers once its checks pass,
that taking a hold leaves memory without read errors, and O11 from these.
-/
namespace Sys2Proof.Machine

variable {s t : State} {id : CmdId} {k : Cmd} {e : Env} {r : Ring}

/-! ## EXP_RING_CREATE (08 R210) -/

/-- A plain allocation that can hold a ring passes the field check too, which leaves its role to the state check. -/
theorem ringRoomOk_of_ringAllocOk {a : Alloc} (h : ringAllocOk a = true) : ringRoomOk a = true :=
  (Bool.and_eq_true_iff.mp h).1

theorem runRingCreate_ready {a : Alloc} {gs : List W32} (hc : s.clean) (ha : e.alloc? (k.w 0) = some a)
    (hring : ringAllocOk a = true) (hn : (k.a 1).count ≤ 8) (harr : e.arrayOk (k.a 1) 4 = true)
    (hfree : e.part.freeRing.isSome = true) (hgs : gs = (e.entries (k.a 1) 4).map (fun w => w.getD 0 0#32))
    (hres : ∀ g ∈ gs, g &&& 0xFFE0C000#32 = 0#32) :
    runRingCreate s k e = (s, some (Result.ok (.ringCreate (k.w 0) gs))) := by
  subst hgs
  have hf : fieldsOk [(k.off 0, ((e.alloc? (k.w 0)).map ringRoomOk).getD false),
      (k.off 1, decide ((k.a 1).count ≤ 8) && e.arrayOk (k.a 1) 4)] :=
    firstBad_none.mpr (by simp [ha, ringRoomOk_of_ringAllocOk hring, hn, harr])
  have hgrants : (((e.entries (k.a 1) 4).map fun w => w.getD 0 0#32).all fun g => g &&& 0xFFE0C000#32 == 0#32) = true :=
    List.all_eq_true.mpr fun g hg => beq_iff_eq.mpr (hres g hg)
  unfold runRingCreate
  exact checked_pass hf (by simp only [ha, hring, hfree, hgrants, Option.map_some, Option.getD_some, Bool.and_self]) hc

/-! ## EXP_CLASS_SET (08 R213) -/

theorem runClassSet_ready (hr : k.n 0 < 16) (hcls : k.n 1 < 256) (hgamma : unitOk (k.w 2) = true)
    (hlambda : unitOk (k.w 3) = true) (hring : (e.part.ring? (k.n 0)).isSome = true) :
    runClassSet s k e = (s, some (Result.ok (.classSet (k.n 0) (k.n 1) (k.w 2) (k.w 3)))) :=
  checked_bare (firstBad_none.mpr (by simp [hr, hcls, hgamma, hlambda])) hring

/-! ## EXP_SCORE (08 R214, R218, R219) -/

/-- Memory reads without errors wherever the committed store is the same. -/
theorem SameStore.clean (h : SameStore s t) (hc : s.clean) : t.clean := by
  obtain ⟨hallocs, hareas⟩ := hc
  refine ⟨h.allocs ▸ hallocs, fun p hp => ?_⟩
  have hcore : p.core ∈ s.parts.map Part.core := h.parts ▸ List.mem_map_of_mem hp
  obtain ⟨q, hq, hqp⟩ := List.mem_map.mp hcore
  have hepo : q.epo = p.epo := congrArg (·.2.1) hqp
  exact hepo ▸ hareas q hq

theorem SameStore.holdTraj (s : State) (p n : Nat) (request : W32) (c : CmdId) : SameStore s (holdTraj s p n request c) :=
  .modPart s p fun _ => rfl

theorem SameStore.joinScans (s : State) : SameStore s s.joinScans :=
  ⟨rfl, rfl, rfl, rfl, rfl, rfl, rfl, rfl, rfl, rfl, rfl, fun _ h => h⟩

/-- In its lane, with the closed trajectory its own or its turn to take it, a scan reads what it scores and leaves the unit. -/
theorem runExpScore_ready {x : Traj} (hc : s.clean) (hfit : s.fit.scan = true) (hf : fieldsOk (scoreFields k e))
    (hring : e.part.ring? (k.n 0) = some r) (hi : k.n 1 / 2 ^ 24 = k.id.iface) (hx : r.unscanned (k.w 1) = some x)
    (hhold : x.holder = some k.id ∨ x.holder = none ∧ s.scoredBefore k = false)
    (ht : t = (holdTraj s e.part.num (k.n 0) (k.w 1) k.id).joinScans) (hclosed : x.closed = true)
    (hlane : t.inLane k.id = true) (hcover : tensorsCover k e x.recs.length = true) :
    runExpScore s k e = (t.leaveQueues k.id, some (Result.ok (.score (k.n 0) (k.w 1) (scored k e x)))) := by
  have hstate : ((e.part.ring? (k.n 0)).isSome && k.n 1 / 2 ^ 24 == k.id.iface) = true := by
    simp only [hring, hi, Option.isSome_some, beq_self_eq_true, Bool.and_self]
  have hgo : (x.holder != some k.id && (x.holder.isSome || s.scoredBefore k)) = false := by
    rcases hhold with h | ⟨h, hb⟩
    · simp [h]
    · simp [h, hb]
  have htc : t.clean := ht ▸ (SameStore.joinScans _).clean ((SameStore.holdTraj _ _ _ _ _).clean hc)
  unfold runExpScore
  rw [if_neg (by simp [hfit]), checked_bare hf hstate]
  simp only [hring, Option.bind_some, hx, Option.map_some, hgo, ← ht, hclosed, hlane, hcover, State.readBuffers_clean htc,
    State.readRefs_clean htc, Bool.not_true, Bool.or_self, Bool.false_eq_true, if_false]

/-! ## EXP_GATHER (08 R221) -/

theorem State.readClaim_clean (hc : s.clean) (c : Cmd) (p : Nat) (l : List (W32 × Nat × Nat)) :
    s.readClaim c p l = (s, false) := by
  induction l with
  | nil => rfl
  | cons x l ih =>
    obtain ⟨h, lo, n⟩ := x
    simp only [State.readClaim, State.readBytesAt_clean hc, ih, Bool.or_self]

/-- A gather from a ring of this module that grants its partition answers as its first dispatch found the queue. -/
theorem runExpGather_here {p : Part} (hmod : k.n 0 < 2 ^ 14) (hpart : k.n 1 < 32) (hnum : k.n 2 < 16) (hmax : 1 ≤ k.n 3)
    (hb : e.bufferOk (k.w 4) 0 0 = true) (hself : k.n 0 = s.net.moduleId) (hp : s.part? (k.n 1) = some p)
    (hr : p.ring? (k.n 2) = some r) (hg : r.grantsTo s.net.moduleId e.part.num = true) :
    runExpGather s k e = gatherHere s k p r := by
  have hf : fieldsOk [(k.off 0, decide (k.n 0 < 2 ^ 14)), (k.off 1, decide (k.n 1 < 32)), (k.off 2, decide (k.n 2 < 16)),
      (k.off 3, decide (1 ≤ k.n 3)), (k.off 4, e.bufferOk (k.w 4) 0 0)] :=
    firstBad_none.mpr (by simp [-Nat.reducePow, hmod, hpart, hnum, hmax, hb])
  unfold runExpGather
  rw [checked_bare hf rfl, if_neg (not_not_intro hself)]
  simp only [hp, Option.bind_some, hr, Option.map_some, hg, if_true]

theorem gatherHere_nothingQueued (p : Part) (r : Ring) (h : k.stage = 1) :
    gatherHere s k p r = (s, some (Result.bare stOK)) := by
  simp only [gatherHere, h]

theorem gatherHere_noneFits (p : Part) (r : Ring) (h : k.stage = 2) :
    gatherHere s k p r = (s, some (Result.bare stNO_RESOURCE)) := by
  simp only [gatherHere, h]

theorem gatherHere_claimed (p : Part) (r : Ring) (hc : s.clean) (h : k.stage = 3) :
    gatherHere s k p r = (s, some (gatherResult k p.num r.number (claimed r k.id))) := by
  simp only [gatherHere, h, State.readClaim_clean hc, Bool.false_eq_true, if_false]

/-! ## EXP_RING_DESTROY (08 R222) -/

theorem runRingDestroy_checked (hn : k.n 0 < 16) (hr : e.part.ring? (k.n 0) = some r) :
    runRingDestroy s k e =
      if s.ringBusy e.part r then (s, none) else (s, some (Result.ok (.ringDestroy (k.n 0)))) := by
  unfold runRingDestroy
  rw [checked_bare (fieldsOk_single (decide_eq_true hn)) (by simp [hr])]
  simp only [hr]

/-! ## O11 -/

/-- Settles O11: each row's function answers its result, and a ring in use answers none; only a gather writes a tensor, so only
it needs that no checkpoint drains. -/
theorem experienceRowsComplete : Obligations.ExperienceRowsComplete := by
  intro s id k e hc hd
  refine ⟨?create, ?classSet, ?score, ?gather, ?destroy⟩
  case create =>
    exact fun a gs h ha hring hn harr hfree hgs hres =>
      exec_ready_writeless rfl h rfl (runRingCreate_ready hc ha hring hn harr hfree hgs hres)
  case classSet =>
    exact fun h hr hcls hgamma hlambda hring =>
      exec_ready_writeless rfl h rfl (runClassSet_ready hr hcls hgamma hlambda hring)
  case score =>
    intro r x t h hfit hf hring hi hx hhold ht hclosed hlane hcover
    obtain rfl := h.id_eq
    exact exec_ready_writeless rfl h rfl (runExpScore_ready hc hfit hf hring hi hx hhold ht hclosed hlane hcover)
  case gather =>
    intro p r h hmod hpart hnum hmax hb hself hp hr hg
    obtain rfl := h.id_eq
    have hrun := runExpGather_here hmod hpart hnum hmax hb hself hp hr hg
    exact ⟨fun h1 => exec_ready_writeless rfl h rfl (hrun.trans (gatherHere_nothingQueued p r h1)),
      fun h2 => exec_ready_writeless rfl h rfl (hrun.trans (gatherHere_noneFits p r h2)),
      fun h3 => exec_ready rfl h hd (hrun.trans (gatherHere_claimed p r hc h3))⟩
  case destroy =>
    intro r h hn hr
    have hrun := runRingDestroy_checked (s := s) hn hr
    split
    · next hbusy => exact exec_goesOn rfl h (hrun.trans (if_pos hbusy))
    · next hbusy => exact exec_ready_writeless rfl h rfl (hrun.trans (if_neg hbusy))

end Sys2Proof.Machine
end

section
/-!
PROOFS. The learning rows (spec 09 R225 to R232, R238 to R246, R249, R250; 14 R379 to R383): what each
opcode's function answers once its checks pass, what an open collective answers once all it waits for is there, and O9 from these.
-/
namespace Sys2Proof.Machine

variable {s t : State} {id : CmdId} {k : Cmd} {e : Env}

/-! ## LEARN_PLAN (09 R225, R226) -/

theorem learnPlanFields_ok {a : Alloc} (h1 : 1 ≤ (k.a 0).count) (h2 : (k.a 0).count ≤ 4096) (hps : e.arrayOk (k.a 0) 32 = true)
    (hcs : e.arrayOk (k.a 1) 1 = true) (hpool : e.alloc? (k.w 2) = some a) (hhome : a.home ≠ .ddr) (hm1 : 1 ≤ k.n 3)
    (hm2 : k.n 3 ≤ 64) :
    fieldsOk [(k.off 0, decide (1 ≤ (k.a 0).count) && decide ((k.a 0).count ≤ 4096) && e.arrayOk (k.a 0) 32),
      (k.off 1, e.arrayOk (k.a 1) 1), (k.off 2, ((e.alloc? (k.w 2)).map fun a => a.home != .ddr).getD false),
      (k.off 3, decide (1 ≤ k.n 3) && decide (k.n 3 ≤ 64))] := by
  refine firstBad_none.mpr ?_
  simp [h1, h2, hps, hcs, hpool, hhome, hm1, hm2]

theorem runLearnPlan_ready {a : Alloc} {ps : List PlanEntry} (hc : s.clean) (hps : ps = (e.entries (k.a 0) 32).map planEntryOf)
    (h1 : 1 ≤ (k.a 0).count) (h2 : (k.a 0).count ≤ 4096) (harr : e.arrayOk (k.a 0) 32 = true) (hcs : e.arrayOk (k.a 1) 1 = true)
    (hpool : e.alloc? (k.w 2) = some a) (hhome : a.home ≠ .ddr) (hm1 : 1 ≤ k.n 3) (hm2 : k.n 3 ≤ 64)
    (hone : ps.all (planEntryOk e) = true) (hall : entriesOk ps = true) (hfree : s.planBound k = false) :
    runLearnPlan s k e = (s, some (Result.ok (.learnPlan (planAsked k e ps)))) := by
  subst hps
  unfold runLearnPlan
  dsimp only
  rw [checked_pass (learnPlanFields_ok h1 h2 harr hcs hpool hhome hm1 hm2) (by rw [hone, hall, Bool.and_self]) hc,
    if_neg (by simp [hfree])]
  rfl

/-! ## LEARN_STEP (09 R229, R230, R232, R238) -/

/-- Overrides that name only outputs the step writes leave its result as the passes give it. -/
theorem stepBody_ready {l : LearnPlan} {mbs : List (List Seq)}
    (ho : overridesKnown (stepOverrides k e) (stepWork s k e l mbs).ordinals = true) :
    stepBody s k e l mbs = (s, some (learnResult k e l (stepLayers s e l) (stepWork s k e l mbs))) := by
  simp only [stepBody, ho, Bool.not_true, Bool.false_eq_true, if_false]

/-- With room in the activation pool, at the end of its plan, with every item run, the transposed blocks rebuilt and the
generators free where it draws, a step runs its passes. -/
theorem runLearnStep_passes {a : Alloc} {mbs : List (List Seq)} (hc : s.clean) (hf : fieldsOk (learnFields k e))
    (hst : learnState k e = true) (hplan : e.planOk = true) (hmbs : mbs = microBatches (k.n 3) (stepSeqs k e))
    (ha : e.alloc? (e.plan!).pool = some a)
    (hroom : poolNeed (stepLayers s e (e.plan!)) (mbs.map fun qs => sumBy Seq.len qs) ≤ a.size) (hn : k.nextEntry = none)
    (ht : t = (s.traverse k).1.runItems k e (stepProducts (stepLayers s e (e.plan!)) ((k.plan.map (·.handles)).getD [])
      (mbs.map fun qs => sumBy Seq.len qs)))
    (hdone : t.itemsDone k.id = true) (hbuilt : t.transposing e.part.num (e.plan!) = false)
    (hgen : e.det = true ∨ k.layersStoch = false ∨ t.generatorHeld k e.part.tiles = false) :
    runLearnStep s k e = stepBody t k e (e.plan!) mbs := by
  subst hmbs
  have hpool : ¬ ((e.alloc? (e.plan!).pool).map (·.size)).getD 0 < poolNeed (stepLayers s e (e.plan!))
      ((microBatches (k.n 3) (stepSeqs k e)).map fun qs => sumBy Seq.len qs) := by
    simpa only [ha, Option.map_some, Option.getD_some, Nat.not_lt] using hroom
  have hgo : (!e.det && k.layersStoch && t.generatorHeld k e.part.tiles) = false := by
    rcases hgen with h | h | h <;> simp [h]
  unfold runLearnStep
  rw [checked_pass hf (by rw [hst, hplan, Bool.and_self]) hc]
  dsimp only
  rw [if_neg hpool]
  simp only [State.traverse_end hn, ← ht, hdone, hbuilt, hgo, Bool.not_true, Bool.or_self, Bool.false_eq_true, if_false]

/-! ## GRAD_REDUCE and PARAM_GATHER in progress (09 R239, R240, R250; 14 R380 to R383) -/

section
variable {x z y : Coll} (hx : (s.part? e.part.num).bind (·.coll? k.id) = some x) (hm : earlyMismatch s e.part.num x = false)
  (hz : ((collAbsorb s e.part.num x).part? e.part.num).bind (·.coll? k.id) = some z)
  (ht : t = collAdvance (collAbsorb s e.part.num x) e.part.num z) (hy : (t.part? e.part.num).bind (·.coll? k.id) = some y)
include hx hm hz ht hy

/-- A collective in progress takes what has come, sends what it owes, and answers once it is complete. -/
theorem runGradReduce_open : runGradReduce s k e = (t, reduceResult t e.part.num (nansOf k e) y) := by
  unfold runGradReduce
  simp only [hx, hm, hz, Option.getD_some, ← ht, hy, Option.bind_some, Bool.false_eq_true, if_false]

theorem runParamGather_open : runParamGather s k e = (t, gatherResult? t e.part.num e y) := by
  unfold runParamGather
  simp only [hx, hm, hz, Option.getD_some, ← ht, hy, Option.bind_some, Bool.false_eq_true, if_false]

end

/-- A reduction is complete once all is sent and, where this rank owns blocks, their partials have come without ERR. -/
theorem reduceResult_complete {p nans : Nat} {y : Coll} (hs : collSent s p y = true)
    (hr : y.rank < y.o → y.received y.rank = true ∧ y.errOf y.rank = 0#32) :
    reduceResult s p nans y = some { Result.ok (.reduce nans y.reduction) with writes := y.ownWrites } := by
  have hall : (List.range y.o).all (fun o => o != y.rank || y.received o) = true := by
    refine List.all_eq_true.mpr fun o ho => ?_
    by_cases h : o = y.rank
    · subst h
      rw [(hr (List.mem_range.mp ho)).1, Bool.or_true]
    · rw [bne_iff_ne.mpr h, Bool.true_or]
  simp only [reduceResult, Coll.ownWrites, hs, hall, Bool.not_true, Bool.or_self, Bool.false_eq_true, if_false]
  by_cases howner : y.rank < y.o
  · rw [if_pos howner, if_pos howner, if_neg (not_not_intro (hr howner).2)]
    rfl
  · rw [if_neg howner, if_neg howner]
    rfl

/-- A gather that has a result is OK, for the entries and the epoch of its collective. -/
theorem gatherResult?_ok {p : Nat} {y : Coll} {r : Result} (h : gatherResult? s p e y = some r) :
    r.status = stOK ∧ r.eff = .gather y.entries y.epoch := by
  unfold gatherResult? at h
  split at h
  · cases h
  · cases h
    exact ⟨rfl, rfl⟩

/-! ## RULE_LOAD (09 R243) -/

theorem runRuleLoad_ready (hc : s.clean) (hslot : k.n 0 < 8) (h1 : 1 ≤ (k.a 1).count) (h2 : (k.a 1).count ≤ 32)
    (ha : e.arrayOk (k.a 1) 4 = true) (hws : ∀ w ∈ e.entries (k.a 1) 4, ruleOk (w.getD 0 0#32) = true)
    (hfree : s.ruleBound e.part.num (k.n 0) = false) :
    runRuleLoad s k e = (s, some (Result.ok (.ruleLoad (k.n 0) ((e.entries (k.a 1) 4).map fun w => w.getD 0 0#32)))) := by
  have hf : fieldsOk [(k.off 0, decide (k.n 0 < 8)),
      (k.off 1, decide (1 ≤ (k.a 1).count) && decide ((k.a 1).count ≤ 32) && e.arrayOk (k.a 1) 4)] :=
    firstBad_none.mpr (by simp [hslot, h1, h2, ha])
  have hwords : (((e.entries (k.a 1) 4).map fun w => w.getD 0 0#32).all ruleOk) = true := by
    rw [List.all_map]
    exact List.all_eq_true.mpr hws
  unfold runRuleLoad
  dsimp only
  rw [checked_pass hf hwords hc, if_neg (by simp [hfree])]

/-! ## RULE_APPLY (09 R244 to R246) -/

/-- An update that is not ATOMIC writes every parameter of its work, and answers unless an output trips its guard. -/
theorem ruleBody_ready {prog : List W32} {r : Reduced} {u : List TWrite × Drawer} (hat : bitAt k.flags 0 = false)
    (hprog : boundRule e (k.n 0) = some prog) (hr : ruleReduced k e = some r)
    (hgen : e.det = true ∨ k.planStoch = false ∨ s.generatorHeld k e.part.tiles = false)
    (hu : u = ruleEntries k e (fun _ _ => true) prog (ruleWork k e) (entryList k e 20).eraseDups (s.drawer e))
    (hguard : guardResult k (guardedRule e (entryList k e 20) u.1) = none) :
    ruleBody s k e = (s, some (ruleOutcome k e r u.1 (if !e.det && k.planStoch then some u.2.gens else none))) := by
  subst hu
  have hgo : (!e.det && k.planStoch && s.generatorHeld k e.part.tiles) = false := by
    rcases hgen with h | h | h <;> simp [h]
  simp only [ruleBody, hprog, hr, hgo, hat, hguard, Bool.false_and, Bool.not_false, Option.getD_none, Bool.false_eq_true, if_false]

theorem runRuleApply_plain (hc : s.clean) (hat : bitAt k.flags 0 = false) (hf : fieldsOk (ruleFields k e))
    (hst : ruleState k e = true) : runRuleApply s k e = ruleBody s k e := by
  unfold runRuleApply
  rw [if_neg (by simp [hat]), checked_pass hf hst hc]

/-! ## MASK_SET (09 R249) -/

theorem maskSetFields_ok {n : Nat} (hentry : k.n 0 < (e.plan!).entries.length)
    (hi : fieldsOk (inputChecks e (k.off 1) (k.t 1))) (hfmt : (k.t 1).fmt = int8Field)
    (hb : e.bufferOk (k.t 1).handle (k.t 1).off ((n + 7) / 8) = true) (hlen : (n + 7) / 8 ≤ e.len (k.t 1)) :
    fieldsOk ([(k.off 0, e.plan.isNone || decide (k.n 0 < (e.plan!).entries.length))] ++ inputChecks e (k.off 1) (k.t 1) ++
      [(k.off 1, (k.t 1).fmt == int8Field && e.bufferOk (k.t 1).handle (k.t 1).off ((n + 7) / 8)),
        (k.off 1 + 24, decide ((n + 7) / 8 ≤ e.len (k.t 1)))]) := by
  refine fieldsOk_append (fieldsOk_append (fieldsOk_single (by simp [hentry])) hi) (firstBad_none.mpr ?_)
  simp [hfmt, hb, hlen]

theorem runMaskSet_ready {w : List Alloc} {a : Alloc} (hc : s.clean) (hplan : e.plan.isSome = true)
    (hentry : k.n 0 < (e.plan!).entries.length) (hw : w = (e.weights [k.n 0]).filterMap e.alloc?) (hne : w ≠ [])
    (hi : fieldsOk (inputChecks e (k.off 1) (k.t 1))) (hfmt : (k.t 1).fmt = int8Field)
    (hb : e.bufferOk (k.t 1).handle (k.t 1).off (((w.map Alloc.paramBlocks).headD 0 + 7) / 8) = true)
    (hlen : ((w.map Alloc.paramBlocks).headD 0 + 7) / 8 ≤ e.len (k.t 1)) (ha : e.alloc? (k.t 1).handle = some a) :
    runMaskSet s k e =
      (s, some (Result.ok (.mask (k.n 0) (maskBlocks a (k.t 1).off ((w.map Alloc.paramBlocks).headD 0))))) := by
  have hst : (e.plan.isSome && !w.isEmpty) = true := by simp [hplan, hne]
  subst hw
  unfold runMaskSet
  dsimp only
  rw [checked_pass (maskSetFields_ok hentry hi hfmt hb hlen) hst hc, ha]
  rfl

/-! ## O9 -/

/-- Settles O9: each row's function answers its result; where the result writes tensors, no checkpoint drains in the state the row
leaves. -/
theorem learningRowsComplete : Obligations.LearningRowsComplete := by
  intro s id k e hc hd
  refine ⟨?plan, ?step, ?reduce, ?ruleLoad, ?ruleApply, ?gather, ?mask⟩
  case plan =>
    rintro ps h hps h1 h2 harr hcs ⟨a, hpool, hhome⟩ hm1 hm2 hone hall hfree
    exact exec_ready_writeless rfl h rfl
      (runLearnPlan_ready hc hps h1 h2 harr hcs hpool hhome hm1 hm2 hone hall hfree)
  case step =>
    rintro t w mbs h hf hst hplan hmbs ⟨a, ha, hroom⟩ hn ht hdone htd hbuilt hgen rfl ho
    obtain rfl := h.id_eq
    exact exec_ready rfl h htd
      ((runLearnStep_passes hc hf hst hplan hmbs ha hroom hn ht hdone hbuilt hgen).trans (stepBody_ready ho))
  case reduce =>
    intro x z y t h hx hm hz ht hy htd hs hr
    obtain rfl := h.id_eq
    exact exec_ready rfl h htd
      ((runGradReduce_open hx hm hz ht hy).trans (congrArg (Prod.mk t) (reduceResult_complete hs hr)))
  case ruleLoad =>
    exact fun h hslot h1 h2 ha hws hfree =>
      exec_ready_writeless rfl h rfl (runRuleLoad_ready hc hslot h1 h2 ha hws hfree)
  case ruleApply =>
    exact fun prog r u h hat hf hst hprog hr hgen hu hguard =>
      exec_ready rfl h hd ((runRuleApply_plain hc hat hf hst).trans (ruleBody_ready hat hprog hr hgen hu hguard))
  case gather =>
    intro x z y t r h hx hm hz ht hy htd _ _ hr
    obtain rfl := h.id_eq
    obtain ⟨hstatus, heff⟩ := gatherResult?_ok hr
    exact ⟨hstatus, heff, exec_ready rfl h htd ((runParamGather_open hx hm hz ht hy).trans (congrArg (Prod.mk t) hr))⟩
  case mask =>
    exact fun w a h hplan hentry hw hne hi hfmt hb hlen ha =>
      exec_ready_writeless rfl h rfl (runMaskSet_ready hc hplan hentry hw hne hi hfmt hb hlen ha)

end Sys2Proof.Machine
end

section
/-!
PROOFS. Messages of collectives (spec 09 R242; 14 R379, R382): what a message does that is early, that is taken, and that has
another DIGEST, and O33 from these.
-/
namespace Sys2Proof.Machine

variable {s : State} {n : Nat} {m : CollMsg} {p : Part} {x : Coll}

theorem execCollPacketReceive_awake (ha : s.awake = true) :
    execCollPacketReceive n m s = .next (collReceive s.wake n m).noteSched := if_pos ha

section
variable (hp : s.part? n = some p)
include hp

/-- That an early message waits, and that a completed collective discards it, is the model's reading (log 38). -/
theorem collReceive_early (hx : p.collFor m = none) :
    collReceive s n m = s.modPart n fun q => if q.shut.contains (msgKey m) then q else { q with early := q.early ++ [m] } := by
  simp only [collReceive, hp, Option.bind_some, hx]

variable (hx : p.collFor m = some x)
include hx

theorem collReceive_taken {u : State} {y : Coll} (hd : m.digest = x.digest) (hnew : x.msgFrom m.owner m.rank = none)
    (hu : u = modColl s n x.cmd (fun y => { y with got := y.got ++ [m] })) (hy : (u.part? n).bind (·.coll? x.cmd) = some y) :
    collReceive s n m = collTry (collAdvance u n y) n x.cmd := by
  subst hu
  simp only [collReceive, hp, Option.bind_some, hx, hd, hnew, ne_eq, not_true_eq_false, Option.isSome_none, Bool.false_eq_true,
    if_false, hy]

theorem collReceive_otherDigest (hd : m.digest ≠ x.digest) : collReceive s n m = collMismatch s n x := by
  simp only [collReceive, hp, Option.bind_some, hx]
  exact if_pos hd

end

/-! ## O33 -/

/-- Settles O33: the woken module finds the same partition, and a message does there as its collective stands. -/
theorem collectiveMessages : Obligations.CollectiveMessages := by
  intro s n m p x ha hp
  have hp' : s.wake.part? n = some p := (s.wake_part? n).trans hp
  have hexec : exec (.collPacketReceive n m) s = .next (collReceive s.wake n m).noteSched := execCollPacketReceive_awake ha
  refine ⟨?early, ?taken, ?otherDigest⟩
  case early =>
    intro hx _
    rw [hexec, collReceive_early hp' hx]
  case taken =>
    intro u y hx hd hnew hu hy
    rw [hexec, collReceive_taken hp' hx hd hnew hu hy]
  case otherDigest =>
    intro hx hd
    rw [hexec, collReceive_otherDigest hp' hx hd]

end Sys2Proof.Machine
end

section
/-!
PROOFS. The epoch rows (spec 10 R253 to R256, R258, R261 to R264, R270, R273): what each opcode's function answers once its
checks pass, how a load begins, and O10 from these.
-/
namespace Sys2Proof.Machine

variable {s : State} {id : CmdId} {k : Cmd} {e : Env} {p : Part}

/-! ## EPO_MAP (10 R255, R256) -/

theorem runEpoMap_ready {ms : List MapEntry} (hc : s.clean) (hi : s.epochIssuer e = true)
    (hms : ms = (e.entries (k.a 0) 32).map mapEntryOf) (h1 : 1 ≤ (k.a 0).count) (h2 : (k.a 0).count ≤ 4096)
    (ha : e.arrayOk (k.a 0) 32 = true) (hws : ∀ w ∈ e.entries (k.a 0) 32, mapEntryOk (e.part.role == roleLearn) w = true)
    (hapart : pairwiseApart ms = true) (hbusy : s.mapBusy e.part k.id = false)
    (hlearn : e.part.role = roleLearn → ∀ m ∈ ms, s.learnEntryOk e.part.num m = true) :
    runEpoMap s k e = (s, some (Result.ok (.epoMap ms (k.a 0).handle (k.a 0).off))) := by
  subst hms
  have hentries : ((e.entries (k.a 0) 32).all (mapEntryOk (e.part.role == roleLearn))) = true := List.all_eq_true.mpr hws
  have hweights : (!(e.part.role == roleLearn) ||
      ((e.entries (k.a 0) 32).map mapEntryOf).all (s.learnEntryOk e.part.num)) = true := by
    by_cases hr : e.part.role = roleLearn
    · rw [List.all_eq_true.mpr (hlearn hr), Bool.or_true]
    · rw [beq_false_of_ne hr, Bool.not_false, Bool.true_or]
  unfold runEpoMap
  exact checked_pass (fieldsOk_single (by simp [h1, h2, ha]))
    (by simp only [hi, hentries, hapart, hbusy, hweights, Bool.not_false, Bool.and_self]) hc

/-! ## EPO_GRANT (10 R258) -/

theorem runEpoGrant_ready (hc : s.clean) (hi : s.epochIssuer e = true) (hn : (k.a 0).count ≤ 64)
    (ha : e.arrayOk (k.a 0) 8 = true) (hgs : ∀ g ∈ e.entries (k.a 0) 8, grantOk g = true) :
    runEpoGrant s k e =
      (s, some (Result.ok (.epoGrant ((e.entries (k.a 0) 8).map fun g => (g.getD 0 0#32, g.getD 1 0#32))))) := by
  have hgrants : ((e.entries (k.a 0) 8).all grantOk) = true := List.all_eq_true.mpr hgs
  unfold runEpoGrant
  exact checked_pass (fieldsOk_single (by simp [hn, ha])) (by rw [hi, hgrants, Bool.and_self]) hc

/-! ## BUD_LOAD (10 R261 to R264) -/

theorem State.part?_num {n : Nat} (h : s.part? n = some p) : p.num = n := by
  have := List.find?_some h
  simpa using this

/-- The state in which a command's load is its partition's load in progress. -/
def loadBegun (s : State) (k : Cmd) (e : Env) : State :=
  (s.modPart e.part.num fun q => { q with epo := { q.epo with
    load := some (newLoad k e), raw := if q.role = roleLearn then [] else q.epo.raw } }).modCmd k.id
      fun c => { c with begun := true }

/-- Outside a LEARN partition, a load begins once it is the first, no other runs, no bud is pending and its epoch is not loaded. -/
theorem beginLoad_starts (hp : s.part? e.part.num = some p) (hnone : p.epo.load = none)
    (hfirst : s.loadBefore e.part.num k = false) (hrole : p.role ≠ roleLearn) (hpending : p.epo.bud ≠ .pending)
    (hready : p.epo.bud = .ready → p.epo.budEpoch ≠ k.w 0) :
    beginLoad s k e = (advanceLoad (acquire (loadBegun s k e) e.part.num) e.part.num, none) := by
  have hloaded : ¬ (p.role ≠ roleLearn ∧ (p.epo.bud = .ready ∨ p.epo.bud = .pending) ∧ p.epo.budEpoch = k.w 0) := by
    rintro ⟨_, hbud | hbud, hepoch⟩
    · exact hready hbud hepoch
    · exact hpending hbud
  have hwait : ¬ (p.epo.load.isSome || s.loadBefore p.num k) = true := by
    rw [State.part?_num hp, hnone, hfirst]
    exact Bool.false_ne_true
  unfold beginLoad
  simp only [hp]
  rw [if_neg (by simp [hnone]), if_neg hwait, if_neg hloaded, if_neg hpending, if_neg fun h => hrole h.1, State.part?_num hp]
  rfl

/-- A load's first dispatch checks its parameters and its sources, and goes on to begin it. -/
theorem runBudLoad_checked (hc : s.clean) (hi : s.epochIssuer e = true) (hstage : k.stage = 0) (hf : fieldsOk (loadFields k e))
    (hsrc : ∀ w ∈ e.entries (k.a 3) 64, sourceOk w = true) (hp : s.part? e.part.num = some p)
    (hbloom : p.bloomEpoch ≠ some (k.w 0)) (hports : ∀ d ∈ loadSources k e, d.storage = true → s.portFitted d.port = true) :
    runBudLoad s k e = beginLoad (s.modCmd k.id fun c => { c with stage := 1 }) { k with stage := 1 } e := by
  have hsources : ((e.entries (k.a 3) 64).all sourceOk) = true := List.all_eq_true.mpr hsrc
  have hfitted : ((loadSources k e).any fun d => d.storage && !s.portFitted d.port) = false := by
    refine List.any_eq_false.mpr fun d hd => ?_
    by_cases hst : d.storage = true
    · simp [hports d hd hst]
    · simp [hst]
  unfold runBudLoad
  dsimp only
  rw [if_neg (not_not_intro hstage), checked_pass hf (by simp [hi, hsources, hp, hbloom]) hc,
    if_neg (ne_true_of_eq_false hfitted)]

/-! ## BUD_PUBLISH and BUD_DISCARD (10 R270, R273) -/

theorem publishResult_ready {n : Nat} {epoch : W32} (hp : s.part? n = some p) (hbud : p.epo.bud = .ready)
    (hepoch : p.epo.budEpoch = epoch) : publishResult s n epoch = Result.ok (.budPublish epoch) := by
  simp [publishResult, hp, hbud, hepoch]

theorem fieldsOk_nil : fieldsOk [] := rfl

theorem runBudPublish_issued (hi : s.epochIssuer e = true) :
    runBudPublish s k e = (s, some (publishResult s e.part.num (k.w 0))) := checked_bare fieldsOk_nil hi

/-- What a discard answers of each state of the bud. -/
def discardResult : BudSt → Result
  | .pending => Result.bare stALREADY_DONE
  | .free => Result.bare stOK
  | _ => Result.ok .budDiscard

theorem discardResult_writeless (b : BudSt) : (discardResult b).writes = [] := by cases b <;> rfl

theorem runBudDiscard_issued (hi : s.epochIssuer e = true) (hp : s.part? e.part.num = some p) :
    runBudDiscard s k e = (s, some (discardResult p.epo.bud)) := by
  unfold runBudDiscard
  rw [checked_bare fieldsOk_nil hi, hp, Option.map_some]
  cases p.epo.bud <;> rfl

/-! ## O10 -/

/-- Settles O10: each row's function answers its result, which writes no tensor; a load that begins answers none yet. -/
theorem epochRowsComplete : Obligations.EpochRowsComplete := by
  intro s id k e p hc hi
  refine ⟨?map, ?grant, ?load, ?publish, ?discard⟩
  case map =>
    intro ms h hms h1 h2 ha hws hapart hbusy hlearn
    obtain rfl := h.id_eq
    exact exec_ready_writeless rfl h rfl (runEpoMap_ready hc hi hms h1 h2 ha hws hapart hbusy hlearn)
  case grant =>
    exact fun h hn ha hgs => exec_ready_writeless rfl h rfl (runEpoGrant_ready hc hi hn ha hgs)
  case load =>
    rintro c t h _ hstage hf hsrc hp hbloom hports rfl rfl hnone hfirst hprole hpending hready
    obtain rfl := h.id_eq
    exact exec_goesOn rfl h ((runBudLoad_checked hc hi hstage hf hsrc hp hbloom hports).trans
      (beginLoad_starts hp hnone hfirst hprole hpending hready))
  case publish =>
    intro h hp hbud hepoch
    exact exec_ready_writeless rfl h rfl
      ((runBudPublish_issued hi).trans (by rw [publishResult_ready hp hbud hepoch]))
  case discard =>
    intro h hp
    refine (exec_ready_writeless rfl h (discardResult_writeless _) (runBudDiscard_issued hi hp)).trans ?_
    cases p.epo.bud <;> rfl

end Sys2Proof.Machine
end

section
/-!
PROOFS. The events of epochs (spec 10 R259, R262, R264 to R269, R272): what each operation does once its condition holds, and
O28 from these.
-/
namespace Sys2Proof.Machine

variable {s t : State} {n : Nat} {p : Part} {l : Load} {a : Asked}

/-! ## A load that waits, ends late or has its requests repeated (10 R262, R264, R268) -/

theorem execBudDeadlineExpiry_late {c : Cmd} (hup : s.windowUp = true)
    (hmin : minBy (·.disp) ((s.loadsOf n).filter s.loadExpired) = some c) :
    execBudDeadlineExpiry n s = .next (incompleteLoad s.wake n c).noteSched := by
  unfold execBudDeadlineExpiry
  rw [if_pos hup]
  simp only [budDeadline, hmin]

section
variable (ha : s.awake = true) (hp : s.part? n = some p)
include ha hp

/-- A held copy that has freed is settled before the waiting switch takes place. -/
theorem execPrefillSwitch_prefill (hr : p.role = rolePrefill) :
    execPrefillSwitch n s = .next ((s.settleHeld n).epochSwitch n) := by
  unfold execPrefillSwitch
  rw [if_pos ha]
  simp only [prefillSwitch, hp, hr, if_true]

variable (hl : p.epo.load = some l)
include hl

theorem execBudAreaAcquire_waiting (hb : p.epo.bud = .waitArea) :
    execBudAreaAcquire n s = .next (advanceLoad (acquire s n) n) := by
  have hwaits : ((s.part? n).any fun p => p.epo.bud == .waitArea && p.epo.load.isSome) = true := by
    rw [hp]
    simp [hb, hl]
  unfold execBudAreaAcquire
  rw [if_pos ha, budAreaAcquire, if_pos hwaits]

theorem execPieceRetry_refused (hfind : l.asked.find?
      (fun a => decide (l.sources.length ≤ a.source) && decide (a.at_ + 100 ≤ s.clk.localUs)) = some a) :
    execPieceRetry n s = .next (ask (dropAsked s n a) n a.entry a.row a.rows 0) := by
  unfold execPieceRetry
  rw [if_pos ha]
  simp only [pieceRetry, hp, Option.bind_some, hl, hfind]

theorem execPieceRequestTimeout_unanswered (hfind : l.asked.find?
      (fun a => decide (a.source < l.sources.length) && decide (a.at_ + 1000 ≤ s.clk.localUs)) = some a) :
    execPieceRequestTimeout n s = .next (afterAnswer (skipSource s n l a.source) n a none).noteSched := by
  unfold execPieceRequestTimeout
  rw [if_pos ha]
  simp only [pieceTimeout, hp, Option.bind_some, hl, hfind]

end

/-! ## Pieces (10 R264, R265, R269) -/

/-- What the source of a request answers with a piece: a storage object, a partition of this module, or one of another. -/
def sourceAnswer (s : State) (p : Part) (l : Load) (a : Asked) (d : Source) (m : MapEntry) (b : Alloc) (x : Piece) :
    Option (State × Option (Nat × Nat)) :=
  if d.storage then objectPiece s p a x m b
  else if d.module_ = s.net.moduleId then localPiece s p l a d m b
  else remotePiece s p a x b

section
variable {d : Source} {m : MapEntry} {b : Alloc} {x : Piece} {got : Option (Nat × Nat)}

theorem sourceAnswer_object (hd : d.storage = true) : sourceAnswer s p l a d m b x = objectPiece s p a x m b := if_pos hd

theorem sourceAnswer_local (hd : d.storage = false) (hm : d.module_ = s.net.moduleId) :
    sourceAnswer s p l a d m b x = localPiece s p l a d m b :=
  (if_neg (ne_true_of_eq_false hd)).trans (if_pos hm)

theorem sourceAnswer_remote (hd : d.storage = false) (hm : d.module_ ≠ s.net.moduleId) :
    sourceAnswer s p l a d m b x = remotePiece s p a x b :=
  (if_neg (ne_true_of_eq_false hd)).trans (if_neg hm)

/-- A piece of the load's epoch that a request is waiting for is taken as its source answers. -/
theorem execPieceArrival_answered (ha : s.awake = true) (hp : s.part? n = some p) (hl : p.epo.load = some l)
    (hepoch : x.epoch = l.epoch) (hopen : p.role = roleLearn ∨ p.epo.bud = .loading) (hasked : l.askedFor x = some a)
    (hd : l.sources[a.source]? = some d) (hm : p.epo.map[a.entry]? = some m) (hb : s.dest? p a.entry = some b)
    (hanswer : sourceAnswer s p l a d m b x = some (t, got)) :
    execPieceArrival n x s = .next (afterAnswer t n a got).noteSched := by
  have htaken : ¬ (x.epoch ≠ l.epoch ∨ p.role ≠ roleLearn ∧ p.epo.bud ≠ .loading) := by
    rintro (h | ⟨hrole, hbud⟩)
    · exact h hepoch
    · exact hopen.elim hrole hbud
  unfold sourceAnswer at hanswer
  unfold execPieceArrival
  rw [if_pos ha]
  simp only [pieceArrival, hp, Option.bind_some, hl, Option.map_some, htaken, if_false, hasked, hd, hm, hb, hanswer]

end

/-! ## Requests of other modules (10 R259, log 54) -/

@[simp] theorem State.wake_net (s : State) : s.wake.net = s.net := by
  unfold State.wake
  split <;> rfl

/-- The grants are looked at first, so that a request outside them is REFUSED whatever epoch it names. -/
theorem State.findPiece_outside {q : PieceReq} (h : p.epo.lets q.fromModule q.fromPart = false) :
    s.findPiece p q = (s, .no .refused) := by
  unfold State.findPiece
  rw [h]
  rfl

section
variable {q : PieceReq} (hp : s.part? n = some p) (hf : p.fenced = false) (hq : q.fromModule ≠ s.net.moduleId)
include hp hf hq

theorem pieceRequest_no {r : PieceAnswer} (hfind : s.findPiece p q = (t, .no r)) :
    pieceRequest s n q = t.emit (.piece q.fromModule q.fromPart q.epoch q.tensorId q.rowLo q.rowCnt r) := by
  simp only [pieceRequest, hp, hf, beq_false_of_ne hq, hfind, Bool.or_self, Bool.false_eq_true, if_false]

theorem pieceRequest_rows {lo k : Nat} {vals : List Val} {bs : List Byte} (hfind : s.findPiece p q = (t, .rows lo k vals))
    (hbs : bs = encodeRows q.fmt q.dscale k q.colCnt vals) :
    pieceRequest s n q = ((countServed t n bs.length).sendMessage n q.fromModule q.fromPart 0 0 false none bs).emit
      (.piece q.fromModule q.fromPart q.epoch q.tensorId lo k (.data bs)) := by
  subst hbs
  simp only [pieceRequest, hp, hf, beq_false_of_ne hq, hfind, Bool.or_self, Bool.false_eq_true, if_false]

end

theorem execPieceRequestReceive_awake (ha : s.awake = true) (q : PieceReq) :
    execPieceRequestReceive n q s = .next (pieceRequest s.wake n q) := if_pos ha

/-! ## O28 -/

/-- Settles O28: each event whose condition holds runs its operation; a request of another module wakes this one, which keeps
its partitions and its own number. -/
theorem epochEventsComplete : Obligations.EpochEventsComplete := by
  intro s n p l a d m b x c q got ha hp
  have hp' : s.wake.part? n = some p := (s.wake_part? n).trans hp
  have hother (hq : q.fromModule ≠ s.net.moduleId) : q.fromModule ≠ s.wake.net.moduleId := by rwa [s.wake_net]
  refine ⟨fun hb hl => execBudAreaAcquire_waiting ha hp hl hb, execBudDeadlineExpiry_late, execPrefillSwitch_prefill ha hp,
    ?remote, ?sameModule, ?object, execPieceRetry_refused ha hp, execPieceRequestTimeout_unanswered ha hp, ?refused, ?rows⟩
  case remote =>
    exact fun t hl hepoch hopen hasked hd hm hb hst hmod hr =>
      execPieceArrival_answered ha hp hl hepoch hopen hasked hd hm hb ((sourceAnswer_remote hst hmod).trans hr)
  case sameModule =>
    exact fun t hl hepoch hopen hasked hd hm hb hst hmod hr =>
      execPieceArrival_answered ha hp hl hepoch hopen hasked hd hm hb ((sourceAnswer_local hst hmod).trans hr)
  case object =>
    exact fun t hl hepoch hopen hasked hd hm hb hst hr =>
      execPieceArrival_answered ha hp hl hepoch hopen hasked hd hm hb ((sourceAnswer_object hst).trans hr)
  case refused =>
    exact fun hf hq hlets => (execPieceRequestReceive_awake ha q).trans
      (congrArg _ (pieceRequest_no hp' hf (hother hq) (State.findPiece_outside hlets)))
  case rows =>
    exact fun t lo k vals bs hf hq hfind hbs => (execPieceRequestReceive_awake ha q).trans
      (congrArg _ (pieceRequest_rows hp' hf (hother hq) hfind hbs))

end Sys2Proof.Machine
end

section
/-!
PROOFS. COMMAND_COMPLETION (spec 11 R287, R289, R295, R298; 02 R48): what a ready command that commits nothing changes, what one
that commits does in order, and O20 and O21 from these.
-/
namespace Sys2Proof.Machine

variable {s t : State} {n : Nat} {c : Cmd} {r r' : Result}

/-! ## The row -/

theorem exec_commandCompletion_next (ha : s.awake = true) (hn : s.nextCommit n = some (c, r)) :
    exec (.commandCompletion n) s = .next (completeReady s c r).noteSched := by
  show execCommandCompletion n s = _
  simp only [execCommandCompletion, commandCompletion, ha, hn, if_true]

/-! ## A command that completes -/

theorem Result.status_of_commits_false (h : r.commits = false) : r.status ≠ stOK := by
  rintro hs
  simp [Result.commits, hs] at h

/-- A result that commits nothing is replied, remembered and passed down; even one of QUE_DESTROY frees no queue. -/
theorem completeReady_failed (hr : r.commits = false) (hop : c.opcode ≠ 0x0405) : completeReady s c r = s.complete c r := by
  unfold completeReady
  simp only [hr, hop, Bool.false_eq_true, if_false]
  cases r.eff <;> simp only [Result.status_of_commits_false hr, if_false]

section
variable (hr : r.commits = true) (hall : commitAll s c r = (t, r'))
include hr hall

/-- A commit comes before the reply, and the transposed blocks that it changed become its job after it. -/
theorem completeReady_keepsQueues (hq : ∀ q, r'.eff = .queDestroy q → r'.status ≠ stOK) (hop : c.opcode ≠ 0x0405) :
    completeReady s c r = (t.complete c r').takeJobs (s.cmdPart c.id) := by
  unfold completeReady
  simp only [hr, hall, hop, if_true, if_false]
  split
  · next q he => rw [if_neg (hq q he)]; rfl
  · rfl

/-- The queue that a QUE_DESTROY ends is freed between its reply and its job. -/
theorem completeReady_freesQueue {q : Nat} (he : r'.eff = .queDestroy q) (hs : r'.status = stOK) (hop : c.opcode ≠ 0x0405) :
    completeReady s c r = (freeQueue (t.complete c r') c.id.iface q).takeJobs (s.cmdPart c.id) := by
  unfold completeReady
  simp only [hr, hall, hop, he, hs, if_true, if_false]
  rfl

/-- After a prefill the held copy is freed when nothing reads it. -/
theorem completeReady_prefill (hq : ∀ q, r'.eff ≠ .queDestroy q) (hop : c.opcode = 0x0405) :
    completeReady s c r = ((t.complete c r').takeJobs (s.cmdPart c.id)).settleHeld (s.cmdPart c.id) := by
  unfold completeReady
  simp only [hr, hall, hop, if_true]
  rfl

end

/-! ## O20 -/

/-- Settles O20: the oldest ready command completes by whether its result commits and what its effect is. -/
theorem completionCompletes : Obligations.CompletionCompletes := by
  intro s n c r ha hn
  rw [exec_commandCompletion_next ha hn]
  refine ⟨fun hr hop => ?failed, fun t r' hr hall => ⟨fun hop hq => ?keeps, fun q hop he hs => ?frees, fun hop hq => ?prefill⟩⟩
  case failed => rw [completeReady_failed hr hop]
  case keeps => rw [completeReady_keepsQueues hr hall hq hop]
  case frees => rw [completeReady_freesQueue hr hall he hs hop]
  case prefill => rw [completeReady_prefill hr hall hq hop]

/-! ## O21 -/

/-- Settles O21: a completion that commits nothing only completes its command, which keeps the committed store. -/
theorem failureCommitsNothing : Obligations.FailureCommitsNothing := by
  intro s n c r ha hn hr hop
  have hstore : SameStore s (s.complete c r).noteSched := .trans (.complete s c r) (.noteSched _)
  refine ⟨_, exec_commandCompletion_next ha hn, ?_⟩
  rw [completeReady_failed hr hop]
  exact ⟨hstore.allocs, hstore.keys, s.complete_gone c r, hstore.parts⟩

end Sys2Proof.Machine
end

section
/-!
PROOFS. What a commit does to the committed store (spec 11 R287, R289, R295, R301; 02 R48): a write reaches the allocation that it
names and no other, and the effects of semaphores reach their counts; O55 and O56 from these.
-/
namespace Sys2Proof.Machine

variable {s t u : State} {n p : Nat} {h : W32} {c : Cmd} {r r' : Result} {a : Alloc}

/-! ## Records and armed injections leave allocations -/

@[simp] theorem State.viewCounts_allocs (s : State) (d : Detection) : (s.viewCounts d).allocs = s.allocs := by
  unfold State.viewCounts
  split <;> rfl

@[simp] theorem State.record_allocs (s : State) (d : Detection) : (s.record d).allocs = s.allocs := by
  unfold State.record
  dsimp only
  split
  · exact s.viewCounts_allocs d
  · split <;> exact s.viewCounts_allocs d

@[simp] theorem State.injected_allocs (s : State) : s.injected.allocs = s.allocs := by
  unfold State.injected
  dsimp only
  split
  · rfl
  · exact State.record_allocs _ _

/-! ## A write keeps every allocation but the one it names -/

/-- Every allocation is kept but the one of a partition that a handle names. -/
def KeepsBut (p : Nat) (h : W32) (s t : State) : Prop := ∀ a ∈ s.allocs, (a.part ≠ p ∨ h ≠ a.handle) → a ∈ t.allocs

theorem KeepsBut.refl (s : State) : KeepsBut p h s s := fun _ ha _ => ha

theorem KeepsBut.trans (hst : KeepsBut p h s t) (htu : KeepsBut p h t u) : KeepsBut p h s u :=
  fun a ha hne => htu a (hst a ha hne) hne

theorem KeepsBut.of_allocs_eq (he : t.allocs = s.allocs) : KeepsBut p h s t := fun _ ha _ => he ▸ ha

theorem mem_modWhere_of_not {α : Type} {w : α → Bool} {f : α → α} {l : List α} {x : α} (hx : x ∈ l) (hw : w x = false) :
    x ∈ modWhere w f l :=
  List.mem_map.mpr ⟨x, hx, if_neg (by simp [hw])⟩

theorem KeepsBut.modAlloc (s : State) (f : Alloc → Alloc) : KeepsBut p h s (s.modAlloc p h f) := fun a ha hne =>
  mem_modWhere_of_not ha (by rcases hne with hne | hne <;> simp [hne, hne.symm])

theorem KeepsBut.modContents (s : State) (f : Alloc → Alloc) : KeepsBut p h s (s.modContents p h f) := by
  unfold State.modContents
  split
  · split
    · exact .refl s
    · exact .modAlloc (s.modPart p _) _
  · exact .modAlloc s f

theorem KeepsBut.foldl {α : Type} {f : State → α → State} (hf : ∀ s x, KeepsBut p h s (f s x)) (s : State) (l : List α) :
    KeepsBut p h s (l.foldl f s) := by
  induction l generalizing s with
  | nil => exact .refl s
  | cons x l ih => exact .trans (hf s x) (ih _)

/-- What an armed injection damages is the contents of the handle written. -/
theorem KeepsBut.injected_modContents (s : State) (f : Alloc → Alloc) :
    KeepsBut p h s (s.injected.modContents p h f).useFresh :=
  .trans (.of_allocs_eq s.injected_allocs) (.modContents s.injected f)

theorem KeepsBut.strike (s : State) (us : List Nat) : KeepsBut p h s (s.strike p h us) := by
  unfold State.strike
  split
  · refine .foldl (fun s x => ?_) s us
    unfold State.strikeUnit
    split
    · exact .refl s
    · split
      · exact .injected_modContents s _
      · exact .refl s
  · exact .refl s

theorem KeepsBut.strikeShadow (s : State) : KeepsBut p h s (s.strikeShadow p h) := by
  unfold State.strikeShadow
  split
  · exact .refl s
  · refine .foldl (fun s x => ?_) s _
    split
    · exact .injected_modContents s _
    · exact .refl s

theorem KeepsBut.writeNow (s : State) (w : TWrite) : KeepsBut p w.handle s (s.writeNow p w) :=
  .trans (.modContents s _) (.strike _ _)

theorem KeepsBut.commitWrite (s : State) (w : TWrite) : KeepsBut p w.handle s (s.commitWrite p w) := by
  unfold State.commitWrite
  split
  · exact .refl s
  · exact .trans (.trans (.writeNow s w) (.modContents _ _)) (.strikeShadow _)

/-! ## A commit of writes -/

@[simp] theorem State.countWrite_allocs (s : State) (i : Nat) (w : TWrite) : (s.countWrite i w).allocs = s.allocs := by
  unfold State.countWrite
  split <;> rfl

/-- No write of a list to a partition names the allocation. -/
def Alloc.Spared (a : Alloc) (p : Nat) (ws : List TWrite) : Prop := a.part ≠ p ∨ ∀ w ∈ ws, w.handle ≠ a.handle

theorem Alloc.Spared.of_subset {ws vs : List TWrite} (hs : a.Spared p ws) (hv : ∀ w ∈ vs, w ∈ ws) : a.Spared p vs :=
  hs.imp_right fun hw w hm => hw w (hv w hm)

theorem State.commitWrites_spared {i : Nat} {ws : List TWrite} (ha : a ∈ s.allocs) (hs : a.Spared p ws) :
    a ∈ (s.commitWrites p i ws).allocs := by
  induction ws generalizing s with
  | nil => exact ha
  | cons w ws ih =>
    have hw : a ∈ (s.commitWrite p w).allocs := KeepsBut.commitWrite s w a ha (hs.imp_right fun hn => hn w List.mem_cons_self)
    exact ih (by rwa [State.countWrite_allocs]) (hs.of_subset fun v => List.mem_cons_of_mem w)

theorem State.copyWrites_subset (s : State) (c : Cmd) (ws : List TWrite) : ∀ w ∈ s.copyWrites c ws, w ∈ ws := by
  unfold State.copyWrites
  split
  · exact fun w hw => (List.mem_filter.mp hw).1
  · exact fun w hw => hw

/-- Facing another copy changes partitions only. -/
theorem State.facing_allocs (s : State) (p : Nat) (i : Option Nat) (f : State → State) :
    ∃ v : State, v.allocs = s.allocs ∧ (s.facing p i f).allocs = (f v).allocs := by
  unfold State.facing
  split
  · exact ⟨s.facedTo p _, rfl, rfl⟩
  · exact ⟨s, rfl, rfl⟩

@[simp] theorem commitGens_allocs (s : State) (c : Cmd) (r : Result) : (commitGens s c r).allocs = s.allocs := by
  unfold commitGens
  split <;> rfl

theorem State.recordsAt_eff (s : State) (c : Cmd) (r : Result) : (s.recordsAt c r).eff = r.eff := by
  unfold State.recordsAt
  split
  · rfl
  · split
    · dsimp only
      split <;> rfl
    · split <;> rfl

theorem commitFirst_none (he : r.eff = .none) : commitFirst s c r = (s, r) := by
  unfold commitFirst
  simp only [he]

theorem commitAfter_none (he : r.eff = .none) : commitAfter s c r = s := by
  unfold commitAfter
  simp only [he]

/-- A commit without an effect besides its writes keeps an allocation that these do not name. -/
theorem commitAll_spared (he : r.eff = .none) (ha : a ∈ s.allocs) (hs : a.Spared (s.cmdPart c.id) (commitAll s c r).2.writes) :
    a ∈ (commitAll s c r).1.allocs := by
  have he' : (s.recordsAt c r).eff = .none := (s.recordsAt_eff c r).trans he
  unfold commitAll at hs ⊢
  simp only [commitFirst_none he', commitAfter_none he'] at hs ⊢
  split
  · exact ha
  · next hc =>
    rw [if_neg hc] at hs
    rw [commitGens_allocs]
    obtain ⟨v, hv, hface⟩ := State.facing_allocs _ _ _ _
    rw [hface]
    refine State.commitWrites_spared ?_ (hs.of_subset (State.copyWrites_subset _ c _))
    rw [hv]
    split <;> exact ha

theorem commitAll_eff_none (he : r.eff = .none) : (commitAll s c r).2.eff = .none := by
  have he' : (s.recordsAt c r).eff = .none := (s.recordsAt_eff c r).trans he
  unfold commitAll
  simp only [commitFirst_none he']
  split <;> exact he'

/-- A weight none of whose transposed blocks waits for a job is given none. -/
theorem State.takeJobs_keeps (ha : a ∈ s.allocs)
    (hjobs : ∀ v, a.tcopy = some v → ∀ b ∈ v.queued, v.jobs.any (·.1 == b) = true) : a ∈ (s.takeJobs p).allocs := by
  refine List.mem_map.mpr ⟨a, ha, ?_⟩
  split
  · dsimp only
    cases hv : a.tcopy with
    | none => rw [Option.map_none, ← hv]
    | some v =>
      have hnone : v.queued.filter (fun b => !v.jobs.any (·.1 == b)) = [] :=
        List.filter_eq_nil_iff.mpr fun b hb => by simp [hjobs v hv b hb]
      rw [Option.map_some, hnone, List.map_nil, List.append_nil, ← hv]
  · rfl

/-! ## O55 -/

/-- Settles O55: the writes reach what they name, the reply and its train keep the store, and no block waits for a job. -/
theorem commitKeepsOtherAllocations : Obligations.CommitKeepsOtherAllocations := by
  intro s n c r a hawake hn hop he ha hspared hjobs
  refine ⟨_, exec_commandCompletion_next hawake hn, ?_⟩
  rw [(SameStore.noteSched _).allocs]
  cases hr : r.commits with
  | false => rwa [completeReady_failed hr hop, (SameStore.complete _ _ _).allocs]
  | true =>
    have hq : ∀ q, (commitAll s c r).2.eff = .queDestroy q → (commitAll s c r).2.status ≠ stOK := fun q hq => by
      rw [commitAll_eff_none he] at hq
      cases hq
    rw [completeReady_keepsQueues hr rfl hq hop]
    refine State.takeJobs_keeps ?_ hjobs
    rw [(SameStore.complete _ _ _).allocs]
    exact commitAll_spared he ha hspared

/-! ## Counts of semaphores -/

theorem map_modWhere {α β : Type} {w : α → Bool} {f : α → α} {g : α → β} (hg : ∀ x, g (f x) = g x) (l : List α) :
    (modWhere w f l).map g = l.map g := by
  unfold modWhere
  rw [List.map_map]
  refine List.map_congr_left fun x _ => ?_
  simp only [Function.comp]
  split
  · exact hg x
  · rfl

/-- What the count of a semaphore depends on. -/
def Part.counts (p : Part) : Nat × Tab Nat := (p.num, p.sems)

theorem State.semCount_congr (h : t.parts.map Part.counts = s.parts.map Part.counts) (p m : Nat) :
    t.semCount p m = s.semCount p m := by
  have hfind (u : State) : u.semCount p m =
      (((u.parts.map Part.counts).find? (·.1 == p)).map fun x => Tab.get x.2 m 0).getD 0 := by
    rw [List.find?_map, Option.map_map]
    rfl
  rw [hfind, hfind, h]

theorem SameStore.semCount (h : SameStore s t) (p m : Nat) : t.semCount p m = s.semCount p m := by
  refine State.semCount_congr ?_ p m
  have hcore := congrArg (List.map fun x : Nat × Epo × Tab Banks × Tab Nat × W64 => (x.1, x.2.2.2.1)) h.parts
  rwa [List.map_map, List.map_map] at hcore

/-- The count after a change of the semaphores of a partition that there is. -/
theorem State.semCount_setSem (hp : (s.part? p).isSome = true) (m : Nat) (g : Nat → Nat) :
    (s.modPart p fun q => { q with sems := Tab.set q.sems m (g (Tab.get q.sems m 0)) }).semCount p m = g (s.semCount p m) := by
  obtain ⟨q, hq⟩ := Option.isSome_iff_exists.mp hp
  unfold State.semCount
  rw [State.part?_modPart _ _ (by exact fun _ => rfl), hq]
  exact Tab.get_set _ _ _ _

/-- Facing another copy leaves the semaphores. -/
theorem State.facing_semCount (s : State) (n : Nat) (i : Option Nat) (p m : Nat) :
    (s.facing n i fun t => t).semCount p m = s.semCount p m := by
  refine State.semCount_congr ?_ p m
  unfold State.facing
  split
  · exact (map_modWhere (by exact fun _ => rfl) _).trans (map_modWhere (by exact fun _ => rfl) _)
  · rfl

@[simp] theorem State.reserveNeed_nil (s : State) (p : Nat) : s.reserveNeed p [] = [] := by
  unfold State.reserveNeed
  split <;> rfl

theorem State.recordsAt_other (h2 : c.opcode ≠ 0x0205) (h9 : c.opcode ≠ 0x0904) : s.recordsAt c r = r := by
  unfold State.recordsAt
  rw [if_neg h2, if_neg h9, ite_self]

@[simp] theorem Result.ok_commits (e : Eff) : (Result.ok e).commits = true := rfl
@[simp] theorem Result.ok_writes (e : Eff) : (Result.ok e).writes = [] := rfl
@[simp] theorem commitGens_ok (s : State) (c : Cmd) (e : Eff) : commitGens s c (Result.ok e) = s := rfl

/-- A commit without writes and with nothing left for its end leaves the counts as its effect does. -/
theorem commitAll_writeless {e : Eff} (h2 : c.opcode ≠ 0x0205) (h9 : c.opcode ≠ 0x0904)
    (hset : s.commitSet c (Result.ok e) = []) (hfirst : commitFirst s c (Result.ok e) = (t, Result.ok e))
    (hafter : ∀ v, commitAfter v c (Result.ok e) = v) :
    (commitAll s c (Result.ok e)).2 = Result.ok e ∧
      ∀ p m, (commitAll s c (Result.ok e)).1.semCount p m = t.semCount p m := by
  have hcopy : t.copyWrites c [] = [] := by
    unfold State.copyWrites
    split <;> rfl
  have hall : commitAll s c (Result.ok e) = (t.facing (s.cmdPart c.id) (t.copyIndex c) fun t => t, Result.ok e) := by
    unfold commitAll
    simp only [State.recordsAt_other h2 h9, hset, State.reserveNeed_nil, hfirst, hafter, Result.ok_commits, Result.ok_writes,
      commitGens_ok, hcopy, State.commitWrites, List.isEmpty_nil, Bool.not_true, Bool.false_eq_true, if_false, if_true]
  rw [hall]
  exact ⟨rfl, State.facing_semCount t _ _⟩

/-- What a completion leaves of the counts is what its commit left of them. -/
theorem completion_semCount (ha : s.awake = true) (hn : s.nextCommit n = some (c, r)) (hop : c.opcode ≠ 0x0405)
    (hr : r.commits = true) (hq : ∀ q, (commitAll s c r).2.eff = .queDestroy q → (commitAll s c r).2.status ≠ stOK) :
    ∃ u, exec (.commandCompletion n) s = .next u ∧ ∀ p m, u.semCount p m = (commitAll s c r).1.semCount p m := by
  refine ⟨_, exec_commandCompletion_next ha hn, fun p m => ?_⟩
  rw [(SameStore.noteSched _).semCount, completeReady_keepsQueues hr rfl hq hop]
  exact (SameStore.complete _ _ _).semCount p m

/-- Such a commit, through to the end of its completion. -/
theorem completion_writeless {e : Eff} (ha : s.awake = true) (hn : s.nextCommit n = some (c, Result.ok e)) (h2 : c.opcode ≠ 0x0205)
    (h4 : c.opcode ≠ 0x0405) (h9 : c.opcode ≠ 0x0904) (hset : s.commitSet c (Result.ok e) = [])
    (hfirst : commitFirst s c (Result.ok e) = (t, Result.ok e)) (hafter : ∀ v, commitAfter v c (Result.ok e) = v)
    (hq : ∀ q, e ≠ .queDestroy q) :
    ∃ u, exec (.commandCompletion n) s = .next u ∧ ∀ p m, u.semCount p m = t.semCount p m := by
  obtain ⟨hresult, hcounts⟩ := commitAll_writeless h2 h9 hset hfirst hafter
  have hkeeps : ∀ q, (commitAll s c (Result.ok e)).2.eff = .queDestroy q → (commitAll s c (Result.ok e)).2.status ≠ stOK :=
    fun q heff => by
      rw [hresult] at heff
      exact absurd heff (hq q)
  obtain ⟨u, hu, hleft⟩ := completion_semCount ha hn h4 (Result.ok_commits e) hkeeps
  exact ⟨u, hu, fun p m => (hleft p m).trans (hcounts p m)⟩

/-! ## Effects on semaphores (R301) -/

theorem commitSemInit_free {m k : Nat} (hfree : s.semInUse (s.cmdPart c.id) m = false) :
    commitSemInit s c m k r = (s.modPart (s.cmdPart c.id) fun q => { q with sems := Tab.set q.sems m k }, r) := by
  simp only [commitSemInit, hfree, Bool.false_eq_true, if_false]

section
variable {x : Ctx} {m k : Nat} (hx : s.ctx? c.ctx = some x)
include hx

theorem commitSemAcquire_room (hroom : x.semsFull m = false) :
    commitSemAcquire s c m k r = ((s.modPart (s.cmdPart c.id) fun q =>
      { q with sems := Tab.set q.sems m (Tab.get q.sems m 0 - k) }).modCtx c.ctx fun x =>
        { x with sems := Tab.set x.sems m (x.held m + k) }, r) := by
  simp only [commitSemAcquire, hx, hroom, Bool.false_eq_true, if_false]

theorem commitSemRelease_held (hheld : k ≤ x.held m) :
    commitSemRelease s c m k r = (s.returnUnits (s.cmdPart c.id) c.ctx m k, r) := by
  simp only [commitSemRelease, hx, hheld, if_true]

end

/-! ## O56 -/

/-- Settles O56: the effect of each row is on the count of its semaphore, and nothing of the completion after it is. -/
theorem semaphoresMoveAtCommit : Obligations.SemaphoresMoveAtCommit := by
  intro s n m u c x ha hp hx
  refine ⟨fun hop hn hfree => ?init, fun hop hn hroom => ?acquire, fun hop hn hheld => ?release⟩
  case init =>
    obtain ⟨t, ht, hcount⟩ := completion_writeless ha hn (by simp [hop]) (by simp [hop]) (by simp [hop]) rfl
      (commitSemInit_free hfree) (fun _ => rfl) (by simp)
    exact ⟨t, ht, (hcount _ m).trans (State.semCount_setSem hp m fun _ => u)⟩
  case acquire =>
    obtain ⟨t, ht, hcount⟩ := completion_writeless ha hn (by simp [hop]) (by simp [hop]) (by simp [hop]) rfl
      (commitSemAcquire_room hx hroom) (fun _ => rfl) (by simp)
    exact ⟨t, ht, (hcount _ m).trans (State.semCount_setSem hp m fun v => v - u)⟩
  case release =>
    obtain ⟨t, ht, hcount⟩ := completion_writeless ha hn (by simp [hop]) (by simp [hop]) (by simp [hop]) rfl
      (commitSemRelease_held hx hheld) (fun _ => rfl) (by simp)
    exact ⟨t, ht, (hcount _ m).trans (State.semCount_setSem hp m fun v => v + u)⟩

end Sys2Proof.Machine
end

section
/-!
PROOFS. RDMA writes to a queue area (spec 11 R279, R293; 14 R363, R364): notifications and answers keep what a key is looked up
in, and O34 from this and from a read after a write of memory.
-/
namespace Sys2Proof.Machine

variable {s t : State} {port : Nat} {r : RdmaWrite} {q : Qp} {f : Iface}

/-! ## What a queue pair finds -/

@[simp] theorem State.wake_mgt (s : State) : s.wake.mgt = s.mgt := by
  unfold State.wake
  split <;> rfl

@[simp] theorem State.wake_allocs (s : State) : s.wake.allocs = s.allocs := by
  unfold State.wake
  split <;> rfl

@[simp] theorem State.sendRoce_ifaces (s : State) (q : Qp) (b : RoceBody) : (s.sendRoce q b).ifaces = s.ifaces := by
  unfold State.sendRoce
  split
  · rfl
  · split
    · rfl
    · split <;> rfl

theorem noteCongestion_ifaces (s : State) (q : Qp) (ce : Bool) : (noteCongestion s q ce).ifaces = s.ifaces := by
  unfold noteCongestion
  split
  · exact State.sendRoce_ifaces _ _ _
  · rfl

theorem SameStore.noteCongestion (s : State) (q : Qp) (ce : Bool) : SameStore s (noteCongestion s q ce) := by
  unfold Machine.noteCongestion
  split
  · exact .trans (.trans (.modQp s _ _ _) (.modNet _ _)) (.sendRoce _ _ _)
  · exact .refl s

theorem State.region?_congr (hm : t.mgt = s.mgt) (ha : t.allocs = s.allocs) (f : Iface) (port : Nat) (key : W32) :
    t.region? f port key = s.region? f port key := by
  unfold State.region?
  rw [hm, ha]

theorem noteCongestion_region? (s : State) (q : Qp) (ce : Bool) (f : Iface) (port : Nat) (key : W32) :
    (noteCongestion s.wake q ce).region? f port key = s.region? f port key :=
  State.region?_congr ((SameStore.noteCongestion _ _ _).mgt.trans s.wake_mgt)
    ((SameStore.noteCongestion _ _ _).allocs.trans s.wake_allocs) f port key

/-- The interface of a responder is found by its number. -/
theorem State.responder?_iface {qpn : Nat} (h : s.responder? port qpn = some (q, f)) : s.iface? f.num = some f := by
  unfold State.responder? at h
  split at h
  · split at h
    · split at h
      · obtain ⟨g, hg, hpair⟩ := Option.map_eq_some_iff.mp h
        cases hpair
        have hnum : f.num = q.iface := by simpa using List.find?_some hg
        rwa [hnum]
      · cases h
    · cases h
  · cases h

/-! ## RDMA WRITE (14 R363, R364) -/

theorem exec_roceRdmaWrite_next (hport : port < 4) : exec (.roceRdmaWrite port r) s = .next (roceWrite s port r).noteSched := by
  show execRoceRdmaWrite port r s = _
  rw [execRoceRdmaWrite, if_pos (decide_eq_true hport)]

section
variable (hq : s.responder? port r.qpn = some (q, f))
include hq

theorem roceWrite_granted {x : Region} (hx : s.region? f port r.rkey = some x) (hfit : r.offset + r.data.length ≤ x.size) :
    roceWrite s port r = ((regionWrite (noteCongestion s.wake q r.ce) x r.offset r.data).received q r.data.length).sendRoce q .ack := by
  simp only [roceWrite, hq, noteCongestion_region?, hx, Option.filter_some, decide_eq_true hfit, if_true]

theorem roceWrite_refused (hno : ∀ x, s.region? f port r.rkey = some x → x.size < r.offset + r.data.length) :
    roceWrite s port r = (noteCongestion s.wake q r.ce).sendRoce q .nak := by
  have hnone : (s.region? f port r.rkey).filter (fun x => decide (r.offset + r.data.length ≤ x.size)) = none :=
    Option.filter_eq_none_iff.mpr fun x hx => by simpa using hno x hx
  simp only [roceWrite, hq, noteCongestion_region?, hnone]

/-- A write to the queue area is stored there. -/
theorem roceWrite_qarea (hx : s.region? f port r.rkey = some (.qarea f.num)) (hfit : r.offset + r.data.length ≤ 2 * mib) :
    (roceWrite s port r).iface? f.num = some { f with qarea := Mem.putBytes f.qarea zeroByte r.offset r.data } := by
  have hf : (noteCongestion s.wake q r.ce).iface? f.num = some f := by
    rw [State.iface?, noteCongestion_ifaces, State.wake_ifaces]
    exact State.responder?_iface hq
  rw [roceWrite_granted hq hx hfit, State.iface?, State.sendRoce_ifaces]
  show ((noteCongestion s.wake q r.ce).modIface f.num _).iface? f.num = _
  rw [State.iface?_modIface _ _ _ (by exact fun _ => rfl), hf]
  rfl

end

/-! ## O34 -/

/-- Settles O34: the area is the one that was there with the data put at the offset. -/
theorem hostWritesQueueArea : Obligations.HostWritesQueueArea := by
  intro s port r q f hport hwf hq
  rw [exec_roceRdmaWrite_next hport]
  refine ⟨fun hx hfit => ⟨_, _, rfl, roceWrite_qarea hq hx hfit, fun i hi => ?inside, fun a ha => ?outside⟩, fun hno => ?refused⟩
  case inside =>
    rw [Mem.get_putBytes _ _ _ hwf, if_pos ⟨by omega, by omega⟩, Nat.add_sub_cancel_left]
    exact (List.getElem_eq_getD _).symm
  case outside => rw [Mem.get_putBytes _ _ _ hwf, if_neg (by omega)]
  case refused => rw [roceWrite_refused hq hno]

end Sys2Proof.Machine
end

section
/-!
PROOFS. The packet path of a command (spec 11 R279, R281, R283, R288, R294, R295, R299, R302, R304, R305): doorbells and the
registers of reply rings, fetching, dispatch and timeouts; O16, O17, O18, O19 and O22 from these.
-/
namespace Sys2Proof.Machine

variable {s t : State} {i n : Nat} {v : W32} {f : Iface} {q : Queue} {id : CmdId} {c : Cmd}

/-! ## Waking leaves the commands in flight -/

@[simp] theorem State.wake_cmds (s : State) : s.wake.cmds = s.cmds := by
  unfold State.wake
  split <;> rfl

@[simp] theorem State.wake_partFenced (s : State) (p : Nat) : s.wake.partFenced p = s.partFenced p := by
  simp only [State.partFenced, State.wake_part?]

@[simp] theorem State.wake_inflight (s : State) (i q : Nat) : s.wake.inflight i q = s.inflight i q := by
  simp only [State.inflight, State.wake_cmds]

/-! ## Doorbells (R279) -/

theorem exec_doorbellWrite_up (hup : s.windowUp = true) (i n : Nat) (v : W32) :
    exec (.doorbellWrite i n v) s = .next (doorbell s.wake i n v) := by
  show execDoorbellWrite i n v s = _
  rw [execDoorbellWrite, if_pos hup]

section
variable (hf : s.iface? i = some f) (hfence : s.partFenced f.part = false)
include hf hfence

theorem doorbell_queue (hq : f.queue? n = some q) :
    doorbell s i n v =
      if q.present = true ∧ (v - q.head).toNat ≤ 2 ^ q.log2 ∧ (v - q.tail).toNat ≤ 2 ^ q.log2 then
        (s.modQueue i n fun u => { u with tail := v, bells := u.bells ++ [(v, s.stamp)] }).tickStamp
      else s.discard i causeR279 true (4 * n) := by
  simp only [doorbell, hf, hfence, hq, Bool.false_eq_true, if_false, Bool.and_eq_true, decide_eq_true_eq, and_assoc]

theorem doorbell_noQueue (hq : f.queue? n = none) : doorbell s i n v = s.discard i causeR279 true (4 * n) := by
  simp only [doorbell, hf, hfence, hq, Bool.false_eq_true, if_false]

end

/-- Settles O16: the woken module finds the same interface, and the value is within the ring or not. -/
theorem doorbellMovesTheTail : Obligations.DoorbellMovesTheTail := by
  intro s i n v f hup hf hfence
  have hf' : s.wake.iface? i = some f := (s.wake_iface? i).trans hf
  have hfence' : s.wake.partFenced f.part = false := (s.wake_partFenced _).trans hfence
  rw [exec_doorbellWrite_up hup]
  refine ⟨fun q hq hpres hhead htail => ?taken, fun q hq hout => ?outside, fun hq => ?absent⟩
  case taken => rw [doorbell_queue hf' hfence' hq, if_pos ⟨hpres, hhead, htail⟩]
  case outside =>
    rw [doorbell_queue hf' hfence' hq, if_neg]
    rintro ⟨hpres, hhead, htail⟩
    rcases hout with h | h | h
    · exact Bool.false_ne_true (h.symm.trans hpres)
    · omega
    · omega
  case absent => rw [doorbell_noQueue hf' hfence' hq]

/-! ## Reply rings (R304, R305) -/

theorem exec_replyHeadWrite_up (hup : s.windowUp = true) (i n : Nat) (v : W32) :
    exec (.replyHeadWrite i n v) s = .next (replyHead s.wake i n v) := by
  show execReplyHeadWrite i n v s = _
  rw [execReplyHeadWrite, if_pos hup]

theorem exec_replyRingConfig_up (hup : s.windowUp = true) (i n : Nat) (v : W32) :
    exec (.replyRingConfig i n v) s = .next (replyConfig s.wake i n v) := by
  show execReplyRingConfig i n v s = _
  rw [execReplyRingConfig, if_pos hup]

section
variable (hf : s.iface? i = some f) (hq : f.queue? n = some q)
include hf hq

theorem replyHead_queue : replyHead s i n v =
    if q.present = true ∧ q.ringOk = true ∧ (q.rrWr - v).toNat ≤ 2 ^ q.ringLog2 then
      s.modQueue i n fun u => { u with rrHead := v }
    else s.discard i causeR304 true (0x40 + 4 * n) := by
  simp only [replyHead, hf, hq, Option.bind_some, Bool.and_eq_true, decide_eq_true_eq, and_assoc]

theorem replyConfig_queue : replyConfig s i n v =
    if q.present = true ∧ s.inflight i n = 0 ∧ q.rrWr = q.rrHead ∧ ringSizeOk (field v 31 27) = true then
      s.modQueue i n fun u => { u with rrCfg := v &&& 0xFBFFFFFF#32, rrWr := 0#32, rrHead := 0#32, stopped := false }
    else s.discard i causeR305 true (0x101C + 0x40 * n) := by
  simp only [replyConfig, hf, hq, Option.bind_some, State.ringOpen, Bool.and_eq_true, beq_iff_eq, and_assoc]

end

/-- Settles O22: each register takes its value or discards it, by the condition of its rule. -/
theorem replyRingRegisters : Obligations.ReplyRingRegisters := by
  intro s i n v f q hup hf hq
  have hf' : s.wake.iface? i = some f := (s.wake_iface? i).trans hf
  rw [exec_replyHeadWrite_up hup, exec_replyRingConfig_up hup, replyHead_queue hf' hq, replyConfig_queue hf' hq, State.wake_inflight]
  refine ⟨fun hpres hok hroom => ?head, fun hout => ?headOut, fun hpres hidle hempty hsize => ?config, fun hout => ?configOut⟩
  case head => rw [if_pos ⟨hpres, hok, hroom⟩]
  case headOut =>
    rw [if_neg]
    rintro ⟨hpres, hok, hroom⟩
    rcases hout with h | h | h
    · exact Bool.false_ne_true (h.symm.trans hpres)
    · exact Bool.false_ne_true (h.symm.trans hok)
    · omega
  case config => rw [if_pos ⟨hpres, hidle, hempty, hsize⟩]
  case configOut =>
    rw [if_neg]
    rintro ⟨hpres, hidle, hempty, hsize⟩
    rcases hout with h | h | h | h
    · exact Bool.false_ne_true (h.symm.trans hpres)
    · exact h hidle
    · exact h hempty
    · exact Bool.false_ne_true (h.symm.trans hsize)

/-! ## Fetching (R281, R283, R288) -/

theorem exec_packetFetch_awake (ha : s.awake = true) (i n : Nat) :
    exec (.packetFetch i n) s = .next (packetFetch s i n).noteSched := by
  show execPacketFetch i n s = _
  rw [execPacketFetch, if_pos ha]

/-- A queue that R281 lets fetch either fetches or, with a ring that the interface may not use, stops. -/
theorem packetFetch_fetchable {p : Part} (hf : s.iface? i = some f) (hp : s.part? f.part = some p) (hq : f.queue? n = some q)
    (hfence : p.fenced = false) (hdying : p.dying = false) (hfetch : s.fetchable f n q = true) :
    packetFetch s i n = if s.ringUsable f q = true then fetch s f n q
      else (s.modQueue i n fun u => { u with stopped := true }).discard i causeR288 true n := by
  simp only [packetFetch, hf, hp, hq, hfence, hdying, hfetch, Bool.not_true, Bool.or_self, Bool.false_eq_true, if_false]

section
variable {ws : List W32} {u : State} (hws : ws = f.packetAt q 0) (hc : c = s.newCmd f n q ws)
  (hu : u = { s with cmds := s.cmds ++ [c] }.modQueue f.num n (fun v => v.advance (advanceOf ws)))
include hws hc hu

theorem fetch_good (hlen : lenOk (hdrLen ws) = true) (hok : fieldsOk (headerChecks ws ++ s.fetchChecks f n c.bell q.next ws)) :
    fetch s f n q = u.cascade u.cmds.length := by
  subst hws hc hu
  unfold fetch
  simp only [hlen, if_true]
  rw [show firstBad _ = none from hok]

theorem fetch_bad {o : Nat} (hlen : lenOk (hdrLen ws) = true)
    (hbad : firstBad (headerChecks ws ++ s.fetchChecks f n c.bell q.next ws) = some o) :
    fetch s f n q = u.complete c (Result.bad o) := by
  subst hws hc hu
  unfold fetch
  simp only [hlen, if_true]
  rw [hbad]

theorem fetch_badLength (hlen : lenOk (hdrLen ws) = false) : fetch s f n q = u.complete c (Result.bad 0) := by
  subst hws hc hu
  unfold fetch
  simp only [hlen, Bool.false_eq_true, if_false]
  rfl

end

/-- Settles O17: a queue that may fetch does so by its ring, and the packet is taken in or refused by its checks. -/
theorem packetFetchCompletes : Obligations.PacketFetchCompletes := by
  intro s i n f p q ws c u ha hf hp hq hfence hdying hfetch hws hc hu
  rw [exec_packetFetch_awake ha, packetFetch_fetchable hf hp hq hfence hdying hfetch]
  refine ⟨fun hring hlen hok => ?good, fun o hring hlen hbad => ?bad, fun hring hlen => ?length, fun hring => ?stops⟩
  case good => rw [if_pos hring, fetch_good hws hc hu hlen hok]
  case bad => rw [if_pos hring, fetch_bad hws hc hu hlen hbad]
  case length => rw [if_pos hring, fetch_badLength hws hc hu hlen]
  case stops => rw [if_neg (by simp [hring])]

/-! ## Dispatch (R294, R295, R302) -/

theorem exec_commandDispatch_awake (ha : s.awake = true) (id : CmdId) :
    exec (.commandDispatch id) s = .next (commandDispatch s id).noteSched := by
  show execCommandDispatch id s = _
  rw [execCommandDispatch, if_pos ha]

section
variable {x : Ctx} {p : Part} (hc : s.cmd? id = some c) (hf : s.iface? id.iface = some f) (hx : s.ctx? c.ctx = some x)
  (hp : s.part? f.part = some p) (hfence : p.fenced = false) (hdying : p.dying = false) (hin : x.inTile = true)
  (hready : s.dispatchable c = true)
include hc hf hx hp hfence hdying hin hready

theorem commandDispatch_starts (hrev : x.revoked = []) : commandDispatch s id = dispatch s c f p x := by
  simp only [commandDispatch, hc, hf, hx, hp, hfence, hdying, hin, hready, hrev, Bool.not_true, Bool.or_self, Bool.false_eq_true,
    if_false, List.isEmpty_nil, if_true]

theorem commandDispatch_revoked {m : Nat} {r : List Nat} (hrev : x.revoked = m :: r) :
    commandDispatch s id = (s.modCtx c.ctx fun y => { y with revoked := [] }).complete { c with attempts := c.attempts + 1 }
      (revokedResult (m :: r)) := by
  simp only [commandDispatch, hc, hf, hx, hp, hfence, hdying, hin, hready, hrev, Bool.not_true, Bool.or_self, Bool.false_eq_true,
    if_false, List.isEmpty_cons]
  rfl

end

/-- Settles O18: a command that R294 lets start is dispatched, unless its context has revocations to answer. -/
theorem dispatchCompletes : Obligations.DispatchCompletes := by
  intro s id c f x p v ha hc hf hx hp hfence hdying hin hready hv
  rw [exec_commandDispatch_awake ha]
  refine ⟨fun t hrev ht => ?starts, fun m r hrev => ?revoked⟩
  case starts =>
    rw [commandDispatch_starts hc hf hx hp hfence hdying hin hready hrev]
    have hid : c.id = id := State.cmd?_id hc
    subst hv ht hid
    unfold dispatch
    dsimp only
    split <;> rfl
  case revoked => rw [commandDispatch_revoked hc hf hx hp hfence hdying hin hready hrev]

/-! ## Timeouts (R299) -/

theorem exec_commandTimeout_counts (hl : s.live = true) (hp : s.pwr.state.toNat ≤ 2) (id : CmdId) :
    exec (.commandTimeout id) s = .next (commandTimeout s id).noteSched := by
  show execCommandTimeout id s = _
  rw [execCommandTimeout, if_pos (by simp [State.timesOut, hl, hp])]

theorem commandTimeout_found (hc : s.cmd? id = some c) : commandTimeout s id =
    if s.timedOut c = true then (s.wake.endWith c (Result.bare stTIMEOUT)).cascade (s.wake.endWith c (Result.bare stTIMEOUT)).cmds.length
    else s := by
  simp only [commandTimeout, hc]

/-- The timeout of a command that has work or waits left. -/
theorem State.timedOut_iff (hphase : c.phase = .fetched ∨ c.phase = .dispatched) :
    s.timedOut c = true ↔ c.timeout ≠ 0 ∧ c.fetchUs + c.timeout ≤ s.clk.localUs ∧ s.granted c = false := by
  rcases hphase with h | h <;>
    simp only [State.timedOut, h, Bool.and_true, Bool.and_eq_true, bne_iff_ne, decide_eq_true_eq, Bool.not_eq_true', and_assoc]

/-- Settles O19: what `timedOut` asks of a command that is not ready is what R299 asks. -/
theorem timeoutCompletes : Obligations.TimeoutCompletes := by
  intro s id c hl hp hc hphase
  rw [exec_commandTimeout_counts hl hp, commandTimeout_found hc]
  refine ⟨fun hset hrun hgrant t ht => ?expires, fun hnot => ?stays⟩
  case expires => rw [if_pos ((State.timedOut_iff hphase).mpr ⟨hset, hrun, hgrant⟩), ht]
  case stays =>
    rw [if_neg]
    intro hout
    obtain ⟨hset, hrun, hgrant⟩ := (State.timedOut_iff hphase).mp hout
    rcases hnot with h | h | h
    · exact hset h
    · omega
    · exact Bool.false_ne_true (hgrant.symm.trans h)

end Sys2Proof.Machine
end

section
/-!
PROOFS. Query and control, events and semaphores (spec 11 R278, R291, R298, R300, R301): what each opcode's function answers once
its fields obey their rules, and O1 and O2 from these.
-/
namespace Sys2Proof.Machine

variable {s t : State} {id : CmdId} {k : Cmd} {e : Env} {x : Cmd}

/-! ## Pairs of fields -/

theorem fieldsOk_pair {o o' : Nat} {b b' : Bool} (hb : b = true) (hb' : b' = true) : fieldsOk [(o, b), (o', b')] :=
  fieldsOk_append (fieldsOk_single hb) (fieldsOk_single hb')

/-! ## QUE_CREATE and QUE_DESTROY (R278, R298) -/

theorem runQueCreate_ready (hq1 : 1 ≤ k.n 0) (hq2 : k.n 0 ≤ 15) (hk1 : 6 ≤ k.n 1) (hk2 : k.n 1 ≤ 13)
    (hfree : e.iface.queuePresent (k.n 0) = false) :
    runQueCreate s k e = (s, some (Result.ok (.queCreate (k.n 0) (k.n 1)))) :=
  checked_bare (fieldsOk_pair (by simp [hq1, hq2]) (by simp [hk1, hk2])) (by simp [hfree])

/-- The queue is marked and its other commands are killed; it answers once none of them is left. -/
theorem runQueDestroy_empties {u : State} (hq1 : 1 ≤ k.n 0) (hq2 : k.n 0 ≤ 15) (hpres : e.iface.queuePresent (k.n 0) = true)
    (hone : s.destroying k (k.n 0) = false)
    (hu : u = (s.modQueue k.id.iface (k.n 0) fun q => { q with dying := true }).modCmd k.id fun c => { c with stage := 1 })
    (ht : t = (u.killAll (u.queueCmds k.id.iface (k.n 0) k.id)).noteSched) (hgone : t.queueCmds k.id.iface (k.n 0) k.id = []) :
    runQueDestroy s k e = (t, some (Result.ok (.queDestroy (k.n 0)))) := by
  unfold runQueDestroy
  rw [checked_bare (fieldsOk_single (by simp [hq1, hq2])) rfl]
  simp only [hpres, hone, ← hu, ← ht, hgone, Bool.not_true, Bool.or_self, Bool.false_eq_true, if_false, List.isEmpty_nil, if_true]

/-! ## CTL_KILL (R298) -/

section
variable (hq : k.n 0 < 16) (hseq : k.n 1 < 2 ^ 24)
include hq hseq

theorem ctlKillFields_ok : fieldsOk [(k.off 0, decide (k.n 0 < 16)), (k.off 1, decide (k.n 1 < 2 ^ 24))] :=
  fieldsOk_pair (decide_eq_true hq) (decide_eq_true hseq)

/-- A target past its first write is kept as the one to wait for; any other is killed. -/
theorem runCtlKill_found (hnone : k.target = none) (hx : s.killTarget k (k.n 0) (k.n 1) = some x) :
    runCtlKill s k e = if x.pastWrite = true then (s.modCmd k.id fun c => { c with target := some x.id }, none)
      else ((s.killAll [x.id]).noteSched, some (Result.bare stOK)) := by
  unfold runCtlKill
  rw [checked_bare (ctlKillFields_ok hq hseq) rfl]
  simp only [hnone, hx]

theorem runCtlKill_targetGone {i : CmdId} (htarget : k.target = some i) (hgone : s.cmd? i = none) :
    runCtlKill s k e = (s, some (Result.bare stALREADY_DONE)) := by
  unfold runCtlKill
  rw [checked_bare (ctlKillFields_ok hq hseq) rfl]
  simp only [htarget, hgone]

end

/-! ## EVT_SET and EVT_WAIT (R300) -/

theorem runEvtSet_ready (hev : k.n 0 < 256) (hmode : k.n 1 < 2) :
    runEvtSet s k e = (s, some (Result.ok (.evtSet (k.n 0) (k.n 1 == 1) (k.w 2)))) :=
  checked_bare (fieldsOk_pair (decide_eq_true hev) (decide_eq_true hmode)) rfl

theorem runEvtWait_checked (hev : k.n 0 < 256) : runEvtWait s k e =
    if k.n 1 ≤ (s.event k.id.iface (k.n 0)).toNat then (s, some (Result.bare stOK)) else (s, none) := by
  unfold runEvtWait
  rw [checked_bare (fieldsOk_single (decide_eq_true hev)) rfl]

/-! ## O1 -/

/-- Settles O1: each row's function answers what its command asks for, and none of them writes a tensor. -/
theorem controlRowsComplete : Obligations.ControlRowsComplete := by
  intro s id k e
  refine ⟨fun h => exec_ready_writeless (f := fun s _ _ => (s, some (Result.bare stOK))) rfl h rfl rfl,
    fun h hq1 hq2 hk1 hk2 hfree => exec_ready_writeless rfl h rfl (runQueCreate_ready hq1 hq2 hk1 hk2 hfree),
    fun t h hq1 hq2 hpres hone ht hgone => ?destroy, fun x h hq hseq hnone hx => ?kill,
    fun i h hq hseq htarget hgone => exec_ready_writeless rfl h rfl (runCtlKill_targetGone hq hseq htarget hgone),
    fun h hev hmode => exec_ready_writeless rfl h rfl (runEvtSet_ready hev hmode), fun h hev => ?wait⟩
  case destroy =>
    have hid : k.id = id := h.id_eq
    subst hid
    exact exec_ready_writeless rfl h rfl (runQueDestroy_empties hq1 hq2 hpres hone rfl ht hgone)
  case kill =>
    have hid : k.id = id := h.id_eq
    subst hid
    have hrun := runCtlKill_found (e := e) hq hseq hnone hx
    split
    · next hpast => exact exec_goesOn rfl h (hrun.trans (if_pos hpast))
    · next hpast => exact exec_ready_writeless rfl h rfl (hrun.trans (if_neg hpast))
  case wait =>
    have hid : k.id = id := h.id_eq
    subst hid
    have hrun := runEvtWait_checked (s := s) (e := e) hev
    split
    · next hreached => exact exec_ready_writeless rfl h rfl (hrun.trans (if_pos hreached))
    · next hbefore => exact exec_goesOn rfl h (hrun.trans (if_neg hbefore))

/-! ## Semaphores (R301) -/

theorem semOk_of_lt {n : Nat} (h : n < 4096) : semOk n = true := decide_eq_true h

theorem unitsOk_of_bounds {n : Nat} (h1 : 1 ≤ n) (h2 : n ≤ 65535) : unitsOk n = true := by simp [unitsOk, h1, h2]

theorem runSemInit_ready (hm : k.n 0 < 4096) (hn : k.n 1 ≤ 65535) (hfree : s.semInUse e.part.num (k.n 0) = false) :
    runSemInit s k e = (s, some (Result.ok (.semInit (k.n 0) (k.n 1)))) :=
  checked_bare (fieldsOk_pair (semOk_of_lt hm) (decide_eq_true hn)) (by simp [hfree])

section
variable {y : Ctx} (hm : k.n 0 < 4096) (h1 : 1 ≤ k.n 1) (h2 : k.n 1 ≤ 65535) (hy : s.ctx? k.ctx = some y)
include hm h1 h2 hy

/-- The oldest waiter, with a place for its semaphore, waits for the count alone. -/
theorem runSemAcquire_oldest (hroom : y.semsFull (k.n 0) = false)
    (hold : ∀ w ∈ s.semWaiters e.part.num (k.n 0), k.disp ≤ w.disp) :
    runSemAcquire s k e = if k.n 1 ≤ s.semCount e.part.num (k.n 0) then (s, some (Result.ok (.semAcquire (k.n 0) (k.n 1))))
      else (s, none) := by
  have holdest : (s.semWaiters e.part.num (k.n 0)).any (fun w => decide (w.disp < k.disp)) = false := by
    simpa using hold
  unfold runSemAcquire
  rw [checked_bare (fieldsOk_pair (semOk_of_lt hm) (unitsOk_of_bounds h1 h2)) rfl]
  simp only [hy, hroom, holdest, Option.map_some, Option.getD_some, Bool.false_eq_true, if_false]
  by_cases hcount : k.n 1 ≤ s.semCount e.part.num (k.n 0)
  · rw [if_pos hcount, if_neg (Nat.not_lt.mpr hcount)]
  · rw [if_neg hcount, if_pos (Nat.lt_of_not_le hcount)]

theorem runSemRelease_held (hheld : k.n 1 ≤ y.held (k.n 0)) :
    runSemRelease s k e = (s, some (Result.ok (.semRelease (k.n 0) (k.n 1)))) :=
  checked_bare (fieldsOk_pair (semOk_of_lt hm) (unitsOk_of_bounds h1 h2)) (by simp [hy, hheld])

end

/-! ## O2 -/

/-- Settles O2: each row's function answers what its command asks for once the condition of R301 holds. -/
theorem semaphoreRowsComplete : Obligations.SemaphoreRowsComplete := by
  intro s id k e x
  refine ⟨fun h hm hn hfree => exec_ready_writeless rfl h rfl (runSemInit_ready hm hn hfree),
    fun h hm h1 h2 hx hroom hold => ?acquire,
    fun h hm h1 h2 hx hheld => exec_ready_writeless rfl h rfl (runSemRelease_held hm h1 h2 hx hheld)⟩
  case acquire =>
    have hrun := runSemAcquire_oldest (e := e) hm h1 h2 hx hroom hold
    split
    · next hcount => exact exec_ready_writeless rfl h rfl (hrun.trans (if_pos hcount))
    · next hcount => exact exec_goesOn rfl h (hrun.trans (if_neg hcount))

end Sys2Proof.Machine
end

section
/-!
PROOFS. Donations (spec 12 R325, R326; 11 R302): what each of their rows runs when its condition holds, and O26 from these.
-/
namespace Sys2Proof.Machine

variable {s : State} {n : Nat} {p : Part}

section
variable (ha : s.awake = true) (hp : s.part? n = some p)
include ha hp

/-- The holder is loaded into the rotation slot, for the acquire that it holds up. -/
theorem exec_donationBegin_due {c : Cmd} {h : Nat} {x : Ctx} (hfoot : p.foot ≠ 0) (hfree : p.rotationFree = true)
    (howed : s.switchOwed p = false) (hnext : s.nextDonation p = some (c, h)) (hx : s.ctx? h = some x) :
    exec (.donationBegin n) s = .next ((beginSwitch s n x none true).modPart n fun q => { q with
      donation := some { holder := h, sem := c.n 0, acquire := c.id, since := s.clk.localUs }
      donations := satNat32 (q.donations + 1) }).noteSched := by
  show execDonationBegin n s = _
  simp only [execDonationBegin, donationBegin, ha, hp, hfoot, hfree, howed, hnext, hx, decide_false, Bool.not_true, Bool.or_self,
    Bool.false_eq_true, if_false, if_true]

section
variable {d : Donation} (hd : p.donation = some d) (hswitch : p.switch = none)
include hd hswitch

theorem exec_donationEnd_over (hover : s.donationOver d = true) :
    exec (.donationEnd n) s = .next (s.endDonation n).noteSched := by
  show execDonationEnd n s = _
  simp only [execDonationEnd, donationEnd, ha, hp, hd, hswitch, hover, Option.isNone_none, Bool.and_self, if_true]

theorem exec_donationQuantumExpiry_due (hover : s.donationOver d = false) (hrun : d.since + p.quantum ≤ s.clk.localUs) :
    exec (.donationQuantumExpiry n) s = .next ((revoke s n d).endDonation n).noteSched := by
  show execDonationQuantumExpiry n s = _
  simp only [execDonationQuantumExpiry, donationExpiry, ha, hp, hd, hswitch, hover, hrun, Option.isNone_none, decide_true,
    Bool.not_false, Bool.and_self, if_true]

end

end

/-- Settles O26: each row runs its operation on the donation, or on the next one, of its partition. -/
theorem donationRowsComplete : Obligations.DonationRowsComplete := by
  intro s n p c h x d ha hp
  exact ⟨exec_donationBegin_due ha hp, exec_donationEnd_over ha hp, exec_donationQuantumExpiry_due ha hp⟩

end Sys2Proof.Machine
end

section
/-!
PROOFS. The ATOMIC forms (spec 11 R297; 13 R342): in memory without read errors no element is missed, with no checkpoint draining
no page of the reserve is needed, and what has been written in place needs none at the commit; O60 from these.
-/
namespace Sys2Proof.Machine

variable {s t : State} {id : CmdId} {k c : Cmd} {e : Env} {a : Alloc}

/-! ## Pages of the reserve -/

theorem State.reserveNeed_undrained {p : Nat} (hd : (s.part? p).bind (·.ckp.drain) = none) (ws : List TWrite) :
    s.reserveNeed p ws = [] := by
  unfold State.reserveNeed
  rw [hd]

/-- A write without elements or scales changes no page. -/
theorem State.reserveNeed_unmoved {ws : List TWrite} (h : ∀ w ∈ ws, w.elems = [] ∧ w.scales = []) (s : State) (p : Nat) :
    s.reserveNeed p ws = [] := by
  unfold State.reserveNeed
  split
  · rfl
  · rw [List.flatMap_eq_nil_iff.mpr, List.foldl_nil]
    intro w hw
    obtain ⟨helems, hscales⟩ := h w hw
    split
    · rw [TWrite.pages, helems, hscales]
      rfl
    · rfl

/-- A command that runs works on its own partition. -/
theorem Runs.part_num {op : Nat} (h : Runs s op id k e) : e.part.num = s.cmdPart id := by
  have henv := h.env
  unfold State.env? at henv
  split at henv
  · cases henv
  · split at henv
    · split at henv
      · next i v f hi _ _ =>
        split at henv
        · next p x hp _ =>
          cases henv
          rw [State.part?_num hp, State.cmdPart, State.ifacePart, hi]
          rfl
        · cases henv
      · cases henv
    · cases henv

/-- A row that has written in place makes its command ready at once. -/
theorem exec_ready_inPlace {op : Nat} {i : Instr} {f : State → Cmd → Env → State × Option Result} {w : Result}
    (hi : exec i s = runOp op id s f) (h : Runs s op id k e) (hf : f s k e = (t, some (inPlace w))) :
    exec i s = .next (t.markReady id (inPlace w)) := by
  have hneed : ∀ p, t.reserveNeed p (inPlace w).writes = [] := fun p => State.reserveNeed_unmoved (fun v hv => by
    obtain ⟨x, -, rfl⟩ := List.mem_map.mp hv
    exact ⟨rfl, rfl⟩) t p
  have hfinish : finishRow t k (inPlace w) = t.markReady k.id (inPlace w) := by
    unfold finishRow
    simp only [hneed, ite_self, List.isEmpty_nil, if_true]
  rw [hi, runOp_runs h, hf, ← h.id_eq]
  exact congrArg Host.Outcome.next hfinish

/-! ## Nothing is missed in memory without read errors -/

theorem elemBad_sound (h : a.uncorr = []) (n : Nat) : elemBad a n = false := by
  simp [elemBad, h, unitsHit_nil]

theorem operandBad_clean (hc : s.clean) (p : Nat) (i : Option Nat) (rs : List TRef) (n : Nat) :
    operandBad (s.facedTo p i) p rs n = false := by
  refine List.any_eq_false.mpr fun r _ => ?_
  cases hb : (s.facedTo p i).contents p r.handle with
  | none => simp
  | some b => simp [elemBad_sound (State.facedTo_contents hc hb).2]

theorem recordBad_clean (hc : s.clean) (k : Cmd) (e : Env) (i b : Nat) : recordBad s k e i b = false := by
  unfold recordBad
  split
  · next ha =>
    dsimp only
    split
    · rw [(hc.alloc ha).2, unitsHit_nil]
      rfl
    · rfl
  · rfl

theorem paramBad_clean (hc : s.clean) (k : Cmd) (e : Env) (h : W32) (n : Nat) : paramBad s k e h n = false := by
  unfold paramBad
  dsimp only
  split
  · rfl
  · rw [recordBad_clean hc, Bool.false_or]
    refine List.any_eq_false.mpr fun g _ => ?_
    cases ha : s.alloc? e.part.num g with
    | none => simp
    | some a => simp [elemBad_sound (hc.alloc ha).2]

theorem sumBy_zero {α : Type} {f : α → Nat} {l : List α} (h : ∀ x, f x = 0) : sumBy f l = 0 := by
  unfold sumBy
  induction l with
  | nil => rfl
  | cons x l ih => rwa [List.foldl_cons, h]

theorem ruleMissed_clean (hc : s.clean) (k : Cmd) (e : Env) (prog : List W32) (l : List Nat) : ruleMissed s k e prog l = 0 := by
  refine sumBy_zero fun i => ?_
  split
  · refine sumBy_zero fun b => sumBy_zero fun x => ?_
    simp [paramBad_clean hc]
  · rfl

/-! ## VEC_EWISE -/

/-- That a command is ATOMIC past its first write holds no generator. -/
theorem State.generatorHeld_markAtomic (s : State) (id : CmdId) (c : Cmd) (n : Nat) :
    (s.modCmd id fun x => { x with atomic := true }).generatorHeld c n = s.generatorHeld c n := by
  simp only [State.generatorHeld, State.modCmd_cmds, modWhere, List.any_map]
  refine congrArg (List.any s.cmds) (funext fun x => ?_)
  simp only [Function.comp]
  split <;> rfl

/-- An element-wise command writes every element in place where none is bad and no page of the reserve is needed. -/
theorem vecAtomic_ready {spec : OutSpec} {vs : List W32} {rb : List (Option Nat) × Drawer} {x : TWrite} (hc : s.clean)
    (hd : (s.part? e.part.num).bind (·.ckp.drain) = none) (hw : mustWait s c e [spec.ref] = false)
    (hvs : vs = spec.vals.take (spec.ref.len a)) (hrb : rb = roundBits c e (c.spot e) 0 a spec.ref vs.length (s.drawer e))
    (hx : x = encodeSome a spec.ref.conv (if spec.ref.ds = 0#32 then none else some spec.ref.ds)
      ((List.range vs.length).map fun i => (spec.ref.off + i, decode32 (nth vs i), rb.1.getD i none)))
    (ht : s.takeReserve c (some c.id) [] = some t) :
    vecAtomic s c e spec a = (t.facing e.part.num (s.copyIndex c) (·.writeNow e.part.num x),
      some (inPlace { Result.bare stOK with
        writes := [x], gens := if spec.ref.stoch && !e.det then some rb.2.gens else none })) := by
  subst hvs hrb hx
  have hall : ∀ l : List Nat, l.filter (fun _ => true) = l := fun _ => List.filter_eq_self.mpr fun _ _ => rfl
  have hnone : ∀ l : List Nat, l.countP (fun _ => false) = 0 := fun _ => List.countP_eq_zero.mpr fun _ _ => Bool.false_ne_true
  unfold vecAtomic
  simp only [hw, operandBad_clean hc, State.reserveNeed_undrained hd, ht, Bool.not_false, Bool.not_true, hall, hnone,
    Bool.false_eq_true, if_false, if_true, beq_self_eq_true, Bool.and_true]
  rfl

theorem runVecEwise_atomic (hc : s.clean) (hf : fieldsOk (vecFields k e)) (hat : bitAt k.flags 0 = true)
    (ha : e.alloc? (k.t 4).handle = some a) :
    runVecEwise s k e =
      vecAtomic (s.modCmd k.id fun c => { c with atomic := true }) { k with guardLog2 := 0 } e (vecOut k e) a := by
  unfold runVecEwise
  simp only [hat, if_true]
  rw [checked_bare hf rfl]
  simp only [ha, State.readRefs_clean hc]

/-! ## RULE_APPLY -/

theorem runRuleApply_atomic (hc : s.clean) (hf : fieldsOk (ruleFields k e)) (hst : ruleState k e = true)
    (hat : bitAt k.flags 0 = true) : runRuleApply s k e = ruleBody s k e := by
  unfold runRuleApply
  rw [if_pos hat, checked_bare hf hst, State.readBuffers_clean hc]

/-- An ATOMIC update of weights that no step holds writes every parameter of its work in place. -/
theorem ruleBody_atomic {prog : List W32} {r : Reduced} {u : List TWrite × Drawer} {w : Result} (hc : s.clean)
    (hd : (s.part? e.part.num).bind (·.ckp.drain) = none) (hat : bitAt k.flags 0 = true)
    (hprog : boundRule e (k.n 0) = some prog) (hr : ruleReduced k e = some r)
    (hgen : e.det = true ∨ k.planStoch = false ∨ s.generatorHeld k e.part.tiles = false)
    (hstep : s.stepHolds e.part.num k.id (e.weights (entryList k e 20)) = false)
    (hu : u = ruleEntries k e (fun _ _ => true) prog (ruleWork k e) (entryList k e 20).eraseDups (s.drawer e))
    (hw : w = ruleOutcome k e r u.1 (if !e.det && k.planStoch then some u.2.gens else none))
    (ht : s.takeReserve k (some k.id) [] = some t) :
    ruleBody s k e = ((w.writes.foldl (fun t x => t.writeNow e.part.num x) t).modCmd k.id fun c => { c with atomic := true },
      some (inPlace w)) := by
  subst hu hw
  have hgo : (!e.det && k.planStoch && s.generatorHeld k e.part.tiles) = false := by
    rcases hgen with h | h | h <;> simp [h]
  simp only [ruleBody, ruleAtomic, hprog, hr, hgo, hat, hstep, paramBad_clean hc, ruleMissed_clean hc, State.reserveNeed_undrained hd,
    ht, Bool.and_false, Bool.not_false, Bool.false_eq_true, if_false, if_true]
  rfl

/-! ## O60 -/

/-- Settles O60: each form writes in place all that it would write, and what is left for its commit moves no page. -/
theorem atomicRowsComplete : Obligations.AtomicRowsComplete := by
  intro s t id k e w hc hd hat
  refine ⟨fun a vs rb x h hf hwait ha hvs hrb hx ht => ?vecEwise,
    fun prog r u h hf hst hprog hr hgen hstep hu hw ht => ?ruleApply⟩
  case vecEwise =>
    have hid : k.id = id := h.id_eq
    subst hid
    refine exec_ready_inPlace rfl h ((runVecEwise_atomic hc hf hat ha).trans ?_)
    refine vecAtomic_ready hc (h.part_num ▸ hd) ?_ hvs hrb hx ht
    rw [← hwait]
    exact congrArg _ (State.generatorHeld_markAtomic s k.id k e.part.tiles)
  case ruleApply =>
    have hid : k.id = id := h.id_eq
    subst hid
    exact exec_ready_inPlace rfl h ((runRuleApply_atomic hc hf hst hat).trans
      (ruleBody_atomic hc (h.part_num ▸ hd) hat hprog hr hgen hstep hu hw ht))

end Sys2Proof.Machine
end

section
/-!
PROOFS. Contexts and their switches (spec 12 R314 to R323): which context comes in and which goes out, what the rows of a switch
run, and what the context commands answer; O25, O24 and O7 from these.
-/
namespace Sys2Proof.Machine

variable {s : State} {p : Part} {x y : Ctx}

/-! ## Victims (R319) -/

theorem minBy_mem {α : Type} {key : α → Nat} {l : List α} {a : α} (h : minBy key l = some a) : a ∈ l := by
  induction l generalizing a with
  | nil => cases h
  | cons b r ih =>
    unfold minBy at h
    split at h
    · cases h
      exact List.mem_cons_self
    · next c hc =>
      split at h <;> cases h
      · exact List.mem_cons_of_mem b (ih hc)
      · exact List.mem_cons_self

theorem State.mem_residents : y ∈ s.residents p ↔ y ∈ s.ctxs ∧ y.part = p.num ∧ y.st = .resident := by
  simp only [State.residents, State.partCtxs, List.mem_filter, beq_iff_eq, and_assoc]

theorem State.incoming_waits (h : s.incoming p = some x) : x ∈ s.ctxs ∧ x.st = .swapped ∧ s.runnable x = true := by
  have hx := minBy_mem h
  simp only [List.mem_filter, State.partCtxs, Bool.and_eq_true, beq_iff_eq] at hx
  obtain ⟨⟨⟨hmem, -⟩, hst, hrun⟩, -⟩ := hx
  exact ⟨hmem, hst, hrun⟩

theorem State.priorityVictim_worse (h : s.priorityVictim p x = some y) : y ∈ s.residents p ∧ x.prio < y.prio := by
  simp only [State.priorityVictim] at h
  split at h
  · next hlt =>
    obtain ⟨hmem, hworst⟩ := List.mem_filter.mp (minBy_mem h)
    exact ⟨hmem, eq_of_beq hworst ▸ hlt⟩
  · cases h

/-- Both the incoming context and its victim are past a slice. -/
theorem State.sliceVictim_equal (h : s.sliceVictim p x = some y) : y ∈ s.residents p ∧ x.prio = y.prio ∧ x.runnableSince ≠ 0 ∧
    x.runnableSince - 1 + p.slice ≤ s.clk.localUs ∧ y.residentSince + p.slice ≤ s.clk.localUs := by
  simp only [State.sliceVictim, Bool.and_eq_true, bne_iff_ne, decide_eq_true_eq] at h
  split at h
  · next hx =>
    obtain ⟨hmem, hy⟩ := List.mem_filter.mp (minBy_mem h)
    simp only [Bool.and_eq_true, beq_iff_eq, decide_eq_true_eq] at hy
    exact ⟨hmem, hy.1.symm, hx.1, hx.2, hy.2⟩
  · cases h

/-- What the case of a victim by priority or by slice goes by. -/
theorem State.entry_swap (h : s.entry p = some (.swap x y)) : p.foot ≠ 0 ∧ p.switch = none ∧ p.donation = none ∧
    s.slotFree p = false ∧ s.incoming p = some x ∧ (s.priorityVictim p x = some y ∨ s.sliceVictim p x = some y) := by
  unfold State.entry at h
  split at h
  · cases h
  next hopen =>
  obtain ⟨hfoot, hswitch⟩ := not_or.mp hopen
  split at h
  · cases h
  next z hz =>
  split at h
  · cases h
  next hslot =>
  split at h
  · cases h
  next hrot =>
  have hdon : p.donation = none := by simpa [Part.rotationFree, hswitch] using hrot
  refine ⟨hfoot, by simpa using hswitch, hdon, by simpa using hslot, ?_⟩
  split at h
  · next hprio =>
    cases h
    exact ⟨hz, .inl hprio⟩
  · split at h
    · next hslice =>
      cases h
      exact ⟨hz, .inr hslice⟩
    · cases hv : s.rotationVictim p <;> simp [hv] at h

/-- Settles O25: the first case of R319 that names a victim by priority or by slice says what it goes by. -/
theorem switchVictims : Obligations.SwitchVictims := by
  intro s p x y h
  obtain ⟨hfoot, hswitch, hdon, hslot, hin, hvictim⟩ := State.entry_swap h
  obtain ⟨hx, hst, hrun⟩ := State.incoming_waits hin
  have hy : y ∈ s.residents p ∧ (x.prio < y.prio ∨ (x.prio = y.prio ∧ x.runnableSince ≠ 0 ∧
      x.runnableSince - 1 + p.slice ≤ s.clk.localUs ∧ y.residentSince + p.slice ≤ s.clk.localUs)) := by
    rcases hvictim with h | h
    · exact (State.priorityVictim_worse h).imp_right .inl
    · exact (State.sliceVictim_equal h).imp_right .inr
  obtain ⟨hmem, hpart, hres⟩ := State.mem_residents.mp hy.1
  exact ⟨hfoot, hswitch, hdon, hslot, hmem, hpart, hres, hx, hst, hrun, hy.2⟩

/-! ## Switches and their ends (R319 to R321, R323) -/

section
variable {n : Nat} (ha : s.awake = true) (hp : s.part? n = some p)
include ha hp

theorem exec_contextSwitch_free (h : s.entry p = some (.free x)) :
    exec (.contextSwitch n) s = .next (beginSwitch s n x none false).noteSched := by
  show execContextSwitch n s = _
  simp only [execContextSwitch, contextSwitch, ha, hp, h, if_true]

theorem exec_contextSwitch_swap (h : s.entry p = some (.swap x y)) :
    exec (.contextSwitch n) s = .next (markServed (beginSwitch s n x (some y) false) n).noteSched := by
  show execContextSwitch n s = _
  simp only [execContextSwitch, contextSwitch, ha, hp, h, if_true]

theorem exec_rotation_rotate (h : s.entry p = some (.rotate x y)) : exec (.rotation n) s = .next
    ((markServed (beginSwitch s n x (some y) false) n).modPart n fun q =>
      { q with rotations := satNat32 (q.rotations + 1) }).noteSched := by
  show execRotation n s = _
  simp only [execRotation, rotation, ha, hp, h, if_true]

/-- A load and a save that are over, once no ATOMIC command of the outgoing context is past its first write. -/
theorem exec_switchComplete_both {w : Switch} (hw : p.switch = some w) (hx : w.incoming = some x.id) (hy : w.outgoing = some y.id)
    (hdone : ∀ c ∈ s.cmds, c.ctx = y.id → c.pastWrite = false) : exec (.switchComplete n) s = .next
      ((((setSt ((setSt s x.id (if w.donate then .donated else .resident)).refillWindows n x.id) y.id .swapped).loseWindows
          y.id).modPart n fun q => { q with
        switch := none, switches := satNat32 (q.switches + 2), switchUs := satNat32 (q.switchUs + (s.clk.localUs - w.start))
        donation := q.donation.map fun d => if w.donate then { d with since := s.clk.localUs } else d }).noteSched) := by
  have hwrites : (s.cmds.any fun c => c.ctx == y.id && c.pastWrite) = false := by simpa using hdone
  show execSwitchComplete n s = _
  simp only [execSwitchComplete, switchComplete, ha, hp, hw, hx, hy, hwrites, Option.bind_some, Option.map_some, Option.getD_some,
    Bool.false_eq_true, if_false, if_true]
  rfl

end

/-- Settles O24: each row runs the case of R319 that applies, and the end of a switch moves both of its contexts. -/
theorem switchRowsComplete : Obligations.SwitchRowsComplete := by
  intro s n p x y w ha hp
  exact ⟨exec_contextSwitch_free ha hp, exec_contextSwitch_swap ha hp, exec_rotation_rotate ha hp, exec_switchComplete_both ha hp⟩

/-! ## Context commands (R315 to R318) -/

section
variable {k : Cmd} {e : Env}

theorem runCtxCreate_ready (hquad : k.n 0 % 4 = 0) (hfoot : e.part.foot = 0 ∨ k.n 0 ≤ e.part.foot) (hprio : k.n 1 ≤ 3)
    (hmin : e.iface.prioMin ≤ k.n 1) : runCtxCreate s k e = (s, some (Result.ok (.ctxCreate (k.n 0) (k.n 1)))) :=
  checked_bare (fieldsOk_pair (by simpa [hquad] using hfoot) (by simp [hprio, hmin])) rfl

/-- The target's commands are killed; the command answers once none of them is left. -/
theorem runCtxDestroy_emptied {t : State} (hctx : k.n 0 < 4096) (hother : k.n 0 ≠ k.ctx) (hmay : s.ctxDestroyable k e (k.n 0) = true)
    (ht : t = (s.killAll ((s.cmds.filter (·.ctx == k.n 0)).map (·.id))).noteSched) (hgone : ∀ c ∈ t.cmds, c.ctx ≠ k.n 0) :
    runCtxDestroy s k e = (t, some (Result.ok (.ctxDestroy (k.n 0)))) := by
  have hnone : t.cmds.any (·.ctx == k.n 0) = false := by simpa using hgone
  unfold runCtxDestroy
  dsimp only
  rw [checked_bare (fieldsOk_single (by simp [hctx, hother])) hmay, ← ht, hnone]
  rfl

theorem State.ownCtx_of_iface (hx : s.ctx? (k.n 0) = some x) (hi : x.iface = k.id.iface) : s.ownCtx k (k.n 0) = true := by
  simp [State.ownCtx, hx, hi]

theorem runCtxPriority_ready (hctx : k.n 0 < 4096) (hprio : k.n 1 ≤ 3) (hmin : e.iface.prioMin ≤ k.n 1)
    (hx : s.ctx? (k.n 0) = some x) (hi : x.iface = k.id.iface) :
    runCtxPriority s k e = (s, some (Result.ok (.ctxPriority (k.n 0) (k.n 1)))) :=
  checked_bare (fieldsOk_pair (decide_eq_true hctx) (by simp [hprio, hmin])) (State.ownCtx_of_iface hx hi)

theorem runCtxState_ready (hctx : k.n 0 < 4096) (hx : s.ctx? (k.n 0) = some x) (hi : x.iface = k.id.iface) :
    runCtxState s k e = (s, some (Result.okDetail (ctxStateWord s x))) := by
  unfold runCtxState
  rw [checked_bare (fieldsOk_single (decide_eq_true hctx)) (State.ownCtx_of_iface hx hi), hx]
  rfl

end

/-- Settles O7: each row's function answers what its command asks for, and none of them writes a tensor. -/
theorem contextRowsComplete : Obligations.ContextRowsComplete := by
  intro s id k e x
  refine ⟨fun h hquad hfoot hprio hmin => exec_ready_writeless rfl h rfl (runCtxCreate_ready hquad hfoot hprio hmin),
    fun t h hctx hother hmay ht hgone => exec_ready_writeless rfl h rfl (runCtxDestroy_emptied hctx hother hmay ht hgone),
    fun h hctx hprio hmin hx hi => ?priority, fun h hctx hx hi => ?state⟩
  case priority => exact exec_ready_writeless rfl h rfl (runCtxPriority_ready hctx hprio hmin hx (h.id_eq ▸ hi))
  case state => exact exec_ready_writeless rfl h rfl (runCtxState_ready hctx hx (h.id_eq ▸ hi))

end Sys2Proof.Machine
end

section
/-!
SUPPORT. Whose each thing of the module is (spec 12 R306 to R309): no completion, kill, fence, failed drain or turn of the checkpoint
writer makes or ends a partition, or moves an allocation, a context or an interface to another partition.
-/
namespace Sys2Proof.Machine

/-- The numbers of the partitions, and the partition of each allocation, context and interface. -/
def State.owners (s : State) : List Nat × List Nat × List Nat × List Nat :=
  (s.parts.map (·.num), s.allocs.map (·.part), s.ctxs.map (·.part), s.ifaces.map (·.part))

/-! ## Changes of one kind of thing -/

/-- A selective change that keeps a property of what it selects keeps it throughout the list. -/
theorem map_modWhere_selected {α β : Type} {w : α → Bool} {f : α → α} {g : α → β} {l : List α}
    (h : ∀ x ∈ l, w x = true → g (f x) = g x) : (modWhere w f l).map g = l.map g := by
  unfold modWhere
  rw [List.map_map]
  refine List.map_congr_left fun x hx => ?_
  by_cases hw : w x = true
  · simp [hw, h x hx hw]
  · simp [hw]

section
variable (s : State)

theorem State.owners_mapParts {f : Part → Part} (h : ∀ q, (f q).num = q.num) :
    ({ s with parts := s.parts.map f } : State).owners = s.owners := by
  simp [State.owners, Function.comp_def, h]

theorem State.owners_modParts (w : Part → Bool) {f : Part → Part} (h : ∀ q, (f q).num = q.num) :
    ({ s with parts := modWhere w f s.parts } : State).owners = s.owners := by
  simp [State.owners, map_modWhere h]

@[simp] theorem State.owners_modPart (n : Nat) {f : Part → Part} (h : ∀ q, (f q).num = q.num) :
    (s.modPart n f).owners = s.owners := s.owners_modParts _ h

theorem State.owners_modIfaces (w : Iface → Bool) {f : Iface → Iface} (h : ∀ i, (f i).part = i.part) :
    ({ s with ifaces := modWhere w f s.ifaces } : State).owners = s.owners := by
  simp [State.owners, map_modWhere h]

@[simp] theorem State.owners_modIface (n : Nat) {f : Iface → Iface} (h : ∀ i, (f i).part = i.part) :
    (s.modIface n f).owners = s.owners := s.owners_modIfaces _ h

theorem State.owners_modCtxs (w : Ctx → Bool) {f : Ctx → Ctx} (h : ∀ x, (f x).part = x.part) :
    ({ s with ctxs := modWhere w f s.ctxs } : State).owners = s.owners := by
  simp [State.owners, map_modWhere h]

@[simp] theorem State.owners_modCtx (n : Nat) {f : Ctx → Ctx} (h : ∀ x, (f x).part = x.part) :
    (s.modCtx n f).owners = s.owners := s.owners_modCtxs _ h

theorem State.alloc?_part {s : State} {p : Nat} {w : W32} {a : Alloc} (h : s.alloc? p w = some a) : a.part = p := by
  have := List.find?_some h
  simp only [Bool.and_eq_true, beq_iff_eq] at this
  exact this.1

theorem State.owners_modAlloc (p : Nat) (w : W32) {f : Alloc → Alloc} (h : ∀ a, a.part = p → (f a).part = p) :
    (s.modAlloc p w f).owners = s.owners := by
  have hmap : (s.modAlloc p w f).allocs.map (·.part) = s.allocs.map (·.part) :=
    map_modWhere_selected fun a _ ha => by
      have hp : a.part = p := by simpa using (Bool.and_eq_true_iff.mp ha).1
      rw [h a hp, hp]
  simp only [State.owners, hmap, State.modAlloc_parts, State.modAlloc_ctxs, State.modAlloc_ifaces]

@[simp] theorem State.owners_modNet (f : Net → Net) : (s.modNet f).owners = s.owners := rfl
@[simp] theorem State.owners_modMgt (f : Mgt → Mgt) : (s.modMgt f).owners = s.owners := rfl
@[simp] theorem State.owners_modMaint (f : Maint → Maint) : (s.modMaint f).owners = s.owners := rfl
@[simp] theorem State.owners_modFlt (f : Flt → Flt) : (s.modFlt f).owners = s.owners := rfl
@[simp] theorem State.owners_modPwr (f : Pwr → Pwr) : (s.modPwr f).owners = s.owners := rfl
@[simp] theorem State.owners_emit (o : Out) : (s.emit o).owners = s.owners := rfl
@[simp] theorem State.owners_useFresh : s.useFresh.owners = s.owners := rfl
@[simp] theorem State.owners_touch : s.touch.owners = s.owners := rfl
@[simp] theorem State.owners_dropItems (c : CmdId) : (s.dropItems c).owners = s.owners := rfl
@[simp] theorem State.owners_leaveQueues (c : CmdId) : (s.leaveQueues c).owners = s.owners := rfl
@[simp] theorem State.owners_setCmds (l : List Cmd) : ({ s with cmds := l } : State).owners = s.owners := rfl
@[simp] theorem State.owners_modQueue (i q : Nat) (f : Queue → Queue) : (s.modQueue i q f).owners = s.owners :=
  s.owners_modIface i fun _ => rfl
@[simp] theorem State.owners_settle : s.settle.owners = s.owners := by
  unfold State.settle
  split <;> rfl

/-- The waiting times that are noted leave each thing its partition. -/
@[simp] theorem State.owners_noteSched : s.noteSched.owners = s.owners := by
  have hparts : s.noteSched.parts.map (·.num) = s.parts.map (·.num) := map_modWhere (fun _ => by rfl) _
  have hctxs : s.noteSched.ctxs.map (·.part) = s.ctxs.map (·.part) := by simp [State.noteSched, Function.comp_def]
  unfold State.owners
  rw [hparts, hctxs]
  rfl

theorem State.owners_ite {b : Prop} [Decidable b] {t : State} (h : t.owners = s.owners) : (if b then t else s).owners = s.owners := by
  split
  · exact h
  · rfl

theorem State.owners_foldl {α : Type} {f : State → α → State} (h : ∀ s x, (f s x).owners = s.owners) (l : List α) :
    (l.foldl f s).owners = s.owners := by
  induction l generalizing s with
  | nil => rfl
  | cons x l ih => exact (ih _).trans (h s x)

/-! ## What a completed command lets go of -/

@[simp] theorem State.owners_emitControl (f : SendFlow) (ty psn : Nat) (arg : W32) : (s.emitControl f ty psn arg).owners = s.owners :=
  rfl

@[simp] theorem State.owners_abortData (p : Nat) (c : CmdId) : (s.abortData p c).owners = s.owners := by
  unfold State.abortData
  refine s.owners_foldl (fun s f => ?_) _
  split
  · exact State.owners_foldl _ (fun s _ => s.owners_emitControl _ _ _ _) _
  · rfl

@[simp] theorem State.owners_dropReads (c : CmdId) : (s.dropReads c).owners = s.owners := rfl
@[simp] theorem State.owners_forgetSent (c : CmdId) : (s.forgetSent c).owners = s.owners := rfl
@[simp] theorem State.owners_dropTransfers (c : CmdId) : (s.dropTransfers c).owners = s.owners := by simp [State.dropTransfers]
@[simp] theorem State.owners_abandonScan (c : CmdId) : (s.abandonScan c).owners = s.owners := by simp [State.abandonScan]
@[simp] theorem State.owners_dropColls (c : CmdId) : (s.dropColls c).owners = s.owners := by simp [State.dropColls]
@[simp] theorem State.owners_letGo (c : CmdId) (ok : Bool) : (s.letGo c ok).owners = s.owners := by simp [State.letGo]

@[simp] theorem State.owners_endWait (c : Cmd) : (s.endWait c).owners = s.owners := by
  unfold State.endWait
  split <;> simp

@[simp] theorem State.owners_modSchedule (c : Cmd) (f : LayerPlan → LayerPlan) : (s.modSchedule c f).owners = s.owners := by
  unfold State.modSchedule
  split <;> simp [Ctx.modPlans]

@[simp] theorem State.owners_endTraversal (c : Cmd) : (s.endTraversal c).owners = s.owners := by
  unfold State.endTraversal
  split <;> simp

@[simp] theorem State.owners_dropPlan (c : Cmd) : (s.dropPlan c).owners = s.owners := by
  unfold State.dropPlan
  split
  · rfl
  · split <;> simp

theorem State.owners_endPlan (c : CmdId) :
    (match s.cmd? c with | some k => (s.endTraversal k).dropPlan k | none => s).owners = s.owners := by
  split <;> simp

theorem State.owners_dropWork (c : CmdId) (ok : Bool) :
    (if ok then (s.forgetSent c).dropReads c else s.dropTransfers c).owners = s.owners := by
  split <;> simp

@[simp] theorem State.owners_release (c : CmdId) (ok : Bool) : (s.release c ok).owners = s.owners := by
  unfold State.release
  dsimp only
  refine (State.owners_mapParts _ fun _ => by rfl).trans ?_
  rw [State.owners_letGo, State.owners_dropColls, State.owners_dropWork, State.owners_leaveQueues, State.owners_dropItems]
  exact (State.owners_endPlan _ c).trans (s.owners_ite (s.owners_abandonScan c))

/-! ## Completions -/

@[simp] theorem State.owners_sendRoce (q : Qp) (b : RoceBody) : (s.sendRoce q b).owners = s.owners := by
  unfold State.sendRoce
  split
  · rfl
  · split
    · rfl
    · split <;> rfl

@[simp] theorem State.owners_postWork (port qpn : Nat) (w : QpReq) : (s.postWork port qpn w).owners = s.owners := by
  unfold State.postWork
  split
  · rfl
  · exact State.owners_sendRoce _ _ _

@[simp] theorem State.owners_postReply (c : Cmd) (ws : List W32) : (s.postReply c ws).owners = s.owners := by
  unfold State.postReply
  split
  · rfl
  · dsimp only
    split <;> simp

@[simp] theorem State.owners_chargeTo (x i : Nat) : (s.chargeTo x i).owners = s.owners := by simp [State.chargeTo]

@[simp] theorem State.owners_charge (c : Cmd) : (s.charge c).owners = s.owners := by
  unfold State.charge
  split <;> simp

@[simp] theorem State.owners_addEvent (i n k : Nat) : (s.addEvent i n k).owners = s.owners := by simp [State.addEvent]

@[simp] theorem State.owners_signal (c : Cmd) (st : Nat) : (s.signal c st).owners = s.owners := by
  unfold State.signal
  split <;> simp

@[simp] theorem State.owners_finish (c : Cmd) (r : Result) (dep : Bool) : (s.finish c r dep).owners = s.owners := by
  unfold State.finish
  dsimp only
  split <;> simp

@[simp] theorem State.owners_cascade (n : Nat) : (s.cascade n).owners = s.owners := by
  induction n generalizing s with
  | zero => rfl
  | succ n ih =>
    unfold State.cascade
    split
    · rfl
    · split
      · rfl
      · rw [ih, State.owners_finish]

/-! ## Records and contents -/

@[simp] theorem Iface.countRead_part (f : Iface) (n : Nat) : (f.countRead n).part = f.part := by
  unfold Iface.countRead
  split <;> rfl

@[simp] theorem State.owners_viewCounts (d : Detection) : (s.viewCounts d).owners = s.owners := by
  unfold State.viewCounts
  split
  · exact s.owners_modIfaces _ fun i => i.countRead_part _
  · rfl

@[simp] theorem State.owners_record (d : Detection) : (s.record d).owners = s.owners := by
  unfold State.record
  dsimp only
  split
  · exact s.owners_viewCounts d
  · split <;> exact (State.owners_modIfaces _ _ fun _ => by rfl).trans (s.owners_viewCounts d)

@[simp] theorem State.owners_injected : s.injected.owners = s.owners := by
  unfold State.injected
  dsimp only
  split <;> simp

@[simp] theorem State.owners_requestToken (t : Token) : (s.requestToken t).owners = s.owners := by
  unfold State.requestToken
  split <;> simp

@[simp] theorem State.owners_countRow (key : Nat × Nat) (t : Token) : (s.countRow key t).owners = s.owners := by
  unfold State.countRow
  dsimp only
  split <;> simp

@[simp] theorem State.owners_noteRow (n i row : Nat) : (s.noteRow n i row).owners = s.owners := by
  unfold State.noteRow
  split <;> simp

/-- The contents that a handle names may lie in an area of the partition; the allocation stays the partition's. -/
theorem State.owners_modContents (p : Nat) (w : W32) {f : Alloc → Alloc} (h : ∀ a, (f a).part = a.part) :
    (s.modContents p w f).owners = s.owners := by
  unfold State.modContents
  split
  · split
    · rfl
    · next a ha =>
      have hp : a.part = p := State.alloc?_part ha
      exact (State.owners_modAlloc _ p w fun _ _ => by exact (h _).trans hp).trans (s.owners_modPart p fun _ => by rfl)
  · exact s.owners_modAlloc p w fun a ha => (h a).trans ha

theorem Alloc.struck_part (a : Alloc) (u n : Nat) : (a.struck u n).part = a.part := by
  unfold Alloc.struck
  split <;> rfl

theorem Alloc.reshadow_part (a : Alloc) : a.reshadow.part = a.part := by
  unfold Alloc.reshadow
  split <;> rfl

@[simp] theorem State.owners_strikeUnit (p : Nat) (w : W32) (u : Nat) : (s.strikeUnit p w u).owners = s.owners := by
  unfold State.strikeUnit
  split
  · rfl
  · split
    · rw [State.owners_useFresh, State.owners_modContents _ _ _ fun a => a.struck_part _ _, State.owners_injected]
    · rfl

@[simp] theorem State.owners_strike (p : Nat) (w : W32) (us : List Nat) : (s.strike p w us).owners = s.owners := by
  unfold State.strike
  split
  · exact s.owners_foldl (fun s u => s.owners_strikeUnit p w u) us
  · rfl

@[simp] theorem State.owners_unstage (p : Nat) (w : W32) : (s.unstage p w).owners = s.owners := s.owners_modCtxs _ fun _ => rfl

@[simp] theorem State.owners_writeBuffer (p : Nat) (w : W32) (off : Nat) (bs : List Byte) :
    (s.writeBuffer p w off bs).owners = s.owners := by
  unfold State.writeBuffer
  rw [State.owners_unstage, State.owners_strike]
  exact s.owners_modContents p w fun a => Alloc.reshadow_part _

/-! ## Kills, fences and the safe state -/

@[simp] theorem State.owners_stopLoad (c : Cmd) : (s.stopLoad c).1.owners = s.owners := by
  unfold State.stopLoad
  split
  · rfl
  · split
    · dsimp only
      rw [State.owners_writeBuffer]
      split <;> simp
    · rfl

@[simp] theorem State.owners_endWith (c : Cmd) (r : Result) : (s.endWith c r).owners = s.owners := by simp [State.endWith]

@[simp] theorem State.owners_kill (c : CmdId) : (s.kill c).owners = s.owners := by
  unfold State.kill
  split
  · split <;> simp
  · rfl

@[simp] theorem State.owners_killAll (l : List CmdId) : (s.killAll l).owners = s.owners := by
  induction l generalizing s with
  | nil => exact s.owners_cascade _
  | cons c r ih => exact (ih _).trans (s.owners_kill c)

@[simp] theorem State.owners_chargeDrain (p : Nat) : (s.chargeDrain p).owners = s.owners := by
  unfold State.chargeDrain
  split <;> simp

@[simp] theorem State.owners_failDrain (p code : Nat) : (s.failDrain p code).owners = s.owners := by
  unfold State.failDrain
  split <;> simp

@[simp] theorem State.owners_failDrains (code : Nat) (l : List Nat) : (s.failDrains code l).owners = s.owners := by
  induction l generalizing s with
  | nil => rfl
  | cons p r ih => exact (ih _).trans (s.owners_failDrain p code)

@[simp] theorem State.owners_enterSafe : s.enterSafe.owners = s.owners := s.owners_failDrains _ _

@[simp] theorem State.owners_endProxy (gone : Nat → Bool) : (s.endProxy gone).owners = s.owners := by
  unfold State.endProxy
  split
  · split <;> simp
  · rfl

@[simp] theorem State.owners_fence (p : Nat) : (s.fence p).owners = s.owners := by
  unfold State.fence
  split
  · rfl
  · split
    · rfl
    · rw [State.owners_endProxy]
      refine (State.owners_modIfaces _ _ fun _ => by rfl).trans ?_
      simp

/-! ## Drains (13 R343 to R346) -/

@[simp] theorem State.owners_drainFails (p code : Nat) : (s.drainFails p code).owners = s.owners := by
  unfold State.drainFails
  dsimp only
  split
  · simp
  · split
    · simp
    · split <;> simp

@[simp] theorem State.owners_rereadConfigs (n : Nat) : (s.rereadConfigs n).owners = s.owners :=
  s.owners_foldl (fun _ _ => by rfl) _

@[simp] theorem State.owners_snapshot (n trigger : Nat) : (snapshot s n trigger).owners = s.owners := by
  unfold snapshot
  split <;> simp

@[simp] theorem State.owners_drainBroken (n code : Nat) : (s.drainBroken n code).owners = s.owners := by
  unfold State.drainBroken
  dsimp only
  split <;> simp

@[simp] theorem State.owners_postDrain (n i : Nat) (ws : List DrainWrite) : (postDrain s n i ws).owners = s.owners := by
  unfold postDrain
  split
  · simp
  · refine (State.owners_modPart _ n fun _ => by rfl).trans ?_
    exact s.owners_foldl (fun s _ => s.owners_postWork _ _ _) ws

@[simp] theorem State.owners_readFor (part info : Nat) (cmd : Option CmdId) (p : Nat) (w : W32) (lo hi : Nat) :
    (s.readFor part info cmd p w lo hi).1.owners = s.owners := by
  unfold State.readFor
  split
  · rfl
  · dsimp only
    refine (State.owners_modContents _ _ _ fun _ => by rfl).trans ?_
    have hnote : ∀ (s : State) (d : Detection) (n i row : Nat), ((s.record d).noteRow n i row).owners = s.owners :=
      fun s d n i row => by simp
    split
    · rw [State.owners_enterSafe, State.owners_foldl _ (fun s u => hnote s _ _ _ _), State.owners_foldl _ fun s u => hnote s _ _ _ _]
    · rw [State.owners_foldl _ (fun s u => hnote s _ _ _ _), State.owners_foldl _ fun s u => hnote s _ _ _ _]

@[simp] theorem State.owners_drainRead (p : Nat) (d : Drain) (w : W32) (g : Nat) : (s.drainRead p d w g).1.owners = s.owners := by
  unfold State.drainRead
  dsimp only
  split
  · rfl
  · simp

@[simp] theorem State.owners_setStage (n k : Nat) : (setStage s n k).owners = s.owners := by simp [setStage]

@[simp] theorem State.owners_driveDrain (fuel n : Nat) : (driveDrain fuel s n).owners = s.owners := by
  induction fuel generalizing s with
  | zero => rfl
  | succ fuel ih =>
    unfold driveDrain
    split
    · rfl
    · dsimp only
      split
      · simp
      · split
        · simp [ih]
        · split
          · simp
          · split <;> simp [ih]
      · split
        · simp [ih]
        · split <;> simp [ih]
      · simp
      · simp
      · rfl

theorem State.owners_serveDrains (fuel : Nat) : (serveDrains s fuel).owners = s.owners := by
  induction fuel generalizing s with
  | zero => rfl
  | succ fuel ih =>
    have hqueue : ∀ l, ({ s with shared := { s.shared with drains := l } } : State).owners = s.owners := fun _ => rfl
    unfold serveDrains
    dsimp only
    split
    · rfl
    · split
      · rfl
      · split
        · exact (State.owners_driveDrain _ _ _).trans (hqueue _)
        · exact (ih _).trans ((State.owners_driveDrain _ _ _).trans (hqueue _))

@[simp] theorem State.owners_drainNext : s.drainNext.owners = s.owners := s.owners_serveDrains _

@[simp] theorem State.owners_trainLink (k : Nat) : (s.trainLink k).owners = s.owners := by
  unfold State.trainLink
  split
  · rfl
  · split <;> rfl

end

end Sys2Proof.Machine
end

section
/-!
PROOFS. Management requests about tenants (spec 12 R306 to R312; 07 R188; 14 R364, R365; 17 R445 to R448): an admitted request is
answered with what its command answers on the state it is noted in; what each command answers once its rules hold; O52 from these.
-/
namespace Sys2Proof.Machine

variable {s t u : State} {r : MgmtReq}

/-! ## Requests that are served (17 R445 to R447) -/

@[simp] theorem State.wake_phase (s : State) : s.wake.phase = s.phase := by
  unfold State.wake
  split <;> rfl

theorem State.macOk_wake (s : State) (cmd : Nat) (r : MgmtReq) : s.wake.macOk cmd r = s.macOk cmd r := by
  simp only [State.macOk, State.wake_mgt]

/-- The command runs where the module's phase serves it, and its answer leaves with what the request keeps. -/
theorem replyTo_served {cmd : Nat} {auth : Bool} {f : State → Served} {st : Nat} {body : List W32}
    (hrec : s.phase = .recovery → recoveryServes cmd = true) (hf : f (s.noted auth r) = (t, st, body)) :
    replyTo s.wake cmd (authenticated auth r) r f = (s.answered t cmd auth r st body, st) := by
  have hserved : (s.phase == .recovery && !recoveryServes cmd) = false := by
    by_cases h : s.phase = .recovery
    · simp [hrec h]
    · simp [h]
  unfold replyTo State.answered
  cases hkeep : authenticated auth r <;>
    simp only [State.noted, hkeep, Bool.false_eq_true, if_false, if_true] at hf <;>
    simp only [Bool.false_eq_true, if_false, if_true, State.modMgt_phase, State.wake_phase, hserved, hf, State.wake_mgt]

/-- What R445 exempts takes no part in authentication. -/
theorem exempt_eq_not_authenticated (auth : Bool) (r : MgmtReq) : (!auth || r.path == .i3c) = !authenticated auth r := by
  simp [authenticated, bne]

theorem Admitted.admission {cmd : Nat} {auth : Bool} (h : Admitted s cmd auth r) :
    s.wake.admission cmd auth r = if authenticated auth r then .accepted else .free := by
  unfold State.admission
  cases hauth : authenticated auth r with
  | false =>
    rw [exempt_eq_not_authenticated, hauth]
    rfl
  | true =>
    rw [exempt_eq_not_authenticated, hauth, State.macOk_wake, h.mac hauth, State.wake_mgt]
    simp [h.counter hauth]

theorem serve_admitted {cmd : Nat} {auth : Bool} {f : State → Served} {st : Nat} {body : List W32} (h : Admitted s cmd auth r)
    (hf : f (s.noted auth r) = (t, st, body)) : serve cmd auth r s f = (s.answered t cmd auth r st body).noteSched := by
  have hserved : (!s.pathUp r.path || (s.phase == .dormant && !dormantServes cmd)) = false := by
    by_cases hd : s.phase = .dormant
    · simp [h.path, h.dormant hd]
    · simp [h.path, hd]
  have hreply := replyTo_served h.recovery hf
  unfold serve serveWith
  rw [hserved]
  dsimp only
  rw [h.admission]
  cases hauth : authenticated auth r <;> rw [hauth] at hreply <;>
    simp only [hreply, Bool.false_eq_true, if_false, if_true]

/-- A row that serves a request which its rules accept completes with OK. -/
theorem exec_served {i : Instr} {cmd : Nat} {f : State → Served} {ws : List W32}
    (hi : exec i s = .next (serve cmd true r s f)) (h : Admitted s cmd true r) (hf : f (s.noted true r) = (t, stOK, ws)) :
    exec i s = s.doneOk t cmd true r ws := by
  rw [hi, serve_admitted h hf]
  rfl

@[simp] theorem State.owners_sendReply (s : State) (r : MgmtReq) (ws : List W32) (mac : List Byte) :
    (sendReply s r ws mac).owners = s.owners := by
  unfold sendReply
  dsimp only
  split
  · rfl
  · exact State.owners_ite _ rfl
  · rfl

/-- An answer leaves every thing to its owner. -/
@[simp] theorem State.owners_answered (s t : State) (cmd : Nat) (auth : Bool) (r : MgmtReq) (st : Nat) (ws : List W32) :
    (s.answered t cmd auth r st ws).owners = t.owners := by
  unfold State.answered
  dsimp only
  split <;> simp

/-- An answer leaves the interfaces; so does what is noted after it. -/
theorem State.answered_iface? (s t : State) (cmd : Nat) (auth : Bool) (r : MgmtReq) (st : Nat) (ws : List W32) (i : Nat) :
    (s.answered t cmd auth r st ws).noteSched.iface? i = t.iface? i := by
  have hsent (ws : List W32) (mac : List Byte) : (sendReply t r ws mac).ifaces = t.ifaces := by
    unfold sendReply
    dsimp only
    split
    · rfl
    · split <;> rfl
    · rfl
  have hifaces : (s.answered t cmd auth r st ws).ifaces = t.ifaces := by
    unfold State.answered
    dsimp only
    split <;> exact hsent _ _
  exact congrArg (·.find? (·.num == i)) hifaces

/-! ## Partitions and interfaces are made (12 R306, R307, R310) -/

theorem partCreate_made {ws ks : List W32} (hlen : ws.length = 12) (hres : descrReserved ws = true) (hok : (descrOf ws).ok u = true)
    (hpwr : u.pwr.state ≠ 4#3) (hfit : (descrOf ws).fitted u = true) (hroom : (descrOf ws).room u = true)
    (hadd : (u.withPart (descrOf ws)).addIface (descrOf ws).num (descrOf ws).firstIf (descrOf ws).host 0 (descrOf ws).slots =
      some (t, ks)) : partCreate ws u = (t, stOK, ks) := by
  unfold State.withPart at hadd
  unfold partCreate
  simp only [hlen, hres, hok, hpwr, hfit, hroom, hadd, ne_eq, not_true_eq_false, Bool.true_eq_false, Bool.not_true, Bool.false_eq_true,
    or_self, if_false]

/-- The host ports of an interface are ports of its partition. -/
theorem ports_allowed {n host fitted : Nat} (hfit : n < fitted)
    (hports : (List.range 4).all (fun k => n / 2 ^ k % 2 == 0 || host / 2 ^ k % 2 == 1) = true) :
    (List.range 4).any (fun k => n % fitted / 2 ^ k % 2 == 1 && host / 2 ^ k % 2 == 0) = false := by
  rw [Nat.mod_eq_of_lt hfit, List.any_eq_false]
  intro k hk hbad
  have hok := List.all_eq_true.mp hports k hk
  simp only [Bool.or_eq_true, Bool.and_eq_true, beq_iff_eq] at hok hbad
  omega

theorem ifCreate_made {ws ks : List W32} {p : Part} (hlen : ws.length = 5) (hp : u.part? (bodyNat ws 1) = some p)
    (hnum : bodyNat ws 0 < 256) (hnew : u.iface? (bodyNat ws 0) = none) (hn : bodyNat ws 2 < 16) (hprio : bodyNat ws 3 ≤ 3)
    (hcap : bodyNat ws 4 ≤ 16384)
    (hports : (List.range 4).all (fun k => bodyNat ws 2 / 2 ^ k % 2 == 0 || p.host / 2 ^ k % 2 == 1) = true)
    (hfit : bodyNat ws 2 < 2 ^ u.fit.hostPorts)
    (hadd : u.addIface p.num (bodyNat ws 0) (bodyNat ws 2) (bodyNat ws 3) (bodyNat ws 4) = some (t, ks)) :
    ifCreate ws u = (t, stOK, ks) := by
  have hbits := ports_allowed hfit hports
  unfold bodyNat at *
  unfold ifCreate
  dsimp only
  rw [hp]
  dsimp only
  rw [if_neg, if_neg (Nat.not_le.mpr hfit), hadd]
  simp only [hlen, hnew, hbits, Option.isSome_none, Bool.false_eq_true, ne_eq, not_true_eq_false, false_or, or_false]
  omega

theorem ifBudget_set {ws : List W32} (hlen : ws.length = 6) (hf : (u.iface? (bodyNat ws 0)).isSome = true) (hmode : bodyNat ws 1 ≤ 1)
    (hdepth : bodyNat ws 3 ≤ 0x7FFFFFFF) (hcap : bodyNat ws 5 ≤ 16384) :
    ifBudget ws u = (u.modIface (bodyNat ws 0) (·.budgeted (ws.getD 1 0#32, ws.getD 2 0#32, ws.getD 3 0#32, ws.getD 4 0#32)
      (bodyNat ws 5)), stOK, []) := by
  have hsome : (u.iface? (bodyNat ws 0)).isNone = false := by simpa using hf
  unfold bodyNat at *
  unfold ifBudget
  dsimp only
  rw [if_neg]
  · rfl
  · simp only [hlen, hsome, Bool.false_eq_true, ne_eq, not_true_eq_false, false_or]
    omega

/-! ## Their ends (12 R309, R312) -/

/-- Nothing of a partition is left. -/
def State.vacated (s : State) (n : Nat) : Prop :=
  n ∉ s.owners.1 ∧ n ∉ s.owners.2.1 ∧ n ∉ s.owners.2.2.1 ∧ n ∉ s.owners.2.2.2

theorem State.vacated_iff {n : Nat} : s.vacated n ↔ s.part? n = none ∧ (∀ a ∈ s.allocs, a.part ≠ n) ∧ (∀ x ∈ s.ctxs, x.part ≠ n) ∧
    ∀ i ∈ s.ifaces, i.part ≠ n := by
  simp [State.vacated, State.owners, State.part?]

theorem State.vacated.answered {n : Nat} (h : t.vacated n) (s : State) (cmd : Nat) (auth : Bool) (r : MgmtReq) (st : Nat)
    (ws : List W32) : (s.answered t cmd auth r st ws).noteSched.vacated n := by
  unfold State.vacated
  rw [State.owners_noteSched, State.owners_answered]
  exact h

theorem removePart_vacated (s : State) (n : Nat) : (removePart s n).vacated n := by
  simp [State.vacated_iff, removePart, State.part?]

/-- The writer's next turn, and the links that train again, leave what the partition's removal left. -/
theorem partDestroy_vacates {ws : List W32} {p : Part} (hlen : ws.length = 1) (hp : u.part? (bodyNat ws 0) = some p) :
    ∃ t, partDestroy ws u = (t, stOK, []) ∧ t.vacated p.num := by
  unfold bodyNat at hp
  unfold partDestroy
  simp only [hp, hlen, ne_eq, not_true_eq_false, if_false]
  refine ⟨_, rfl, ?_⟩
  unfold State.vacated
  rw [State.owners_noteSched, State.owners_drainNext,
    State.owners_ite _ (State.owners_foldl _ (fun s k => s.owners_ite (s.owners_trainLink k)) _), State.owners_touch,
    State.owners_settle]
  exact removePart_vacated _ _

theorem removeIface_gone (s : State) (i : Nat) : (removeIface s i).iface? i = none := by
  simp [removeIface, State.iface?]

theorem ifDestroy_removes {ws : List W32} {f : Iface} {p : Part} (hlen : ws.length = 1) (hf : u.iface? (bodyNat ws 0) = some f)
    (hp : u.part? f.part = some p) (hfree : p.role = roleLearn ∨ p.firstIf ≠ f.num) :
    ∃ t, ifDestroy ws u = (t, stOK, []) ∧ t.iface? f.num = none := by
  have hserving : ¬(ws.length ≠ 1 ∨ (p.role ≠ roleLearn ∧ p.firstIf = f.num)) := by
    rintro (h | ⟨hrole, hfirst⟩)
    · exact h hlen
    · exact hfree.elim hrole fun h => h hfirst
  unfold bodyNat at hf
  unfold ifDestroy
  simp only [hf, hp]
  rw [if_neg hserving]
  exact ⟨_, rfl, removeIface_gone _ _⟩

/-! ## Queue pairs (14 R364, R365) -/

theorem qpCreate_made {ws : List W32} (hlen : ws.length = 3) (hnum : bodyNat ws 2 < 2 ^ 24)
    (hnew : u.qp? (bodyNat ws 1) (bodyNat ws 2) = none) (hport : portUse u (bodyNat ws 0) (bodyNat ws 1) = none)
    (hroom : u.net.qps.countP (·.port == bodyNat ws 1) < 4096) (hmine : u.net.qps.countP (·.iface == bodyNat ws 0) < 256) :
    qpCreate ws u = (u.modNet fun x => { x with qps := x.qps ++ [Qp.new (bodyNat ws 1) (bodyNat ws 2) (bodyNat ws 0)] }, stOK, []) := by
  unfold bodyNat at *
  unfold qpCreate
  dsimp only
  rw [if_neg, hport]
  · dsimp only
    rw [if_neg (by omega)]
  · simp only [hlen, hnew, Option.isSome_none, Bool.false_eq_true, ne_eq, not_true_eq_false, false_or, or_false]
    omega

section
variable {q : Qp} {ws : List W32} (hq : u.qp? (bodyNat ws 0) (bodyNat ws 1) = some q) (hport : bodyNat ws 0 < 4)
  (hnum : bodyNat ws 1 < 2 ^ 24) (hfit : u.portFitted (bodyNat ws 0) = true)
include hq hport hnum hfit

theorem qpConnect_connects (hlen : ws.length = 12) (hremote : bodyNat ws 2 < 2 ^ 24)
    (hmtu : bodyNat ws 7 = 1024 ∨ bodyNat ws 7 = 2048 ∨ bodyNat ws 7 = 4096) (hsend : bodyNat ws 8 < 2 ^ 24)
    (hrecv : bodyNat ws 9 < 2 ^ 24) (htimeout : bodyNat ws 10 < 32) (hretry : bodyNat ws 11 < 8) :
    qpConnect ws u = ((failWork u q).modQp (bodyNat ws 0) (bodyNat ws 1) (·.connected ws), stOK, []) := by
  have hpath : (!(bodyNat ws 7 == 1024 || bodyNat ws 7 == 2048 || bodyNat ws 7 == 4096)) = false := by
    rcases hmtu with h | h | h <;> simp [h]
  unfold bodyNat at *
  unfold qpConnect
  dsimp only
  rw [if_neg, hfit, hq]
  · rfl
  · simp only [hlen, hpath, Bool.false_eq_true, ne_eq, not_true_eq_false, false_or]
    omega

theorem qpDestroy_drops (hlen : ws.length = 2) : qpDestroy ws u = (dropQp u q, stOK, []) := by
  unfold bodyNat at *
  unfold qpDestroy
  dsimp only
  rw [if_neg (by omega), hfit, hq]
  rfl

end

/-! ## The proxy's grant (17 R448) -/

section
variable {ws : List W32} (hlen : ws.length = 3) (hport : portUse u (bodyNat ws 0) (bodyNat ws 1) = none)
include hlen hport

theorem proxyGrant_clears (hvalid : bodyNat ws 2 = 0) : proxyGrant ws u = (u.modMgt (·.granted none 0#32), stOK, []) := by
  unfold proxyGrant
  simp only [hlen, hvalid, hport]
  rfl

theorem proxyGrant_grants (hvalid : bodyNat ws 2 = 1) (hfence : u.partFenced (u.ifacePart (bodyNat ws 0)) = false) :
    proxyGrant ws u = (u.issueKey.2.modMgt (·.granted (some (bodyNat ws 0, bodyNat ws 1)) u.issueKey.1), stOK, []) := by
  unfold proxyGrant
  simp only [hlen, hvalid, hport, hfence]
  rfl

end

/-! ## O52 -/

/-- Settles O52: each admitted request is answered with what its command answers; a partition that is destroyed leaves nothing, and an
interface that is destroyed is gone. -/
theorem tenantRowsComplete : Obligations.TenantRowsComplete := by
  intro s r u t ks p f q hu
  subst hu
  refine ⟨fun h hlen hres hok hpwr hfit hroom hadd => exec_served rfl h (partCreate_made hlen hres hok hpwr hfit hroom hadd),
    fun h hlen hp => ?partDestroy,
    fun h hlen hp hnum hnew hn hprio hcap hports hfit hadd =>
      exec_served rfl h (ifCreate_made hlen hp hnum hnew hn hprio hcap hports hfit hadd),
    fun h hlen hf hp hfree => ?ifDestroy,
    fun h hlen hf hmode hdepth hcap => exec_served rfl h (ifBudget_set hlen hf hmode hdepth hcap),
    fun h hlen hnum hnew hport hroom hmine => exec_served rfl h (qpCreate_made hlen hnum hnew hport hroom hmine),
    fun h hlen hq hport hnum hfit hremote hmtu hsend hrecv htimeout hretry =>
      exec_served rfl h (qpConnect_connects hq hport hnum hfit hlen hremote hmtu hsend hrecv htimeout hretry),
    fun h hlen hq hport hnum hfit => exec_served rfl h (qpDestroy_drops hq hport hnum hfit hlen),
    fun h hlen hvalid hport => exec_served rfl h (proxyGrant_clears hlen hport hvalid),
    fun h hlen hvalid hport hfence => exec_served rfl h (proxyGrant_grants hlen hport hvalid hfence)⟩
  case partDestroy =>
    obtain ⟨t, ht, hgone⟩ := partDestroy_vacates hlen hp
    exact ⟨_, exec_served rfl h ht, State.vacated_iff.mp (hgone.answered ..)⟩
  case ifDestroy =>
    obtain ⟨t, ht, hgone⟩ := ifDestroy_removes hlen hf hp hfree
    exact ⟨_, exec_served rfl h ht, (State.answered_iface? ..).trans hgone⟩

end Sys2Proof.Machine
end

section
/-!
PROOFS. The checkpoint rows (spec 13 R332, R334, R337, R351 to R356, R359): what each opcode's function answers once its checks pass
and its reads are answered, and O12 from these.
-/
namespace Sys2Proof.Machine

variable {s : State} {k : Cmd} {e : Env}

/-! ## CKP_CONFIG (13 R332, R334) -/

theorem runCkpConfig_begins (hc : s.clean) (hstage : k.stage = 0) (hf : fieldsOk (ckpFields k e)) (hserving : e.serving = true)
    (hplan : planOk e (e.entries (k.a 0) 32) = true) (hctxs : s.ctxsOk e.part.num (ckpParams k e).ctxs = true)
    (hports : ∀ x ∈ (ckpParams k e).sets, ∀ d ∈ x.2 :: x.1, d.storage = true → s.portFitted d.port = true)
    (hregions : regionsOk k e (ckpParams k e) = true)
    (hfits : ∀ x ∈ (ckpParams k e).sets, setFits x.1 (ckpParams k e).shards = true) (hdrain : e.part.ckp.drain = none) :
    runCkpConfig s k e = (s.beginReads k.id 1 (configWants (ckpParams k e)), none) := by
  have hpresent : ((ckpParams k e).sets.any fun x => (x.2 :: x.1).any fun d => d.storage && !s.portFitted d.port) = false := by
    refine List.any_eq_false.mpr fun x hx => ne_true_of_eq_false (List.any_eq_false.mpr fun d hd => ?_)
    by_cases hst : d.storage = true
    · simp [hports x hx d hd hst]
    · simp [hst]
  have hroom : ((ckpParams k e).sets.all fun x => setFits x.1 (ckpParams k e).shards) = true := List.all_eq_true.mpr hfits
  unfold runCkpConfig
  dsimp only
  rw [if_pos hstage, checked_pass hf (by simp only [hserving, hplan, hctxs, Bool.and_self]) hc]
  rw [if_neg (ne_true_of_eq_false hpresent), if_neg (by simp [hregions]), if_neg (by simp only [hroom]; decide), if_neg (by simp [hdrain])]

theorem runCkpConfig_ends (hstage : k.stage ≠ 0) (hans : k.answered (configWants (ckpParams k e)) = true)
    (hread : ∀ w ∈ configWants (ckpParams k e), w.tag ∉ k.failedReads) :
    runCkpConfig s k e = (s.useFresh, some (Result.ok (.ckpConfig (newCkp s k (ckpParams k e))))) := by
  have hnone : ((configWants (ckpParams k e)).any fun w => k.failedReads.contains w.tag) = false :=
    List.any_eq_false.mpr fun w hw => by simpa using hread w hw
  unfold runCkpConfig
  dsimp only
  rw [if_neg hstage, if_neg (by simp [hans]), if_neg (ne_true_of_eq_false hnone)]

/-! ## CKP_STEP (13 R337) -/

theorem runCkpStep_ready (hmode : k.n 0 < 2) (hval : k.n 0 = 1 ∨ (1 ≤ k.d 1 ∧ k.d 1 < 2 ^ 32)) (hserving : e.serving = true) :
    runCkpStep s k e = (s, some (Result.ok (.ckpStep (k.n 0 == 0) (BitVec.ofNat 64 (k.d 1))))) := by
  unfold runCkpStep
  exact checked_bare (fieldsOk_pair (by simpa using hmode) (by simpa using hval)) hserving

/-! ## CKP_RESTORE (13 R351 to R356) -/

theorem usedManifests_nil (valid : Bool) (step : W64) : usedManifests valid step [] = [] := by
  cases valid <;> rfl

/-- With STEP_VALID, every used manifest has the step that was asked for. -/
theorem step_of_mem_usedManifests {step : W64} {ms : List Manifest} {m : Manifest} (h : m ∈ usedManifests true step ms) :
    m.step = step := by
  have hcand := (List.mem_filter.mp h).1
  simpa using (List.mem_filter.mp hcand).2

/-- The step of a restore is that of its manifests, which agree on it. -/
theorem restoreStep_eq {b : Prop} [Decidable b] {step : W64} {ms : List Manifest} {m : Manifest}
    (hm : (usedManifests (decide b) step ms).head? = some m) :
    (if b then step else ((usedManifests (decide b) step ms).headD default).step) = m.step := by
  by_cases hb : b
  · rw [if_pos hb]
    rw [decide_eq_true hb] at hm
    exact (step_of_mem_usedManifests (List.mem_of_mem_head? hm)).symm
  · rw [if_neg hb, List.headD_eq_head?_getD, hm, Option.getD_some]

theorem restoreDecide_complete {us : List Manifest} {m : Manifest} (hstage : k.stage = 3)
    (hus : us = usedManifests (k.n 1 = 1) (BitVec.ofNat 64 (k.d 2)) (manifests k (restoreLocs k e).length)) (hm : us.head? = some m)
    (hstep : ∀ x ∈ us, x.step = m.step)
    (hmiss : missingReport us (restoreTargets k e) (restorePairs k e) (fun _ _ => false) s.fresh = [])
    (hans : k.answered (shardWants (restoreLocs k e) (neededShards us (restoreTargets k e) (restorePairs k e))) = true)
    (hread : ∀ x ∈ neededShards us (restoreTargets k e) (restorePairs k e), (shardRead k x.1 x.2.1 x.2.2).isSome = true)
    (hscale : ∀ t ∈ restoreTargets k e, ∀ a, e.alloc? t.handle = some a → restoredScaleOk k us t a = true)
    (hgens : ∀ b ∈ restoredRecords k us (restorePairs k e), genStateOk b = true) :
    restoreDecide s k e = (s, some (restoreResult s k e us m.step)) := by
  have hsome : (manifests k (restoreLocs k e).length).isEmpty = false := by
    cases hms : manifests k (restoreLocs k e).length with
    | nil => rw [hus, hms, usedManifests_nil] at hm; cases hm
    | cons => rfl
  have hstep' := restoreStep_eq (hus ▸ hm)
  have hone : (us.any fun x => x.step != m.step) = false := List.any_eq_false.mpr fun x hx => by simp [hstep x hx]
  have hbad : (fun loc j : Nat => (neededShards us (restoreTargets k e) (restorePairs k e)).any fun x =>
      x.1.loc == loc && x.2.1 == j && (shardRead k x.1 x.2.1 x.2.2).isNone) = fun _ _ => false := by
    funext loc j
    refine List.any_eq_false.mpr fun x hx => ?_
    rw [← Option.not_isSome, hread x hx, Bool.not_true, Bool.and_false]
    exact Bool.false_ne_true
  have hscales : ((restoreTargets k e).all fun t => ((e.alloc? t.handle).map (restoredScaleOk k us t)).getD true) = true := by
    refine List.all_eq_true.mpr fun t ht => ?_
    cases ha : e.alloc? t.handle with
    | none => rfl
    | some a => exact hscale t ht a ha
  have hrecords : (restoredRecords k us (restorePairs k e)).all genStateOk = true := List.all_eq_true.mpr hgens
  unfold restoreDecide
  dsimp only
  rw [← hus] at hstep' ⊢
  rw [hstep', if_neg (ne_true_of_eq_false hsome), if_neg (ne_true_of_eq_false hone), hmiss, if_neg (by decide),
    if_neg (by simp [hstage]), if_neg (by simp [hans]), hbad, hmiss, if_neg (by decide), if_neg (by simp only [hscales, hrecords]; decide)]

theorem runCkpRestore_decides (hstage : k.stage = 3) (hhead : k.answered (headWants (restoreLocs k e)) = true)
    (hlist : k.answered (listWants k (restoreLocs k e)) = true) : runCkpRestore s k e = restoreDecide s k e := by
  unfold runCkpRestore
  dsimp only
  rw [if_neg (by simp [hstage]), if_neg (by simp [hhead]), if_neg (by simp [hstage]), if_neg (by simp [hlist])]

/-! ## CKP_STATUS (13 R359) -/

theorem runCkpStatus_ready (hb : fieldsOk (bufferChecks e (k.off 0) (k.t 0) 80)) : runCkpStatus s k e =
    (s, some { Result.bare stOK with writes := [rawWrite (k.t 0).handle (k.t 0).off (ckpStatus e.part)] }) := by
  unfold runCkpStatus
  exact checked_bare hb rfl

/-! ## O12 -/

/-- Settles O12: each row's function answers its result; only a restore and a status write tensors, in a state with no drain. -/
theorem checkpointRowsComplete : Obligations.CheckpointRowsComplete := by
  intro s id k e hc hd
  refine ⟨?configBegins, ?configEnds, ?step, ?restore, ?status⟩
  case configBegins =>
    rintro q h rfl hstage hf hserving hplan hctxs hports hregions hfits hdrain
    obtain rfl := h.id_eq
    exact exec_goesOn rfl h (runCkpConfig_begins hc hstage hf hserving hplan hctxs hports hregions hfits hdrain)
  case configEnds =>
    rintro q h rfl hstage hans hread
    exact exec_ready_writeless rfl h rfl (runCkpConfig_ends hstage hans hread)
  case step =>
    exact fun h hmode hval hserving => exec_ready_writeless rfl h rfl (runCkpStep_ready hmode hval hserving)
  case restore =>
    intro us m h hstage hhead hlist hus hm hstep hmiss hans hread hscale hgens
    exact exec_ready rfl h hd ((runCkpRestore_decides hstage hhead hlist).trans
      (restoreDecide_complete hstage hus hm hstep hmiss hans hread hscale hgens))
  case status => exact fun h hb => exec_ready rfl h hd (runCkpStatus_ready hb)

end Sys2Proof.Machine
end

section
/-!
PROOFS. The Benzel header (spec 14 Tables 14-3, 14-4): each word is a sum of fields that do not overlap, so a field is read back as
it was put in; O57 from these.
-/
namespace Sys2Proof.Machine

/-- A field of a word given as a number. -/
theorem field_ofNat (n hi lo : Nat) : field (BitVec.ofNat 32 n) hi lo = n % 2 ^ 32 / 2 ^ lo % 2 ^ (hi + 1 - lo) := by
  simp [field]

theorem endOf_word {x : End} (hm : x.module_ < 2 ^ 14) (hp : x.part < 32) (hl : x.link < 32) : endOf x.word = x := by
  obtain ⟨m, p, l⟩ := x
  simp only [endOf, End.word, field_ofNat, End.mk.injEq] at *
  omega

variable {type len flow inc psn off : Nat} {retx last : Bool}

theorem field_headerType (ht : type < 16) : field (BitVec.ofNat 32
    (1 + type * 16 + boolNat retx * 256 + boolNat last * 512 + len * 2 ^ 16)) 7 4 = type := by
  rw [field_ofNat]
  omega

theorem field_headerFlow (hf : flow < 2 ^ 16) : field (BitVec.ofNat 32 (flow + inc % 2 ^ 16 * 2 ^ 16)) 15 0 = flow := by
  rw [field_ofNat]
  omega

theorem field_headerInc (hf : flow < 2 ^ 16) (hi : inc < 2 ^ 16) :
    field (BitVec.ofNat 32 (flow + inc % 2 ^ 16 * 2 ^ 16)) 31 16 = inc := by
  rw [field_ofNat]
  omega

/-- Settles O57: each field lies in a word of its own or apart from the other fields of its word. -/
theorem benzelHeaderIsReadBack : Obligations.BenzelHeaderIsReadBack := by
  rintro type len flow inc psn off crc retx last udp ce src dst arg bs p ht - hf hi hpsn hsm hsp hsl hdm hdp hdl rfl
  exact ⟨field_headerType ht, endOf_word hsm hsp hsl, endOf_word hdm hdp hdl, field_headerFlow hf, field_headerInc hf hi,
    Nat.mod_eq_of_lt hpsn, rfl⟩

end Sys2Proof.Machine
end

section
/-!
PROOFS. The fabric (spec 14 R367, R372 to R376, R378): what a packet that arrives whole does, how a receiving flow counts the packets
that it accepts, when the timers of the transport act; O30, O31 and O32 from these.
-/
namespace Sys2Proof.Machine

variable {s : State} {k : Nat} {p : BzPacket} {l : Link}

/-! ## Packets that arrive whole (R372) -/

@[simp] theorem State.wake_clk (s : State) : s.wake.clk = s.clk := by
  unfold State.wake
  split <;> rfl

/-- A packet of a type that a row takes, heard and not discarded, does what the row says of a right CRC. -/
theorem bzReceive_heard {types : List Nat} {good bad : State → State} (h : Heard s k p l) (ht : types.contains (bzType p) = true) :
    bzReceive s k p types good bad = .next (good (s.heard k)).noteSched := by
  obtain ⟨hup, hk, hlink, hl, hkept, hcrc⟩ := h
  have hheard : s.heard k = s.wake.modLink k fun l => { l with asleep := false, lastFrame := s.clk.localUs } := by
    simp only [State.heard, State.wake_clk]
  unfold bzReceive
  rw [if_neg (by simpa using hk), if_pos hup, hlink]
  dsimp only
  rw [if_neg (by simp [hl]), ← hheard, if_neg (ne_true_of_eq_false hkept), if_neg (by simp only [ht]; decide), if_pos hcrc]

/-! ## O30 -/

/-- Settles O30: each row takes its own type. -/
theorem benzelRowsComplete : Obligations.BenzelRowsComplete := by
  rintro s k p l u h rfl
  have one : ∀ {n : Nat}, bzType p = n → [n].contains (bzType p) = true := fun ht => by simp [ht]
  refine ⟨?ack, ?nak, ?grant, ?request, ?cnp, ?foreignCnp, ?abort⟩
  case ack =>
    intro ht
    rw [exec, execBenzelAckReceive, bzReceive_heard h (one ht)]
  case nak =>
    intro ht
    rw [exec, execBenzelNakReceive, bzReceive_heard h (one ht)]
  case grant =>
    intro ht hg
    rw [exec, execBenzelCreditReceive, bzReceive_heard h (one ht), if_pos hg]
  case request =>
    intro ht hg
    rw [exec, execBenzelCreditReceive, bzReceive_heard h (one ht), if_neg (ne_true_of_eq_false hg)]
  case cnp =>
    intro w ht hme hw
    rw [exec, execBenzelCnpReceive, bzReceive_heard h (one ht), hw, Option.filter_some, if_pos hme]
  case foreignCnp =>
    intro ht hno
    have hnone : ((s.heard k).flow? (ownFlow p)).filter (fun _ => (s.heard k).answersMe p) = none := by
      rcases hno with hme | hw
      · simp [hme]
      · rw [hw, Option.filter_none]
    rw [exec, execBenzelCnpReceive, bzReceive_heard h (one ht), hnone]
  case abort =>
    intro ht
    rw [exec, execBenzelAbortReceive, bzReceive_heard h (one ht)]
    rfl

/-! ## What the receiver's answers leave of its flows (R367, R374, R376) -/

@[simp] theorem State.emitPacket_recvs (s : State) (k : Nat) (hdr : List W32) (bs : List Byte) (flip : W32) :
    (s.emitPacket k hdr bs flip).net.recvs = s.net.recvs := rfl

@[simp] theorem State.serveWant_recvs (s : State) (w : Grant) : (s.serveWant w).net.recvs = s.net.recvs := by
  unfold State.serveWant
  dsimp only
  split <;> rfl

@[simp] theorem State.serveLink_recvs (s : State) (k : Nat) : (s.serveLink k).net.recvs = s.net.recvs := by
  unfold State.serveLink
  induction s.net.wants.filter (·.link == k) generalizing s with
  | nil => rfl
  | cons w ws ih => exact (ih _).trans (s.serveWant_recvs w)

@[simp] theorem State.packetCredits_recvs (s : State) (f : RecvId) (n : Nat) : (s.packetCredits f n).net.recvs = s.net.recvs := by
  unfold State.packetCredits State.takeBack
  split
  · rfl
  · simp

/-- The PSN that a flow's receiver expects next. -/
def State.expects (s : State) (f : RecvId) : Option Nat := (s.recv? f).map (·.expected)

theorem State.expects_congr {t : State} (h : t.net.recvs = s.net.recvs) (f : RecvId) : t.expects f = s.expects f := by
  simp only [State.expects, State.recv?, h]

theorem State.recv?_modRecv (s : State) (f : RecvId) {g : RecvFlow → RecvFlow} (hid : ∀ r, (g r).id = r.id) :
    (s.modRecv f g).recv? f = (s.recv? f).map g :=
  find_modWhere fun r hr => by simpa [hid] using hr

theorem State.expects_modRecv (s : State) (f : RecvId) {g : RecvFlow → RecvFlow} (hid : ∀ r, (g r).id = r.id)
    (hexp : ∀ r, (g r).expected = r.expected) : (s.modRecv f g).expects f = s.expects f := by
  simp only [State.expects, s.recv?_modRecv f hid, Option.map_map, Function.comp_def, hexp]

theorem sendAck_expects (s : State) (f : RecvId) : (sendAck s f).expects f = s.expects f := by
  unfold sendAck
  split
  · rfl
  · dsimp only
    refine (State.expects_congr (by rfl) f).trans ((State.expects_modRecv _ f (fun _ => by rfl) fun _ => by rfl).trans ?_)
    refine State.expects_congr ?_ f
    split
    · split <;> rfl
    · rfl

theorem sendNak_expects (s : State) (f : RecvId) (reason : Nat) : (sendNak s f reason).expects f = s.expects f := by
  unfold sendNak
  split
  · rfl
  · dsimp only
    split
    · rfl
    · exact (State.expects_congr (by rfl) f).trans (State.expects_modRecv _ f (fun _ => by rfl) fun _ => by rfl)

theorem congestion_expects (s : State) (f : RecvId) (ce : Bool) : (congestion s f ce).expects f = s.expects f := by
  unfold congestion
  split
  · rfl
  · split
    · exact (State.expects_congr (by rfl) f).trans (State.expects_modRecv _ f (fun _ => by rfl) fun _ => by rfl)
    · rfl

/-! ## DATA and COLL packets (R373, R374) -/

theorem RecvFlow.deliver_id (r : RecvFlow) (p : BzPacket) : (r.deliver p).id = r.id := by
  unfold RecvFlow.deliver
  dsimp only
  repeat' split
  all_goals rfl

/-- The distance of a packet from the PSN that is expected is zero for that PSN only. -/
theorem psnDistance_eq_zero {a b : Nat} (ha : a < 2 ^ 32) (hb : b < 2 ^ 32) : (a + 2 ^ 32 - b) % 2 ^ 32 = 0 ↔ a = b := by
  omega

/-- A packet of a known incarnation: the PSN that is expected is accepted, and any other leaves what is expected. -/
theorem dataReceive_expects {r : RecvFlow} (hr : s.recv? (bzRecv p) = some r) (hinc : r.incarnation = bzInc p) (hexp : r.expected < 2 ^ 32) :
    (dataReceive s k p).expects (bzRecv p) = some (if bzPsn p = r.expected then (r.expected + 1) % 2 ^ 32 else r.expected) := by
  have hpsn : bzPsn p < 2 ^ 32 := (BzPacket.word p 4).isLt
  unfold dataReceive
  dsimp only
  rw [show ({ srcModule := (bzSrc p).module_, srcPart := (bzSrc p).part, flow := bzFlow p } : RecvId) = bzRecv p from rfl, hr]
  dsimp only
  rw [if_pos hinc]
  generalize ht : s.modRecv (bzRecv p) (fun r => { r with link := k, peer := (bzSrc p).link }) = t
  have htr : t.recv? (bzRecv p) = some { r with link := k, peer := (bzSrc p).link } := by
    rw [← ht, s.recv?_modRecv _ (by exact fun _ => rfl), hr, Option.map_some]
  rw [htr]
  dsimp only
  generalize hu : t.packetCredits (bzRecv p) p.payload.length = u
  have hur : u.recv? (bzRecv p) = some { r with link := k, peer := (bzSrc p).link } := by
    rw [← htr, ← hu]
    simp only [State.recv?, State.packetCredits_recvs]
  simp only [psnDistance_eq_zero hpsn hexp]
  by_cases hnext : bzPsn p = r.expected
  · rw [if_pos hnext, if_pos hnext]
    have hone : (u.modRecv (bzRecv p) fun r => { (r.deliver p) with
        expected := (r.expected + 1) % 2 ^ 32, sinceAck := r.sinceAck + 1, oldest := some (r.oldest.getD u.clk.localUs),
        nak := none }).expects (bzRecv p) = some ((r.expected + 1) % 2 ^ 32) := by
      rw [State.expects, u.recv?_modRecv _ (by exact fun r => r.deliver_id p), hur]
      rfl
    split
    · rw [sendAck_expects, congestion_expects, hone]
    · rw [congestion_expects, hone]
  · rw [if_neg hnext, if_neg hnext]
    have hsame : u.expects (bzRecv p) = some r.expected := by rw [State.expects, hur]; rfl
    split
    · rw [sendAck_expects, hsame]
    · rw [sendNak_expects, hsame]

/-- Hearing a frame and noting waiting times leave the receiving flows. -/
theorem State.heard_recv? (s : State) (k : Nat) (f : RecvId) : (s.heard k).recv? f = s.recv? f := by
  simp [State.recv?, State.heard]

/-- Settles O31: hearing the packet leaves its flow, and the receiver counts it only at its PSN. -/
theorem dataInOrder : Obligations.DataInOrder := by
  intro s k p l r h ht hr hinc hexp
  have htypes : [tyData, tyColl].contains (bzType p) = true := by rcases ht with ht | ht <;> simp [ht]
  have hrow : exec (.benzelDataReceive k p) s = bzReceive s k p [tyData, tyColl] (dataReceive · k p) (dataCorrupt · k p) := rfl
  refine ⟨_, hrow.trans (bzReceive_heard h htypes), ?_⟩
  exact (State.expects_congr (by rfl) _).trans (dataReceive_expects ((s.heard_recv? k _).trans hr) hinc hexp)

/-! ## Timers (R367, R374 to R376) -/

/-- Settles O32: each timer acts under the condition that its row tests. -/
theorem transportTimersComplete : Obligations.TransportTimersComplete := by
  intro s f g w r key t hup
  refine ⟨?ack, ?rto, ?retry, ?credits, ?rate⟩
  case ack =>
    intro hr ho ht
    exact if_pos (by simpa [hup, hr, ho] using ht)
  case rto =>
    intro hw hsent hstuck ht
    refine (if_pos hup).trans ?_
    unfold rtoExpiry
    rw [hw]
    dsimp only
    rw [if_neg (by simp [hsent, hstuck, ht])]
    split <;> rfl
  case retry =>
    intro hw hstuck ht
    refine (if_pos hup).trans ?_
    unfold pathRetry
    rw [hw]
    dsimp only
    rw [hstuck]
    exact congrArg Host.Outcome.next (if_pos ht)
  case credits =>
    intro hw hpos hunsent hstuck ht
    refine (if_pos hup).trans ?_
    unfold creditReturn
    rw [hw]
    dsimp only
    rw [if_pos (by simp [hpos, hunsent, hstuck, ht])]
  case rate => exact if_pos hup

end Sys2Proof.Machine
end

section
/-!
PROOFS. The host ports (spec 14 R363 to R367; 06 R166; 17 R448): what a queue pair answers to a write and a read of each region, what
it does with the answer to its oldest request, and what an error and a timeout do; O35 from these.
-/
namespace Sys2Proof.Machine

variable {s : State} {port n : Nat} {q : Qp} {f : Iface}

/-! ## Writes and reads of a region (R363, R364) -/

theorem roceRead_granted {r : RdmaRead} {x : Region} (hr : s.responder? port r.qpn = some (q, f))
    (hx : s.region? f port r.rkey = some x) (hfit : r.offset + r.len ≤ x.size) : roceRead s port r =
      (((regionRead (noteCongestion s.wake q r.ce) x r.offset r.len).1.received q r.len).noteSend (.qp port r.qpn)).sendRoce q
        (.data (regionRead (noteCongestion s.wake q r.ce) x r.offset r.len).2) := by
  simp only [roceRead, hr, noteCongestion_region?, hx, Option.filter_some, decide_eq_true hfit, if_true]

/-- A host reads the bytes of an allocation whose locations read well. -/
theorem hostRead_well {p off len : Nat} {h : W32} {a : Alloc} (ha : s.contents p h = some a)
    (hwell : unitsHit a a.uncorr off (off + len) = []) : hostRead s p h off len = (s, a.bytes off len) := by
  unfold hostRead
  rw [ha]
  dsimp only
  rw [hwell, List.isEmpty_nil, if_pos rfl]

/-! ## Answers to requests of the module (R364, R367) -/

theorem exec_roceResponseReceive_next (hport : port < 4) (r : RdmaResponse) :
    exec (.roceResponseReceive port n r) s = .next (roceResponse s port n r.data r.ce).noteSched := if_pos (decide_eq_true hport)

section
variable {x : QpReq} {rest : List QpReq} {bs : List Byte} {ce : Bool} (hr : s.responder? port n = some (q, f)) (hw : q.work = x :: rest)
include hr hw

theorem roceResponse_reply {id : CmdId} (hx : x.work = .reply id) : roceResponse s port n bs ce =
    (noteCongestion s.wake q ce).modQp port n fun q => { q with work := rest, retriesLeft := q.retry } := by
  unfold roceResponse
  simp only [hr, hw, hx]

theorem roceResponse_drain {m : Nat} (hx : x.work = .drain m) :
    roceResponse s port n bs ce = drainAckOn (noteCongestion s.wake q ce) m q := by
  unfold roceResponse
  simp only [hr, hw, hx]

theorem roceResponse_read {c : CmdId} {tag : Nat} (hx : x.work = .read c tag) (hlen : bs.length = x.len) : roceResponse s port n bs ce =
    ((noteCongestion s.wake q ce).modQp port n fun q => { q with work := rest, retriesLeft := q.retry }).modCmd c fun k =>
      { k with reads := k.reads.filter (·.1 != tag) ++ [(tag, bs)] } := by
  unfold roceResponse
  simp only [hr, hw, hx, hlen, if_true]

end

/-! ## Errors and timeouts of a queue pair (R365) -/

theorem exec_qpError_live (hport : port < 4) (hq : s.liveQp? port n = some q) :
    exec (.qpError port n) s = .next (qpFails s.wake q).noteSched := by
  change execQpError port n s = _
  unfold execQpError
  rw [if_neg (by simpa using hport), hq]

theorem exec_acknowledgementTimeout_live (hport : port < 4) (hq : s.liveQp? port n = some q) (hw : q.work ≠ []) :
    exec (.acknowledgementTimeout port n) s = .next (if q.retriesLeft = 0 then (qpFails s.wake q).noteSched
      else resendWork (s.wake.modQp port n fun q => { q with retriesLeft := q.retriesLeft - 1 }) q) := by
  change execAcknowledgementTimeout port n s = _
  unfold execAcknowledgementTimeout
  rw [if_neg (by simpa using hport), hq]
  dsimp only
  rw [if_neg (by simpa using hw)]
  split <;> rfl

/-! ## O35 -/

/-- Settles O35: a region that the key grants and that holds the access is written or read, and an answer goes to the oldest
request. -/
theorem hostPortRowsComplete : Obligations.HostPortRowsComplete := by
  intro s port n w r q f p h z hport
  refine ⟨?alloc, ?window, ?mailbox, ?read, ?cnp, ?reply, ?drain, ?answer, ?error, ?timeout⟩
  case alloc | mailbox =>
    intro hr hx hfit
    rw [exec_roceRdmaWrite_next hport, roceWrite_granted hr hx hfit]
    rfl
  case window =>
    intro i hr hx hfit
    rw [exec_roceRdmaWrite_next hport, roceWrite_granted hr hx hfit]
    rfl
  case read =>
    intro a hr hx hfit ha hwell
    have hread : regionRead (noteCongestion s.wake q r.ce) (.alloc p h z) r.offset r.len = _ := hostRead_well ha hwell
    refine (if_pos (decide_eq_true hport)).trans ?_
    rw [roceRead_granted hr hx hfit, hread]
  case cnp =>
    intro hr
    refine (if_neg (by simpa using hport)).trans ?_
    rw [if_pos (by rw [hr]; rfl)]
  case reply =>
    intro id x rest bs ce hr hw hx
    rw [exec_roceResponseReceive_next hport, roceResponse_reply hr hw hx]
  case drain =>
    intro x m bs ce hr hw hx
    obtain ⟨rest, hrest⟩ : ∃ rest, q.work = x :: rest := List.head?_eq_some_iff.mp hw
    rw [exec_roceResponseReceive_next hport, roceResponse_drain hr hrest hx]
  case answer =>
    intro c tag x rest bs ce hr hw hx hlen
    rw [exec_roceResponseReceive_next hport, roceResponse_read hr hw hx hlen]
  case error => exact exec_qpError_live hport
  case timeout => exact exec_acknowledgementTimeout_live hport

end Sys2Proof.Machine
end

section
/-!
PROOFS. The ports (spec 14 R361, R362, R369, R375, R390): how they come up, go down, train again and rest, and how they answer for
their addresses; O36 and O37 from these.
-/
namespace Sys2Proof.Machine

variable {s : State} {k : Nat} {l : Link} {h : HostPort}

/-! ## Ports up and down (R361, R375, R390) -/

/-- A link that trains and may run comes up; off a seed lane nothing is announced. -/
theorem linkUp_comesUp (hl : s.link? k = some l) (htrain : l.training = true) (hon : s.portsOn = true) (hsafe : s.flt.safe = false)
    (hrun : s.linkMayRun k l = true) (hbusy : s.linkBusy k = false) (hseed : l.seed = false) :
    linkUp s k = (s.useFresh.modLink k fun l => l.comeUp s.net (Config.freeBool 1 s.fresh) s.clk.localUs).emit (.resolve k l.nh) := by
  unfold linkUp
  rw [hl]
  dsimp only
  rw [if_pos (by simp [htrain, hon, hsafe, hrun, hbusy]), if_neg (ne_true_of_eq_false hseed)]

theorem portUp_on (hon : s.portsOn = true) (hsafe : s.flt.safe = false) : portUp s k = s.modPort k fun h =>
    if h.training then { h with up := true, training := false, pausedSince := none } else h :=
  if_pos (by simp [hon, hsafe])

theorem exec_linkDown_link (hk : k < 32) (hon : s.portsOn = true) (hl : s.link? k = some l) (hup : l.up = true) :
    exec (.linkDown (.link k)) s = .next ((takeLinkDown s k).trainLink k).noteSched :=
  (if_pos (decide_eq_true hk)).trans (congrArg _ (if_pos (by simp [hon, hl, hup])))

theorem exec_linkDown_host (hk : k < 4) (hon : s.portsOn = true) (hp : s.port? k = some h) (hup : h.up = true) :
    exec (.linkDown (.host k)) s = .next ((takePortDown s k).trainPort k).noteSched :=
  (if_pos (decide_eq_true hk)).trans (congrArg _ (if_pos (by simp [hon, hp, hup])))

/-! ## Training again (R361) -/

/-- The status of a host port says nothing of when its training began. -/
theorem State.portInfo_trainStart (s : State) (k t : Nat) :
    (s.modPort k fun h => { h with trainStart := t }).portInfo k = s.portInfo k := by
  unfold State.portInfo State.portStat
  rw [State.port?_modPort]
  cases s.port? k <;> rfl

/-- A test of a host port that is there. -/
theorem getD_map_eq_true {α : Type} {f : α → Bool} {o : Option α} {a : α} (ho : o = some a) (hf : f a = true) :
    (o.map f).getD false = true := by
  rw [ho]
  exact hf

theorem exec_trainingRestart_host (hk : k < 4) (hon : s.portsOn = true) (hp : s.port? k = some h) (htrain : h.training = true)
    (hlate : h.trainStart + 1000000 ≤ s.clk.localUs) :
    exec (.trainingRestart (.host k)) s = .next ((s.modPort k fun h => { h with trainStart := s.clk.localUs }).detect
      { source := 0x41, inst := k, part := none, info := s.portInfo k, cmd := none }) := by
  have hlate : h.trainStart + oneSecond ≤ s.clk.localUs := by simpa only [oneSecond] using hlate
  rw [← s.portInfo_trainStart k s.clk.localUs]
  exact (if_pos (decide_eq_true hk)).trans (congrArg _ (if_pos (Bool.and_eq_true_iff.mpr ⟨hon, getD_map_eq_true hp
    (Bool.and_eq_true_iff.mpr ⟨htrain, decide_eq_true hlate⟩)⟩)))

/-! ## O36 -/

/-- Settles O36: each row does what it does of a port that is powered, in the state that the row asks for. -/
theorem portRowsComplete : Obligations.PortRowsComplete := by
  intro s k l h hon
  refine ⟨?linkUp, ?portUp, ?linkDown, ?portDown, ?restart, ?rest, ?badFrame, ?foreignFrame⟩
  case linkUp =>
    intro hk hl htrain hsafe hrun hbusy hseed
    exact (if_pos (decide_eq_true hk)).trans (congrArg _ (linkUp_comesUp hl htrain hon hsafe hrun hbusy hseed))
  case portUp => exact fun hk hsafe => (if_pos (decide_eq_true hk)).trans (congrArg _ (portUp_on hon hsafe))
  case linkDown => exact fun hk hl hup => exec_linkDown_link hk hon hl hup
  case portDown => exact fun hk hp hup => exec_linkDown_host hk hon hp hup
  case restart => exact fun hk hp htrain hlate => exec_trainingRestart_host hk hon hp htrain hlate
  case rest => exact fun hk => (if_pos (decide_eq_true hk)).trans (congrArg _ (if_pos hon))
  case badFrame => exact congrArg _ (if_pos hon)
  case foreignFrame => rfl

/-! ## O37 -/

/-- A next hop is asked for again after 30 s. -/
theorem exec_nextHopRefresh_due (hk : k < 32) (hon : s.portsOn = true) (hl : s.link? k = some l) (hup : l.up = true)
    (hsafe : s.flt.safe = false) (hdue : l.resolvedAt + 30000000 ≤ s.clk.localUs) : exec (.nextHopRefresh k) s =
      .next (((s.modLink k fun l => { l with resolvedAt := s.clk.localUs }).frameOut k).emit (.resolve k l.effNh)) := by
  have hdue : l.resolvedAt + 30 * oneSecond ≤ s.clk.localUs := by simpa only [oneSecond] using hdue
  change execNextHopRefresh k s = _
  unfold execNextHopRefresh
  rw [if_pos (decide_eq_true hk), hl]
  dsimp only
  rw [if_pos (by simpa [hon, hup, hsafe] using hdue)]

/-- Settles O37: a request for an address of the port is answered, and a next hop is asked for and kept on a link that is up. -/
theorem addressRowsComplete : Obligations.AddressRowsComplete := by
  intro s port a b n k l mac
  refine ⟨?arp, ?v6, ?v4, ?refresh, ?resolved⟩
  case arp => exact fun ha => if_pos ha
  case v6 => exact fun hb => ⟨if_pos hb, if_pos hb⟩
  case v4 => exact fun hb hsmall => if_pos (by simp only [Bool.false_eq_true, if_false, decide_eq_true hsmall, hb, Bool.and_self])
  case refresh => exact fun hk hon hl hup hsafe hdue => exec_nextHopRefresh_due hk hon hl hup hsafe hdue
  case resolved => exact fun hk hon => (if_pos (decide_eq_true hk)).trans (congrArg _ (if_pos hon))

end Sys2Proof.Machine
end

section
/-!
PROOFS. Priority pause (spec 14 R366): a state in which the watchdog's record differs from the one that O38 gives, and its negation.
-/
namespace Sys2Proof.Machine

/-- A running module whose host port 0 is up, lossless and has been paused since 0, after 100 ms. -/
def pausedTooLong : State :=
  { State.reset with
    phase := .running
    clk := { State.reset.clk with localUs := 100000 }
    net := { Net.initial with ports := [(0, { HostPort.initial with up := true, cfg := 1#32, pausedSince := some 0 })] } }

/-- The last detail word that the record of a source holds after an answer. -/
def lastDetail (a : Answer) (n : Nat) : Option W32 :=
  match a with
  | .next t => some (t.flt.recOf n).last
  | _ => none

/-- The watchdog's record holds the port's status with the pause frames already ignored. -/
theorem pfcWatchdog_detail : lastDetail (exec (.pfcWatchdog 0) pausedTooLong) 0x42 = some 0x50000#32 := by decide +kernel

/-- Refutes O38: the watchdog ignores pause frames before it records, so the INFO of its record holds the port's status with
PFC_IGNORED set, where the statement gives the status from before. The case is a lossless port that has been paused for 100 ms. -/
theorem not_priorityPause : ¬ Obligations.PriorityPause := by
  unfold Obligations.PriorityPause
  intro h
  obtain ⟨-, -, hwatchdog, -⟩ := h pausedTooLong 0 0 _ rfl (by decide) rfl
  have hstated : lastDetail (exec (.pfcWatchdog 0) pausedTooLong) 0x42 = some 0x10000#32 := by
    rw [hwatchdog 0 rfl (by decide)]
    decide +kernel
  rw [pfcWatchdog_detail] at hstated
  exact absurd hstated (by decide)

end Sys2Proof.Machine
end

section
/-!
PROOFS. The collector (spec 15 R393 to R396, R398, R400, R402): what a self-fault leaves and which partitions a detection fences; O39
and O41 from these.
-/
namespace Sys2Proof.Machine

variable {s : State} {d : Detection} {n : Nat} {v : W32}

/-! ## The safe state leaves the injection as it was (R398, R402) -/

/-- A record changes the records and which source is the last. -/
theorem State.record_flt (s : State) (d : Detection) : ∃ rs src, (s.record d).flt = { s.flt with recs := rs, lastSrc := src } := by
  have hview : (s.viewCounts d).flt = s.flt := by
    unfold State.viewCounts
    split <;> rfl
  unfold State.record
  dsimp only
  split
  · exact ⟨_, _, hview⟩
  · split <;> exact ⟨_, _, congrArg (fun f : Flt => f.note _ _ _ _) hview⟩

theorem State.record_armed (s : State) (d : Detection) : (s.record d).flt.armed = s.flt.armed := by
  obtain ⟨rs, src, h⟩ := s.record_flt d
  rw [h]

theorem State.record_safe (s : State) (d : Detection) : (s.record d).flt.safe = s.flt.safe := by
  obtain ⟨rs, src, h⟩ := s.record_flt d
  rw [h]

theorem State.failDrain_armed (s : State) (p code : Nat) : (s.failDrain p code).flt.armed = s.flt.armed := by
  have hcharge : (s.chargeDrain p).flt = s.flt := by
    unfold State.chargeDrain
    split <;> rfl
  unfold State.failDrain
  split
  · rfl
  · exact (State.record_armed _ _).trans (congrArg Flt.armed hcharge)

theorem State.failDrains_armed (s : State) (code : Nat) (l : List Nat) : (s.failDrains code l).flt.armed = s.flt.armed := by
  induction l generalizing s with
  | nil => rfl
  | cons p r ih => exact (ih _).trans (s.failDrain_armed p code)

/-! ## The self-fault (R400) -/

theorem selfFault_safe (s : State) : (selfFault s).flt.safe = true ∧ (selfFault s).flt.self = true ∧ (selfFault s).flt.lastResort = true :=
  ⟨rfl, rfl, rfl⟩

theorem selfFault_armed (s : State) : (selfFault s).flt.armed = s.flt.armed := s.failDrains_armed _ _

theorem selfFault_phase (s : State) : (selfFault s).phase = s.phase := (Calm.enterSafe s).phase

/-- Milpeost's own record drives FAULT_N low. -/
theorem State.faultN_of_lastResort (hup : s.collectorUp = true) (hrec : s.flt.lastResort = true) : s.faultN = true := by
  unfold State.collectorUp at hup
  simp only [State.faultN, hup, hrec, Bool.or_true, Bool.true_or, Bool.and_self]

theorem exec_collectorSelfFault_up (hup : s.collectorUp = true) :
    exec .collectorSelfFault s = .next (selfFault s).noteSched := if_pos hup

/-! ## Rows of the collector (R393, R395, R402) -/

theorem exec_faultDetect_up (hup : s.collectorUp = true) (hd : d.source < 0x60) :
    exec (.faultDetect d) s = .next (faultDetect s d).noteSched :=
  (if_neg (by simpa using hd)).trans (if_pos hup)

theorem faultDetect_recorded (hself : d.source ≠ 0x58) (htable : d.source ≠ 0x05) :
    faultDetect s d = (afterDetection (s.detect (s.asRecorded d)) d).drainNext := by
  unfold faultDetect
  rw [if_neg hself, if_neg htable]

theorem exec_recordClear_on (hn : n < 0x60) (hon : s.mgmtOn = true) : exec (.recordClear n v) s = .next (recordClear s n v) :=
  (if_neg (by simpa using hn)).trans (if_pos hon)

theorem exec_severityWrite_on (hn : n < 0x60) (hon : s.mgmtOn = true) : exec (.severityWrite n v) s = .next (severityWrite s n v) :=
  (if_neg (by simpa using hn)).trans (if_pos hon)

theorem exec_injectionArm_on (hon : s.mgmtOn = true) : exec (.injectionArm v) s = .next (injectionArm s v) := if_pos hon

/-- A mask on the collector's own registers, armed with a count. -/
theorem injectionArm_self (hsel : field s.flt.injSel 3 0 = 7) (hmask : s.flt.injMask ≠ 0#32) (hcount : 0 < field v 15 0) :
    injectionArm s v = selfFault (s.modFlt fun f => { f with injCount := field v 15 0, armed := decide (0 < field v 15 0) }) :=
  if_pos (by simpa [State.modFlt, hsel, hmask] using hcount)

theorem injectionArm_other (h : field s.flt.injSel 3 0 ≠ 7 ∨ s.flt.injMask = 0#32) :
    injectionArm s v = s.modFlt fun f => { f with injCount := field v 15 0, armed := decide (0 < field v 15 0) } := by
  refine if_neg ?_
  rcases h with hsel | hmask
  · simp [State.modFlt, hsel]
  · simp [State.modFlt, hmask]

/-! ## O39 -/

/-- Settles O39: each row does what it does while its unit works; the self-fault's record is Milpeost's own. -/
theorem faultRowsComplete : Obligations.FaultRowsComplete := by
  intro s d n v hup
  refine ⟨?detect, ?self, ?clear, ?set, ?kept, ?arms, ?armsSelf, ?noUnit⟩
  case detect =>
    intro hd hself htable
    rw [exec_faultDetect_up hup hd, faultDetect_recorded hself htable]
  case self =>
    obtain ⟨hsafe, hself, hrec⟩ := selfFault_safe s
    have hwork : (selfFault s).collectorUp = true := by rw [State.collectorUp, selfFault_phase]; exact hup
    exact ⟨_, exec_collectorSelfFault_up hup, hsafe, hself, hrec, State.faultN_of_lastResort (s := selfFault s) hwork hrec⟩
  case clear =>
    intro hn hon hsafe hscope hv
    rw [exec_recordClear_on hn hon, recordClear, if_pos (by simp [hv, hsafe, hscope])]
  case set =>
    intro hn hon hscope hlock hv
    rw [exec_severityWrite_on hn hon, severityWrite, if_pos (by simp [hscope, hlock, hv])]
  case kept =>
    intro hn hon hno
    rw [exec_severityWrite_on hn hon, severityWrite, if_neg]
    rcases hno with hlock | hv | hscope
    · simp [hlock]
    · simp [Nat.not_le.mpr hv]
    · simp [hscope]
  case arms =>
    intro hon hother
    rw [exec_injectionArm_on hon, injectionArm_other hother]
  case armsSelf =>
    intro hon hsel hmask hcount
    refine ⟨_, exec_injectionArm_on hon, ?_⟩
    rw [injectionArm_self hsel hmask hcount]
    exact ⟨rfl, (selfFault_armed _).trans (decide_eq_true hcount)⟩
  case noUnit =>
    intro hn
    have hbad : (!decide (n < 0x60)) = true := by simpa using hn
    exact ⟨if_pos hbad, if_pos hbad⟩

/-! ## Fences (R393, R394, R396) -/

/-- A partition is there. -/
def State.hasPart (s : State) (n : Nat) : Prop := n ∈ s.parts.map (·.num)

theorem State.hasPart_iff : s.hasPart n ↔ (s.part? n).isSome = true := by
  simp [State.hasPart, State.part?]

theorem Calm.hasPart {t : State} (h : Calm s t) (hn : s.hasPart n) : t.hasPart n := by
  unfold State.hasPart
  rw [h.nums]
  exact hn

/-- A partition that is fenced is there. -/
theorem State.fenced_of_partFenced (h : s.partFenced n = true) : (s.part? n).map (·.fenced) = some true := by
  unfold State.partFenced at h
  cases hp : s.part? n with
  | none => rw [hp] at h; cases h
  | some p => rw [hp] at h; exact congrArg some h

/-- A fence of a partition that is there fences it, and nothing in the rest of the fence undoes that. -/
theorem State.fence_fences (hn : s.hasPart n) : (s.fence n).partFenced n = true := by
  obtain ⟨q, hq⟩ := Option.isSome_iff_exists.mp (State.hasPart_iff.mp hn)
  unfold State.fence
  rw [hq]
  dsimp only
  by_cases hf : q.fenced = true
  · rw [if_pos hf, State.partFenced, hq, Option.map_some, Option.getD_some, hf]
  · rw [if_neg hf]
    have hset : (s.modPart n fun q => { q with fenced := true }).partFenced n = true := by
      rw [State.partFenced, State.part?_modPart _ _ fun _ => by rfl, hq]
      rfl
    refine Calm.fenced ?_ n hset
    refine .trans ?_ (.endProxy _ _)
    refine .trans ?_ (.setIfaces _ _)
    refine .trans ?_ (.useFresh _)
    refine .trans ?_ (.failDrain _ _ _)
    refine .trans ?_ (.modLinks _ (fun e => by split <;> rfl) fun e => by split <;> exact ⟨rfl, rfl⟩)
    exact .killAll _ _

theorem State.fenceAll_fences (l : List Nat) (s : State) (hl : n ∈ l) (hn : s.hasPart n) : (s.fenceAll l).partFenced n = true := by
  induction l generalizing s with
  | nil => cases hl
  | cons p r ih =>
    rcases List.mem_cons.mp hl with rfl | hr
    · exact (Calm.fenceAll r _).fenced n (State.fence_fences hn)
    · exact ih (s.fence p) hr ((Calm.fence s p).hasPart hn)

/-- At CONTAIN, what a detection does after its fences undoes none of them. -/
theorem Calm.detect_contain (hsafe : s.flt.safe = false) (hscope : (sourceScope d.source).isSome = true)
    (hc : sourceScope d.source ≠ some .c) (hsev : s.severity d.source = sevContain) :
    Calm ((s.record d).fenceAll (s.affected d)) (s.detect d) := by
  have hrec : (s.record d).flt.safe = false := (s.record_safe d).trans hsafe
  unfold State.detect
  dsimp only
  rw [if_neg (by simpa using Option.isSome_iff_ne_none.mp hscope), hsev, if_neg (by decide), if_neg (ne_true_of_eq_false hrec),
    if_pos (And.intro rfl hc : sevContain = sevContain ∧ sourceScope d.source ≠ some .c)]
  generalize (s.record d).fenceAll (s.affected d) = u
  split
  · split
    · split
      · split
        · exact .refl u
        · exact .trans (.endWith u _ _) (.cascade _ _)
      · exact .refl u
    · exact .refl u
  · exact .refl u

/-- Settles O41: each affected partition that is there is fenced, and a detection keeps the partitions. -/
theorem containFences : Obligations.ContainFences := by
  intro s d hsafe hscope hc hsev
  refine ⟨fun n hn hp => ?_, (Calm.detect s d).nums⟩
  have hthere : (s.record d).hasPart n := (Calm.record s d).hasPart (State.hasPart_iff.mpr hp)
  exact State.fenced_of_partFenced
    ((Calm.detect_contain hsafe hscope hc hsev).fenced n (State.fenceAll_fences _ _ hn hthere))

end Sys2Proof.Machine
end

section
/-!
PROOFS. Tokens (spec 15 R407 to R410): what a granted request conflicts with; O42 and O43 from these.
-/
namespace Sys2Proof.Machine

/-- Settles O42: each row does what it does while the engines have their clocks. -/
theorem tokenRowsComplete : Obligations.TokenRowsComplete := by
  intro s cls t hcls hawake
  refine ⟨?grant, ?yield⟩
  case grant =>
    intro hnext
    rw [exec, execTokenGrant, if_neg (by simpa using hcls), if_neg (by simp [hawake]), hnext]
  case yield =>
    intro hheld hwaits
    exact (if_neg (by simpa using hcls)).trans (if_pos (by simp [hawake, hheld, hwaits]))

/-- The request that is granted is one of those that wait, of the class, and grantable. -/
theorem nextGrant_some {m : Maint} {cls : Nat} {before waiting : List Token} {t : Token} (h : nextGrant m cls before waiting = some t) :
    t ∈ waiting ∧ t.cls = cls ∧ m.grantable t = true := by
  induction waiting generalizing before with
  | nil => cases h
  | cons u r ih =>
    rw [nextGrant] at h
    split at h
    · next hu =>
      obtain rfl := Option.some.inj h
      simp only [Bool.and_eq_true, beq_iff_eq] at hu
      obtain ⟨⟨hcls, hgrant⟩, -⟩ := hu
      exact ⟨List.mem_cons_self, hcls, hgrant⟩
    · obtain ⟨hmem, hcls, hgrant⟩ := ih h
      exact ⟨List.mem_cons_of_mem _ hmem, hcls, hgrant⟩

/-- Settles O43: a grantable request clashes with no token that is held. -/
theorem grantsKeepTokensApart : Obligations.GrantsKeepTokensApart := by
  intro s cls t happart hnext
  obtain ⟨hmem, hcls, hgrant⟩ := nextGrant_some hnext
  have hfree : ∀ x ∈ s.maint.held, clash x t = false := by simpa [Maint.grantable] using hgrant
  exact ⟨hmem, hcls, List.pairwise_append.mpr
    ⟨happart, List.pairwise_singleton _ _, fun x hx y hy => List.mem_singleton.mp hy ▸ hfree x hx⟩⟩

end Sys2Proof.Machine
end

section
/-!
PROOFS. The safe state (spec 15 R397, R398): a state in which a detection works on a drain that is left, and the negation of O59.
-/
namespace Sys2Proof.Machine

/-- An allocation of partition 0 with a location that can be corrected. -/
def correctable : Alloc := { (default : Alloc) with part := 0, handle := 7#32, size := 64, home := .tile, corr := [0] }

/-- A drain that has its token and reads that allocation's page next. -/
def readingDrain : Drain := { (default : Drain) with stage := 3, pages := [(7#32, 0)] }

/-- A module in the safe state whose partition drains, with a detection of source 0x5F at the front of its queue. -/
def drainingInSafe : State :=
  { State.reset with
    phase := .running
    flt := { Flt.initial with safe := true }
    parts := [{ (default : Part) with num := 0, ckp := { (default : Ckp) with drain := some readingDrain } }]
    allocs := [correctable]
    shared := { State.reset.shared with drains := [0] }
    pending := [.faultDetect { source := 0x5F, inst := 0, part := none, info := 0, cmd := none }] }

/-- The corrected errors that a step leaves in each allocation. -/
def stepCorrs (s : State) : Option (List (List Nat)) :=
  match step s with
  | .next t => some (t.allocs.map (·.corr))
  | _ => none

/-- After the detection the checkpoint writer takes up its queue: it reads the page, and the read writes the location back. -/
theorem drainingInSafe_writesBack : stepCorrs drainingInSafe = some [[]] := by decide +kernel

/-- Refutes O59: its premises do not say that no partition drains, as `State.enterSafe` leaves it; where a drain is left in the safe
state, a detection takes the checkpoint writer's queue on, and the page that the writer reads is written back corrected. -/
theorem not_safeStateStays : ¬ Obligations.SafeStateStays := by
  unfold Obligations.SafeStateStays
  intro h
  obtain ⟨t, ht⟩ : ∃ t, step drainingInSafe = .next t := ⟨_, rfl⟩
  have hkept := (h drainingInSafe t _ [] rfl rfl rfl ht).2 rfl
  have hback := drainingInSafe_writesBack
  simp only [stepCorrs, ht, hkept] at hback
  exact absurd hback (by decide)

end Sys2Proof.Machine
end

section
/-!
PROOFS. The measured power and the pins (spec 16 R416, R418, R420, R425, R429; 18 R458, R464 to R469): what a window does to the
allowance and to the fraction of the peak loop, and what each event on the pins does; O48 and O49 from these.
-/
namespace Sys2Proof.Machine

/-! ## Windows (16 R418, R420) -/

/-- The peak loop moves its fraction by at most one step, between 1/16 and 16/16; that 1/16 is its floor is the model's deduction
(log 18). -/
theorem Pwr.peakLoop_gov {p : Pwr} (hlow : 1 ≤ p.gov) (hhigh : p.gov ≤ 16) (mw : Nat) :
    1 ≤ (p.peakLoop mw).gov ∧ (p.peakLoop mw).gov ≤ 16 := by
  unfold Pwr.peakLoop
  dsimp only
  generalize hg : (if p.exceeded = true then _ else p.gov) = g
  have hlowered : 1 ≤ g ∧ g ≤ 16 := by
    rw [← hg]
    split
    · split <;> omega
    · exact ⟨hlow, hhigh⟩
  generalize (if mw ≤ _ then p.below + 1 else 0) = b
  split <;> omega

/-- The power registers after a window: the allowance of the window, and a fraction that stays between 1/16 and 16/16, with a cap
or without one. -/
def PowerMoved (p : Pwr) (mw : Nat) (q : Pwr) : Prop := q.allow = p.windowAllow mw ∧ 1 ≤ q.gov ∧ q.gov ≤ 16

/-- What the governor takes under the cap is one of 1/16 to 16/16. -/
theorem gov_capped {g : Nat} (hg : 1 ≤ g ∧ g ≤ 16) (b : Bool) (x : Nat) :
    1 ≤ (if b = true then min g (1 + x % 16) else g) ∧ (if b = true then min g (1 + x % 16) else g) ≤ 16 := by
  split
  · omega
  · exact hg

/-- The record of a cap leaves the allowance and the fraction. -/
theorem powerWindow_moved (s : State) (n : Nat) (hlow : 1 ≤ s.pwr.gov) (hhigh : s.pwr.gov ≤ 16) :
    PowerMoved s.pwr (gainBy s.pwr 0x20 n) (powerWindow s n).noteSched.pwr := by
  unfold powerWindow
  dsimp only
  generalize hu : s.useFresh.modPwr _ = u
  have hmoved : PowerMoved s.pwr (gainBy s.pwr 0x20 n) u.pwr := by
    rw [← hu]
    exact ⟨rfl, gov_capped (Pwr.peakLoop_gov hlow hhigh _) _ _⟩
  have hcalm := (Calm.detect_ite u ((u.pwr.cap && !s.pwr.cap) = true) (unitFault 0x54 0 none)).trans (.noteSched _)
  exact ⟨(hcalm.pwr_eq (·.allow) fun _ _ _ => rfl).trans hmoved.1, hcalm.pwr_eq (·.gov) (fun _ _ _ => rfl) ▸ hmoved.2⟩

/-- Settles O48: what a window does is done before its record, which leaves the allowance and the fraction. -/
theorem windowMovesTheAllowance : Obligations.WindowMovesTheAllowance := by
  intro s n hrun hlow hhigh
  exact ⟨_, execPowerWindow_running hrun n, powerWindow_moved s n hlow hhigh⟩

/-! ## Pins (18 R464 to R469) -/

theorem tryBoot_ready {s : State} (hphase : s.phase = .inReset) (hrails : s.pins.pwrGood = true) (hreset : s.pins.resetN = true)
    (hrefs : s.pins.refsOk = true) : tryBoot s = boot s :=
  if_pos ⟨hphase, hrails, hreset, hrefs⟩

theorem execInputApplied_off {s : State} {n : Nat} (hoff : s.phase = .off) (hlow : 40000 ≤ n) (hhigh : n ≤ 60000) :
    execInputApplied n s = .next { s with
      pins := { s.pins with vin := n }, phase := .dormant, pwr := { s.pwr with state := 5#3 } } := by
  simp [execInputApplied, hoff, hlow, hhigh, State.modPins]

theorem execInputApplied_under {s : State} {n : Nat} (hon : s.phase ≠ .off) (hlow : n < 36000) :
    execInputApplied n s = .next (loseInput s n) := by
  simp [execInputApplied, hon, hlow]

theorem execInputLoss_on {s : State} (hon : s.phase ≠ .off) : execInputLoss s = .next (loseInput s 0) :=
  if_neg (by simpa using hon)

theorem execPwrEnAssert_firstTime {s : State} (hphase : s.phase = .dormant) (hboot : s.pins.booted = false) :
    execPwrEnAssert s = .next (rampRails (s.modPins fun p => { p with pwrEn := true })) := by
  simp [execPwrEnAssert, State.modPins, hphase, hboot]

theorem execPwrEnDeassert_running {s : State} (hrun : s.phase = .running) :
    execPwrEnDeassert s = .next (enterDormant (s.modPins fun p => { p with pwrEn := false }) true) := by
  simp [execPwrEnDeassert, State.modPins, hrun]

/-- A pulse of 10 µs or more ends the session and holds the module in reset. -/
theorem execResetAssert_long {s : State} {n : Nat} (hlong : 100 ≤ n) (hrun : s.phase = .running) :
    execResetAssert n s = .next { s.endSession with
      phase := .inReset, pins := { s.pins with resetN := false, booted := false, i3c := none } } := by
  unfold execResetAssert
  rw [if_neg (by omega), if_neg (by omega)]
  dsimp only
  generalize hpins : s.modPins _ = t
  have hphase : t.phase = .running := by rw [← hpins]; exact hrun
  simp only [hphase]
  rw [← hpins]
  rfl

theorem execThermtrip_running {s : State} (hrun : s.phase = .running) :
    execThermtrip s = .next { s.endSession with
      phase := .tripped, pins := { s.pins with pwrGood := false, thermtrip := true, booted := false, i3c := none } } := by
  simp only [execThermtrip, hrun]

theorem execResetRelease_boots {s : State} (hphase : s.phase = .inReset) (hrails : s.pins.pwrGood = true)
    (hrefs : s.pins.refsOk = true) : execResetRelease s = .next (boot (s.modPins fun p => { p with resetN := true })) :=
  (if_neg (by simp [hphase])).trans (congrArg _ (tryBoot_ready hphase hrails rfl hrefs))

theorem execReferenceInTolerance_boots {s : State} (hphase : s.phase = .inReset) (hrails : s.pins.pwrGood = true)
    (hreset : s.pins.resetN = true) :
    execReferenceInTolerance s = .next (boot (s.modPins fun p => { p with refsOk := true })) :=
  congrArg Host.Outcome.next (tryBoot_ready hphase hrails hreset rfl)

theorem execEntdaa_running {s : State} (hrun : s.phase = .running) (a : BitVec 7) :
    execEntdaa a s = .next { s with pins := { s.pins with i3c := some a } } := by
  simp only [execEntdaa, hrun, State.modPins]

/-- Settles O49: each event meets the phase that its row asks for. -/
theorem pinRowsComplete : Obligations.PinRowsComplete := by
  intro s n v a
  refine ⟨?standby, ?undervoltage, ?loss, ?powerUp, ?powerDown, ?reset, ?glitch, ?release, ?references, ?trip, ?deviation, ?address⟩
  case standby => exact execInputApplied_off
  case undervoltage => exact execInputApplied_under
  case loss => exact execInputLoss_on
  case powerUp => exact execPwrEnAssert_firstTime
  case powerDown => exact execPwrEnDeassert_running
  case reset => exact execResetAssert_long
  case glitch => exact fun hshort => if_pos hshort
  case release => exact execResetRelease_boots
  case references => exact execReferenceInTolerance_boots
  case trip => exact execThermtrip_running
  case deviation => exact fun hrun => if_pos (by simp [hrun])
  case address => exact fun hrun => execEntdaa_running hrun a

end Sys2Proof.Machine
end

section
/-!
PROOFS. What reset leaves, and a step of the machine (spec 15 Tables 15-1, 15-10; 16 Table 16-5; 14 Table 14-9; 18 R465): the front of
the queue, the collector and the ports as the initial state lists them; O13 and O14 from these.
-/
namespace Sys2Proof.Machine

/-! ## O13 -/

theorem step_cons (s : State) (c : Instr) (r : List Instr) : step { s with pending := c :: r } = exec c { s with pending := r } := rfl

theorem step_nil {s : State} (h : s.pending = []) : step s = .next (tick s) := by
  unfold step
  rw [h]

/-- Settles O13. -/
theorem stepRunsTheFront : Obligations.StepRunsTheFront := ⟨step_cons, fun _ => step_nil⟩

/-! ## O14 -/

/-- A list that gives one value to each number below `m` gives it to `k`. -/
theorem find?_range_const {α : Type} {m k : Nat} (hk : k < m) (a : α) :
    ((List.range m).map fun j => (j, a)).find? (·.1 == k) = some (k, a) := by
  rw [List.find?_map]
  have hfound : (List.range m).find? ((fun e : Nat × α => e.1 == k) ∘ fun j => (j, a)) = some k := by
    simp only [Function.comp_def, List.find?_range_eq_some, beq_self_eq_true, List.mem_range, true_and, hk]
    intro j hj
    simpa using Nat.ne_of_lt hj
  rw [hfound]
  rfl

theorem severity_reset {n : Nat} (hn : n < 96) : State.reset.severity n = sourceDefault n := by
  change ((List.range 96).map sourceDefault).getD n 0 = _
  rw [List.getD_eq_getElem?_getD, List.getElem?_map, List.getElem?_range hn]
  rfl

theorem link?_reset {k : Nat} (hk : k < 32) : State.reset.link? k = some Link.initial :=
  congrArg (·.map (·.2)) (find?_range_const hk Link.initial)

theorem ports_reset {p : Nat} (hp : p < 4) : State.reset.net.ports.find? (·.1 == p) = some (p, HostPort.initial) :=
  find?_range_const hp HostPort.initial

/-- Settles O14: the state after reset lists each value. -/
theorem resetState : Obligations.ResetState := by
  refine ⟨rfl, rfl, rfl, rfl, rfl, rfl, fun n hn => severity_reset hn, rfl, rfl, rfl, rfl, rfl, rfl, rfl, fun k hk => ?links,
    fun p hp => ?ports, rfl, rfl⟩
  case links =>
    rw [link?_reset hk]
    rfl
  case ports =>
    rw [ports_reset hp]
    rfl

end Sys2Proof.Machine
end

section
/-!
PROOFS. Management requests about the module (spec 15 R404, R405, R409; 16 R415, R416, R433; 17 R445 to R453; 18 R467): what each
command answers on the state its request is noted in once its rules hold, and what becomes of a request that is not accepted; O51,
O53 and O54 from these.
-/
namespace Sys2Proof.Machine

variable {s u : State} {r : MgmtReq} {ws : List W32}

/-- A row that serves a request completes with OK, whether or not the request needs authentication. -/
theorem exec_served_auth {i : Instr} {cmd : Nat} {auth : Bool} {f : State → Served} {t : State} {body : List W32}
    (hi : exec i s = .next (serve cmd auth r s f)) (h : Admitted s cmd auth r) (hf : f (s.noted auth r) = (t, stOK, body)) :
    exec i s = s.doneOk t cmd auth r body := by
  rw [hi, serve_admitted h hf]
  rfl

/-! ## Queries (17 R447, R450, R453) -/

theorem bulkRead_answers {o : Nat × List Byte} (hlen : ws.length = 2)
    (ho : u.mgt.produced.find? (·.1 == bulkObject ws) = some o) :
    bulkRead ws u = (u, stOK, bytesWords 256 (o.2.drop (bodyNat ws 1))) := by
  unfold bulkRead
  rw [ho]
  exact if_pos hlen

theorem regRead_management (hlen : ws.length = 3) (hspace : bodyNat ws 0 = mgmtSpace)
    (hrange : rangeOk mgmtWide (bodyNat ws 1) (bodyNat ws 2) = true) (hend : bodyNat ws 1 + 4 * bodyNat ws 2 ≤ 2 ^ 32) :
    regRead ws u = (((List.range (bodyNat ws 2)).map fun i => bodyNat ws 1 + 4 * i).foldl mgmtAfterRead u, stOK,
      ((List.range (bodyNat ws 2)).map fun i => bodyNat ws 1 + 4 * i).map u.mgmtWord) := by
  unfold regRead
  dsimp only
  rw [if_neg (not_not_intro hlen), if_pos hspace, if_pos (Bool.and_eq_true_iff.mpr ⟨hrange, decide_eq_true hend⟩)]

theorem regRead_window {f : Iface} (hlen : ws.length = 3) (hspace : bodyNat ws 0 ≠ mgmtSpace) (hf : u.iface? (bodyNat ws 0) = some f)
    (hrange : rangeOk windowWide (bodyNat ws 1) (bodyNat ws 2) = true) (hend : bodyNat ws 1 + 4 * bodyNat ws 2 ≤ 0x10000) :
    regRead ws u = (u.modIface f.num fun f => ((List.range (bodyNat ws 2)).map fun i => bodyNat ws 1 + 4 * i).foldl Iface.afterRead f,
      stOK, ((List.range (bodyNat ws 2)).map fun i => bodyNat ws 1 + 4 * i).map (u.windowWord f)) := by
  unfold regRead
  dsimp only
  rw [if_neg (not_not_intro hlen), if_neg hspace, hf]
  dsimp only
  rw [if_pos (Bool.and_eq_true_iff.mpr ⟨hrange, decide_eq_true hend⟩)]

/-- Settles O51: each query answers on the state in which its request is noted. -/
theorem mgmtQueriesAnswer : Obligations.MgmtQueriesAnswer := by
  intro s r u o f
  refine ⟨?status, ?bulk, ?ident, ?evidence, ?log, ?telem, ?management, ?window⟩
  case status => exact fun h hbody hu => exec_served_auth rfl h (hu ▸ if_pos (List.isEmpty_iff.mpr hbody))
  case bulk => exact fun h hlen hu ho => exec_served_auth rfl h (hu ▸ bulkRead_answers hlen ho)
  case ident => exact fun h hbody hu => exec_served_auth rfl h (hu ▸ if_pos (List.isEmpty_iff.mpr hbody))
  case evidence => exact fun h hlen hu => exec_served_auth rfl h (hu ▸ if_pos hlen)
  case log => exact fun h hbody hu => exec_served rfl h (hu ▸ if_pos (List.isEmpty_iff.mpr hbody))
  case telem => exact fun h hbody hu => exec_served rfl h (hu ▸ if_pos (List.isEmpty_iff.mpr hbody))
  case management => exact fun h hlen hspace hu hrange hend => exec_served rfl h (hu ▸ regRead_management hlen hspace hrange hend)
  case window =>
    exact fun h hlen hspace hu hf hrange hend => exec_served rfl h (hu ▸ regRead_window hlen hspace hf hrange hend)


/-! ## Registers, power and calibration (16 R415, R433; 17 R453) -/

theorem regWrite_writes (hrange : rangeOk mgmtWide (bodyNat ws 0) (ws.length - 1) = true)
    (hend : bodyNat ws 0 + 4 * (ws.length - 1) ≤ 2 ^ 32) :
    regWrite ws u = (writeWords u (bodyNat ws 0) (ws.drop 1), stOK, []) :=
  if_pos (Bool.and_eq_true_iff.mpr ⟨hrange, decide_eq_true hend⟩)

theorem requestReady_running (hrun : u.phase = .running) :
    requestReady u = (if u.pwr.state.toNat ≤ 2 then u else exitLow u, stOK, []) := by
  unfold requestReady
  rw [if_neg (by simp [hrun]), if_neg (not_not_intro hrun)]
  split <;> rfl

/-- A low state that is not refused and not the module's own is entered; Dormant by its own way. -/
theorem requestLow_entered {refused : Bool} {code : BitVec 3} (hrun : u.phase = .running) (hstate : u.pwr.state ≠ code)
    (hrefused : refused = false) :
    requestLow u refused code = (if code = 5#3 then enterDormant u false else enterLow u code, stOK, []) := by
  unfold requestLow
  rw [if_neg hstate, if_neg (by simp [hrefused, hrun])]
  split <;> rfl

theorem calSave_saves (hfree : u.maint.grantNow calToken = true) :
    calSave [] u = (u.modPwr fun p => { p with saved := p.user }, stOK, []) := by
  unfold calSave
  rw [if_neg (by decide), if_neg (by simp [hfree])]

/-! ## Seed units (15 R404, R405, R409) -/

theorem orderSwap_granted {t : Token} (hfree : u.maint.grantNow t = true) : orderSwap u t = (takeToken u t, stOK, []) :=
  if_pos hfree

theorem seedSwap_lane (hlen : ws.length = 3) (hkind : bodyNat ws 0 = 0) (hlane : bodyNat ws 1 < 2) (hlink : bodyNat ws 2 < 32)
    (hside : bodyNat ws 2 / 16 = bodyNat ws 1) (hfit : u.linkFitted (bodyNat ws 2) = true)
    (hunused : u.net.seedLanes.any (·.1 == bodyNat ws 1) = false)
    (hfree : u.maint.grantNow (laneToken (bodyNat ws 1) (bodyNat ws 2)) = true) :
    seedSwap ws u = (takeToken u (laneToken (bodyNat ws 1) (bodyNat ws 2)), stOK, []) := by
  unfold seedSwap
  dsimp only
  rw [if_neg (not_not_intro hlen), hkind, if_neg (by omega), hfit, hunused]
  exact orderSwap_granted hfree

theorem seedSwap_row (hlen : ws.length = 3) (hkind : bodyNat ws 0 = 1) (htile : bodyNat ws 1 < 128)
    (hfree : u.maint.grantNow (rowToken (bodyNat ws 1) (bodyNat ws 2)) = true) :
    seedSwap ws u = (takeToken u (rowToken (bodyNat ws 1) (bodyNat ws 2)), stOK, []) := by
  unfold seedSwap
  dsimp only
  rw [if_neg (not_not_intro hlen), hkind]
  exact (if_neg (Nat.not_le.mpr htile)).trans (orderSwap_granted hfree)

theorem seedSwap_tile (hlen : ws.length = 3) (hkind : bodyNat ws 0 = 2) (htile : bodyNat ws 1 < 128)
    (hseed : Tab.get u.maint.seedTiles (bodyNat ws 1 / 16) 0 ≠ 0) (hfree : u.maint.grantNow (tileToken (bodyNat ws 1)) = true) :
    seedSwap ws u = (takeToken (u.modMaint fun m => { m with failing := addOnce (bodyNat ws 1) m.failing })
      (tileToken (bodyNat ws 1)), stOK, []) := by
  unfold seedSwap
  dsimp only
  rw [if_neg (not_not_intro hlen), hkind]
  exact (if_neg (Nat.not_le.mpr htile)).trans ((if_neg hseed).trans (if_pos hfree))

/-! ## Firmware (17 R451, R452) -/

theorem fwStageBegin_opens (hlen : ws.length = 2) (hnew : u.holds stagingToken = false)
    (hfree : u.maint.grantNow stagingToken = true) :
    fwStageBegin ws u = ((takeToken u stagingToken).modMgt (·.opened (bodyNat ws 0 + bodyNat ws 1 * 2 ^ 32)), stOK, []) := by
  unfold fwStageBegin
  rw [if_neg (not_not_intro hlen), if_neg (by simp [hfree]), hnew]
  rfl

theorem fwStageData_stages (hlen : ws.length = 3 + (bodyNat ws 2 + 3) / 4) (hmost : bodyNat ws 2 ≤ 1024) (hopen : u.mgt.stage = 1#3)
    (hend : bodyNat ws 0 + bodyNat ws 1 * 2 ^ 32 + bodyNat ws 2 ≤ u.mgt.stageLen) :
    fwStageData ws u = (u.modMgt fun m => { m with
      stageMem := Mem.putBytes m.stageMem zeroByte (bodyNat ws 0 + bodyNat ws 1 * 2 ^ 32) ((wordsBytes (ws.drop 3)).take (bodyNat ws 2))
      stageBytes := satAdd32 m.stageBytes (bodyNat ws 2) }, stOK, []) := by
  unfold fwStageData
  dsimp only
  exact if_neg fun h => h.elim (· hlen) fun h => h.elim (Nat.not_lt.mpr hmost) fun h => h.elim (· hopen) (Nat.not_lt.mpr hend)

theorem fwStageEnd_closes (hopen : u.mgt.stage = 1#3) :
    fwStageEnd [] u = (((u.modMgt (·.closed u.mgt.stagedImage ((u.mgt.stagedImage.map fun i =>
      i.acceptable u.mgt.fuses && i.fwOk && i.compsOk).getD false))).modMgt (·.judged)).releaseToken stagingToken, stOK, []) :=
  if_neg (by simp [hopen])

/-- The slot that runs, measured, or the other, staged, becomes the one preferred. -/
theorem fwActivate_prefers (hlen : ws.length = 1) (hslot : bodyNat ws 0 ≤ 1)
    (h : (u.mgt.measured ≠ [] ∧ (bodyNat ws 0 == 1) = u.mgt.running) ∨ ((bodyNat ws 0 == 1) ≠ u.mgt.running ∧ u.mgt.stage = 3#3)) :
    fwActivate ws u = (u.modMgt fun m => { m with pref := bodyNat ws 0 == 1 }, stOK, []) := by
  unfold fwActivate
  dsimp only
  generalize (bodyNat ws 0 == 1) = b at h ⊢
  have hok : (!u.mgt.measured.isEmpty && b == u.mgt.running ||
      b != u.mgt.running && (u.mgt.stage == 3#3 || u.mgt.otherSvn.isSome)) = true := by
    rcases h with ⟨hmeasured, hruns⟩ | ⟨hother, hstaged⟩
    · simp [hmeasured, hruns]
    · simp [hother, hstaged]
  rw [if_neg fun h => h.elim (· hlen) fun h => h.elim (Nat.not_lt.mpr hslot) fun h => ne_true_of_eq_false h hok]

/-- What burning an image can change: the rollback level and the revocations. -/
theorem Fuses.burn_eq_self {f : Fuses} {i : Image} (hroll : (f.burn i).rollback = f.rollback)
    (hed : (f.burn i).edRevoked = f.edRevoked) (hml : (f.burn i).mlRevoked = f.mlRevoked) : f.burn i = f := by
  calc f.burn i
      = { f with rollback := (f.burn i).rollback, edRevoked := (f.burn i).edRevoked, mlRevoked := (f.burn i).mlRevoked } := rfl
    _ = f := by rw [hroll, hed, hml]

theorem fwCommit_burns {img : Image} (himg : u.mgt.slot u.mgt.running = some img) (hburn : u.mgt.fuses.burn img ≠ u.mgt.fuses) :
    fwCommit [] u = ((u.modMgt (·.burned (u.mgt.fuses.burn img))).modMgt (·.judged), stOK, []) := by
  unfold fwCommit
  dsimp only
  rw [if_neg (by decide), himg]
  exact if_neg fun ⟨hroll, hed, hml⟩ => hburn (Fuses.burn_eq_self hroll hed hml)

/-! ## Reset and the proxy (17 R448; 18 R467) -/

/-- An admitted request is answered, with the status of the command that ran. -/
theorem serveWith_admitted {cmd st : Nat} {auth : Bool} {f : State → Served} {t : State} {body : List W32} (h : Admitted s cmd auth r)
    (hf : f (s.noted auth r) = (t, st, body)) : serveWith cmd auth r s f = (s.answered t cmd auth r st body, some st) := by
  have hserved : (!s.pathUp r.path || (s.phase == .dormant && !dormantServes cmd)) = false := by
    by_cases hd : s.phase = .dormant
    · simp [h.path, h.dormant hd]
    · simp [h.path, hd]
  have hreply := replyTo_served h.recovery hf
  unfold serveWith
  rw [hserved]
  dsimp only
  rw [h.admission]
  cases hauth : authenticated auth r <;> rw [hauth] at hreply <;>
    simp only [hreply, Bool.false_eq_true, if_false, if_true]

/-- An admitted RESET replies, and then the module resets. -/
theorem serveReset_admitted (h : Admitted s 0x31 true r) (hbody : r.body = []) :
    serveReset r s = resetModule (s.answered (s.noted true r) 0x31 true r stOK []) := by
  have hruns : resetRequest r.body (s.noted true r) = (s.noted true r, stOK, []) := if_pos (List.isEmpty_iff.mpr hbody)
  unfold serveReset
  rw [serveWith_admitted h hruns]
  exact if_pos rfl

theorem proxyDoorbell_runs {v : W32} {q : MgmtReq} {cmd : Nat} (hproxy : s.mgt.proxy.isSome = true)
    (hreq : mailboxRequest s.mgt v.toNat = some (cmd, q)) : proxyDoorbell s v = mgmtRequest s cmd q := by
  obtain ⟨p, hp⟩ := Option.isSome_iff_exists.mp hproxy
  unfold proxyDoorbell
  rw [hp, hreq]

/-- Settles O53: each admitted request is answered with what its command answers; RESET resets after its reply, and the doorbell runs
the request in the mailbox. -/
theorem moduleRowsComplete : Obligations.ModuleRowsComplete := by
  intro s r q u img v cmd hu
  subst hu
  refine ⟨?regWrite, ?ready, ?nap, ?sleep, ?dormant, ?reset, ?calSave, ?lane, ?row, ?tile, ?begin, ?data, ?close, ?activate, ?commit,
    ?key, ?provision, ?doorbell⟩
  case regWrite => exact fun h hrange hend => exec_served rfl h (regWrite_writes hrange hend)
  case ready => exact fun h hbody hrun => exec_served rfl h (hbody ▸ requestReady_running hrun)
  case nap => exact fun h hbody hrun hstate hfree => exec_served rfl h (hbody ▸ requestLow_entered hrun hstate hfree)
  case sleep =>
    exact fun h hbody hrun hstate hparts => exec_served rfl h (hbody ▸ requestLow_entered hrun hstate (by rw [hparts]; rfl))
  case dormant =>
    intro h hbody hrun hstate hlow
    have hfree : (!(s.noted true r).parts.isEmpty && (s.noted true r).pins.pwrEn) = false := by
      rcases hlow with hparts | hpin
      · rw [hparts]
        rfl
      · rw [hpin, Bool.and_false]
    exact exec_served rfl h (hbody ▸ requestLow_entered hrun hstate hfree)
  case reset => exact fun h hbody => congrArg _ (serveReset_admitted h hbody)
  case calSave => exact fun h hbody hfree => exec_served rfl h (hbody ▸ calSave_saves hfree)
  case lane =>
    exact fun h hlen hkind hlane hlink hside hfit hunused hfree =>
      exec_served rfl h (seedSwap_lane hlen hkind hlane hlink hside hfit hunused hfree)
  case row => exact fun h hlen hkind htile hfree => exec_served rfl h (seedSwap_row hlen hkind htile hfree)
  case tile => exact fun h hlen hkind htile hseed hfree => exec_served rfl h (seedSwap_tile hlen hkind htile hseed hfree)
  case begin => exact fun h hlen hnew hfree => exec_served rfl h (fwStageBegin_opens hlen hnew hfree)
  case data => exact fun h hlen hmost hopen hend => exec_served rfl h (fwStageData_stages hlen hmost hopen hend)
  case close => exact fun h hbody hopen => exec_served rfl h (hbody ▸ fwStageEnd_closes hopen)
  case activate => exact fun h hlen hslot hwhich => exec_served rfl h (fwActivate_prefers hlen hslot hwhich)
  case commit => exact fun h hbody himg hburn => exec_served rfl h (hbody ▸ fwCommit_burns himg hburn)
  case key => exact fun h hlen => exec_served rfl h (if_pos hlen)
  case provision => exact fun h hlen hres => exec_served rfl h (if_neg fun hbad => hbad.elim (· hlen) (· hres))
  case doorbell =>
    exact fun hwindow hproxy hreq => (if_pos (by rw [hwindow, hproxy]; rfl)).trans
      (congrArg _ (proxyDoorbell_runs hproxy hreq))

/-! ## Requests that are not accepted (17 R445, R446) -/

/-- What authentication finds of a request that needs it. -/
theorem admission_refused {cmd : Nat} (hpath : r.path ≠ .i3c) :
    (s.macOk cmd r = false → s.wake.admission cmd true r = .badMac) ∧
    (s.macOk cmd r = true → r.counter.toNat < s.mgt.ctr.toNat → s.wake.admission cmd true r = .stale) := by
  have hauth : (!true || r.path == .i3c) = false := by simp [hpath]
  unfold State.admission
  rw [hauth, State.macOk_wake, State.wake_mgt]
  refine ⟨fun hmac => by rw [hmac]; rfl, fun hmac hstale => ?_⟩
  have hother : (r.counter == s.mgt.ctr) = false := by
    rw [beq_eq_false_iff_ne]
    intro h
    exact Nat.lt_irrefl _ (h ▸ hstale)
  rw [hmac, if_neg Bool.false_ne_true, if_neg (by decide), if_neg (Nat.not_lt.mpr (Nat.le_of_lt hstale)), hother]
  rfl

/-- A request on a working path that reaches authentication, outside Dormant. -/
theorem mgmtRequest_authenticates {cmd : Nat} (hpath : s.pathUp r.path = true) (hphase : s.phase ≠ .dormant) (hcmd : cmd ≠ 0x31)
    (hauth : (mgmtBody cmd r.body).1 = true) :
    (s.wake.admission cmd true r = .badMac →
      mgmtRequest s cmd r = (s.wake.modMgt fun m => { m with authFail := satAdd32 m.authFail 1 }).noteSched) ∧
    (s.wake.admission cmd true r = .stale →
      mgmtRequest s cmd r = (s.wake.modMgt fun m => { m with replay := satAdd32 m.replay 1 }).noteSched) := by
  have hserved : (!s.pathUp r.path || (s.phase == .dormant && !dormantServes cmd)) = false := by simp [hpath, hphase]
  unfold mgmtRequest serve serveWith
  rw [if_neg hcmd, hauth, hserved, if_neg Bool.false_ne_true]
  dsimp only
  exact ⟨fun h => by rw [h], fun h => by rw [h]⟩

/-- Settles O54: what is not accepted is counted before its command is looked at. -/
theorem unauthenticatedChangesNothing : Obligations.UnauthenticatedChangesNothing := by
  intro s r cmd hpath hphase hwire hcmd hauth
  obtain ⟨hbad, hstale⟩ := admission_refused (s := s) (cmd := cmd) hwire
  obtain ⟨hcountBad, hcountStale⟩ := mgmtRequest_authenticates hpath hphase hcmd hauth
  exact ⟨fun hmac => hcountBad (hbad hmac), fun hmac hold => hcountStale (hstale hmac hold), fun h => h ▸ rfl, fun h => h ▸ rfl,
    fun h => h ▸ rfl⟩

end Sys2Proof.Machine
end
